-- ==== Sys2Proof/Word.lean ====
section
/-! DEFINITION. The word types of the PZ9 and their plainest arithmetic (01_machine.md R33, 00_scope.md R2, R3).
Every helper that reads a field of a word stands in Sys2Proof/Machine/Formats.lean or later. -/
namespace Sys2Proof

/-- A byte of memory (R2). -/
abbrev Byte := BitVec 8
/-- One lane of a vector register, and one instruction word (R33, R63). -/
abbrev Word := BitVec 32
/-- A scalar register, an address, a special register (R33). -/
abbrev DWord := BitVec 64
/-- One bit per lane: predicates and activity masks (R33). -/
abbrev Mask := BitVec 96
/-- A register number as the base formats encode it (R65). -/
abbrev RegNum := BitVec 6

/-- Number of lanes of a group (R12). -/
def lanes : Nat := 96

end Sys2Proof
end

