-- ==== Sys2Proof/Machine/Formats.lean ====
section
/-! DEFINITION. The word layouts of 03_encoding.md (R64, R65, R68, R72) as records, the packing of a record into words and
back, the fault names of R91, and the small records by which events name what they act on. -/
namespace Sys2Proof.Machine

/-- word1 of the extended form (R68), highest field first. -/
structure Word1 where
  mod : BitVec 5
  rel : BitVec 1
  acq : BitVec 1
  fs : BitVec 1
  absB : BitVec 1
  absA : BitVec 1
  negB : BitVec 1
  negA : BitVec 1
  sat : BitVec 1
  rnd : BitVec 3
  ty : BitVec 4
  sub : BitVec 6
  c : BitVec 6
  deriving DecidableEq, Repr

/-- word2 of the extended form (R68). -/
structure Word2 where
  ext : BitVec 8
  imm : BitVec 24
  deriving DecidableEq, Repr

/-- What follows word0 (R64): the four values of LEN. -/
inductive Tail where
  | base
  | baseLit (lit : DWord)
  | ext (w1 : Word1) (w2 : Word2)
  | extLit (w1 : Word1) (w2 : Word2) (lit : DWord)
  deriving DecidableEq, Repr

/-- Format BR (R65), with the words that LEN adds. -/
structure FmtBR where
  sb : BitVec 1
  pn : BitVec 1
  pg : BitVec 3
  b : RegNum
  a : RegNum
  d : RegNum
  tail : Tail
  deriving DecidableEq, Repr

/-- Format BI (R65): an 11-bit immediate and two register fields. -/
structure FmtBI where
  imm11 : BitVec 11
  a : RegNum
  d : RegNum
  deriving DecidableEq, Repr

/-- Format BB of BRA (R65). -/
structure FmtBra where
  off : BitVec 17
  hint : BitVec 2
  pn : BitVec 1
  pg : BitVec 3
  deriving DecidableEq, Repr

/-- Format BC: a CLAUSE header (R65, R75). `count` holds COUNT - 1. -/
structure FmtBC where
  count : BitVec 3
  setb : BitVec 4
  seta : BitVec 4
  wait : BitVec 12
  deriving DecidableEq, Repr

/-- Format BS: SRD and SWR (R65). -/
structure FmtBS where
  z : BitVec 9
  num : BitVec 8
  r : RegNum
  deriving DecidableEq, Repr

/-- Format BW: WAITF (R65). -/
structure FmtBW where
  z : BitVec 11
  mask : BitVec 12
  deriving DecidableEq, Repr

/-- One operation of a pair (R72). -/
structure PairOp where
  sb : BitVec 1
  c : RegNum
  b : RegNum
  a : RegNum
  d : RegNum
  op : BitVec 7
  deriving DecidableEq, Repr

/-- A pair (R72): the shared guard, the two types, operation X (word1) and operation Y (word2). -/
structure FmtPair where
  z : BitVec 11
  tyY : BitVec 4
  tyX : BitVec 4
  pn : BitVec 1
  pg : BitVec 3
  x : PairOp
  y : PairOp
  deriving DecidableEq, Repr

/-! ### Packing -/

/-- word1 as a word (R68). -/
def Word1.pack (w : Word1) : Word :=
  w.mod ++ w.rel ++ w.acq ++ w.fs ++ w.absB ++ w.absA ++ w.negB ++ w.negA ++ w.sat ++ w.rnd ++ w.ty ++ w.sub ++ w.c

/-- word1 from a word (R68). -/
def Word1.unpack (w : Word) : Word1 where
  mod := w.extractLsb' 27 5
  rel := w.extractLsb' 26 1
  acq := w.extractLsb' 25 1
  fs := w.extractLsb' 24 1
  absB := w.extractLsb' 23 1
  absA := w.extractLsb' 22 1
  negB := w.extractLsb' 21 1
  negA := w.extractLsb' 20 1
  sat := w.extractLsb' 19 1
  rnd := w.extractLsb' 16 3
  ty := w.extractLsb' 12 4
  sub := w.extractLsb' 6 6
  c := w.extractLsb' 0 6

/-- word2 as a word (R68). -/
def Word2.pack (w : Word2) : Word := w.ext ++ w.imm

/-- word2 from a word (R68). -/
def Word2.unpack (w : Word) : Word2 := ⟨w.extractLsb' 24 8, w.extractLsb' 0 24⟩

/-- A word1 with every field zero. -/
def Word1.zero : Word1 := ⟨0, 0, 0, 0, 0, 0, 0, 0, 0, 0, 0, 0, 0⟩

/-- A word2 with every field zero. -/
def Word2.zero : Word2 := ⟨0, 0⟩

/-- A literal's two words, low word first (R64). -/
def litWords (l : DWord) : List Word := [l.extractLsb' 0 32, l.extractLsb' 32 32]

/-- A literal from its two words, low word first (R64). -/
def litOf (lo hi : Word) : DWord := hi ++ lo

/-- The value of LEN for each tail (R64). -/
def Tail.len : Tail → BitVec 2
  | .base => 0
  | .baseLit _ => 1
  | .ext _ _ => 2
  | .extLit _ _ _ => 3

/-- The words after word0 (R64). -/
def Tail.words : Tail → List Word
  | .base => []
  | .baseLit l => litWords l
  | .ext w1 w2 => [w1.pack, w2.pack]
  | .extLit w1 w2 l => w1.pack :: w2.pack :: litWords l

/-- word0 in format BR (R65). -/
def FmtBR.word0 (f : FmtBR) (op : BitVec 7) : Word :=
  f.sb ++ f.pn ++ f.pg ++ f.b ++ f.a ++ f.d ++ op ++ f.tail.len

/-- The words of a format-BR instruction. -/
def FmtBR.words (f : FmtBR) (op : BitVec 7) : List Word := f.word0 op :: f.tail.words

/-- Format BR read from word0 with the tail already read (R65). -/
def FmtBR.unpack (w : Word) (t : Tail) : FmtBR where
  sb := w.extractLsb' 31 1
  pn := w.extractLsb' 30 1
  pg := w.extractLsb' 27 3
  b := w.extractLsb' 21 6
  a := w.extractLsb' 15 6
  d := w.extractLsb' 9 6
  tail := t

/-- Format BI (R65). -/
def FmtBI.word0 (f : FmtBI) (op : BitVec 7) : Word := f.imm11 ++ f.a ++ f.d ++ op ++ (0 : BitVec 2)

/-- Format BI read from word0 (R65). -/
def FmtBI.unpack (w : Word) : FmtBI := ⟨w.extractLsb' 21 11, w.extractLsb' 15 6, w.extractLsb' 9 6⟩

/-- Format BB of BRA with LEN (R65, R84). -/
def FmtBra.word0 (f : FmtBra) (len : BitVec 2) : Word :=
  f.off ++ f.hint ++ f.pn ++ f.pg ++ (2 : BitVec 7) ++ len

/-- Format BB of BRA read from word0 (R65). -/
def FmtBra.unpack (w : Word) : FmtBra :=
  ⟨w.extractLsb' 15 17, w.extractLsb' 13 2, w.extractLsb' 12 1, w.extractLsb' 9 3⟩

/-- Format BC (R65). -/
def FmtBC.word0 (f : FmtBC) : Word := f.count ++ f.setb ++ f.seta ++ f.wait ++ (1 : BitVec 7) ++ (0 : BitVec 2)

/-- Format BC read from word0 (R65). -/
def FmtBC.unpack (w : Word) : FmtBC :=
  ⟨w.extractLsb' 29 3, w.extractLsb' 25 4, w.extractLsb' 21 4, w.extractLsb' 9 12⟩

/-- Format BS (R65). -/
def FmtBS.word0 (f : FmtBS) (op : BitVec 7) : Word := f.z ++ f.num ++ f.r ++ op ++ (0 : BitVec 2)

/-- Format BS read from word0 (R65). -/
def FmtBS.unpack (w : Word) : FmtBS := ⟨w.extractLsb' 23 9, w.extractLsb' 15 8, w.extractLsb' 9 6⟩

/-- Format BW (R65). -/
def FmtBW.word0 (f : FmtBW) (op : BitVec 7) : Word := f.z ++ f.mask ++ op ++ (0 : BitVec 2)

/-- Format BW read from word0 (R65). -/
def FmtBW.unpack (w : Word) : FmtBW := ⟨w.extractLsb' 21 11, w.extractLsb' 9 12⟩

/-- A word0 whose bits above OP are one field: BZ (23 bits) and JMP, CALL (OFF23) (R65). -/
def wordZ (z : BitVec 23) (op : BitVec 7) : Word := z ++ op ++ (0 : BitVec 2)

/-- Bits [31:9] of word0. -/
def unpackZ (w : Word) : BitVec 23 := w.extractLsb' 9 23

/-- One operation word of a pair (R72). -/
def PairOp.pack (p : PairOp) : Word := p.sb ++ p.c ++ p.b ++ p.a ++ p.d ++ p.op

/-- One operation of a pair from its word (R72). -/
def PairOp.unpack (w : Word) : PairOp :=
  ⟨w.extractLsb' 31 1, w.extractLsb' 25 6, w.extractLsb' 19 6, w.extractLsb' 13 6, w.extractLsb' 7 6, w.extractLsb' 0 7⟩

/-- The three words of a pair (R72); LEN is 10. -/
def FmtPair.words (f : FmtPair) : List Word :=
  [f.z ++ f.tyY ++ f.tyX ++ f.pn ++ f.pg ++ (0x7F : BitVec 7) ++ (2 : BitVec 2), f.x.pack, f.y.pack]

/-- A pair from its three words (R72). -/
def FmtPair.unpack (w0 w1 w2 : Word) : FmtPair :=
  ⟨w0.extractLsb' 21 11, w0.extractLsb' 17 4, w0.extractLsb' 13 4, w0.extractLsb' 12 1, w0.extractLsb' 9 3,
    PairOp.unpack w1, PairOp.unpack w2⟩

/-! ### Accessors over the tail -/

/-- word1 of a tail, all zero in the base forms: base words take the defaults of zero fields (R43, R165). -/
def Tail.w1 : Tail → Word1
  | .ext w1 _ => w1
  | .extLit w1 _ _ => w1
  | _ => Word1.zero

/-- word2 of a tail, all zero in the base forms. -/
def Tail.w2 : Tail → Word2
  | .ext _ w2 => w2
  | .extLit _ w2 _ => w2
  | _ => Word2.zero

/-- The literal of a tail, when LEN is 01 or 11 (R64). -/
def Tail.lit? : Tail → Option DWord
  | .baseLit l => some l
  | .extLit _ _ l => some l
  | _ => none

/-- LEN is 10 or 11. -/
def Tail.isExt : Tail → Bool
  | .ext _ _ => true
  | .extLit _ _ _ => true
  | _ => false

/-- word1 of a BR instruction. -/
def FmtBR.w1 (f : FmtBR) : Word1 := f.tail.w1
/-- word2 of a BR instruction. -/
def FmtBR.w2 (f : FmtBR) : Word2 := f.tail.w2
/-- The C field (R68). -/
def FmtBR.c (f : FmtBR) : RegNum := f.w1.c
/-- The SUB field (R68). -/
def FmtBR.sub (f : FmtBR) : BitVec 6 := f.w1.sub
/-- The TYPE field (R68). -/
def FmtBR.ty (f : FmtBR) : BitVec 4 := f.w1.ty
/-- The MOD field (R68). -/
def FmtBR.mod (f : FmtBR) : BitVec 5 := f.w1.mod
/-- EXT[0] selects the immediate (R70). -/
def FmtBR.immSel (f : FmtBR) : Bool := f.w2.ext.getLsbD 0

/-- Words of an instruction from its LEN (R64). -/
def lenWords (len : BitVec 2) : Nat := if len = 0 then 1 else if len = 3 then 5 else 3

/-! ### Fault names (R91) -/

/-- The fault codes of R91, the only ones the PZ9 raises. -/
inductive FaultCode where
  | illOp | illField | illLit | illPair | role | priv | divUniform | divDepth | clause | align | illAddr
  | pageProt | tier | sealed | world | addrRetired | dataLost | rank
  | barTimeout | barConfig | lock | redStall | deadlock | ring
  | copyDesc | copyFault | mcast
  | mmaShape | epi | vocNan | vocOrder | heapSpill
  | collNan | collAbort | remoteNack
  | taskq | nestDepth | frameStale | frameTag | key
  | trapSw | arith | machine
  deriving DecidableEq, Repr

/-- The 8-bit code of each fault (R91). -/
def FaultCode.code : FaultCode → BitVec 8
  | .illOp => 0x01 | .illField => 0x02 | .illLit => 0x03 | .illPair => 0x04 | .role => 0x05 | .priv => 0x06
  | .divUniform => 0x07 | .divDepth => 0x08 | .clause => 0x09 | .align => 0x0A | .illAddr => 0x0B
  | .pageProt => 0x11 | .tier => 0x12 | .sealed => 0x13 | .world => 0x14 | .addrRetired => 0x15
  | .dataLost => 0x16 | .rank => 0x17
  | .barTimeout => 0x20 | .barConfig => 0x21 | .lock => 0x22 | .redStall => 0x23 | .deadlock => 0x24 | .ring => 0x25
  | .copyDesc => 0x30 | .copyFault => 0x31 | .mcast => 0x32
  | .mmaShape => 0x40 | .epi => 0x41 | .vocNan => 0x48 | .vocOrder => 0x49 | .heapSpill => 0x4A
  | .collNan => 0x50 | .collAbort => 0x51 | .remoteNack => 0x52
  | .taskq => 0x58 | .nestDepth => 0x59 | .frameStale => 0x60 | .frameTag => 0x61 | .key => 0x62
  | .trapSw => 0x70 | .arith => 0x71 | .machine => 0x7F

/-- The four trap-class faults (R91, R154). -/
def FaultCode.trapClass : FaultCode → Bool
  | .trapSw | .arith | .heapSpill | .divUniform => true
  | _ => false

/-! ### Names of things, as events carry them -/

/-- A group: the key of its team in the team table, and its index in the team. -/
structure GRef where
  team : Nat
  grp : Nat
  deriving DecidableEq, Repr

/-- Where a placement puts a team (R13, R14, R456): its core, the partition of group 0 and the first byte of team
memory in the core's scratchpad. The spec leaves the choice open (R359). -/
structure Site where
  core : Nat
  part : Nat
  base : Nat
  deriving DecidableEq, Repr

/-- One companion access over the Cledel link (R440, R442). `reg` accesses name an offset of the register window,
others a physical address of device memory. -/
structure CompAccess where
  write : Bool
  reg : Bool
  addr : Nat
  bytes : Nat
  data : List Byte
  deriving DecidableEq, Repr

end Sys2Proof.Machine
end

