-- ==== Sys2Proof/Syntax.lean ====
section
/-! DEFINITION. The instructions of the PZ9: one constructor for each row of spec/opcode_table.json. A row that a program
encodes carries the fields of the manual's own format (03_encoding.md R65, R68, R72); a row that an engine performs on its
own (an event) carries the names of the things it acts on, and what the outside world brings to it. -/
namespace Sys2Proof
open Sys2Proof.Machine

/-- One constructor per row of the opcode table. -/
inductive Instr where
  /-- NOP (R84). Occupies one issue slot and has no other effect. -/
  | nop (z : BitVec 23)
  /-- CLAUSE (R75). Clause header that waits on the flags named in WAIT, then opens a clause of COUNT instructions that set SETA and SETB. -/
  | clause (f : FmtBC)
  /-- BRA (R139). Guarded branch that jumps, falls through or diverges with a JOIN and PATH push under the hint. -/
  | bra (f : FmtBra)
  /-- BRA_X (R140). Branch with an explicit reconvergence point that is checked to be a CLAUSE header at every issue. -/
  | braX (f : FmtBra) (w1 : Word1) (w2 : Word2)
  /-- JMP (R142). Sets the PC to the target without a push. -/
  | jmp (off : BitVec 23)
  /-- CALL (R138). Pushes a CALL entry holding the return address and jumps to the target. -/
  | call (off : BitVec 23)
  /-- RET (R138). Parks the returning lanes in the CALL entry and settles, or exits the lanes when no CALL entry exists. -/
  | ret (z : BitVec 23)
  /-- BRX (R142). Indirect jump to s[A], with ALIGN, ILL_ADDR and CLAUSE checks. -/
  | brx (f : FmtBR)
  /-- YIELD (R132). Gives way: the group's next clause counts as ready last and becomes the first to be displaced. -/
  | yield (z : BitVec 23)
  /-- EXIT (R138). The lanes selected by the guard exit for good, and the group settles. -/
  | exit (f : FmtBR)
  /-- EXIT_S (R143). Ends every lane of a task group and fixes the successor descriptor address, or raises TASKQ. -/
  | exitS (f : FmtBR)
  /-- WAITF (R142). The group issues nothing further until every flag in MASK has a count of zero. -/
  | waitf (f : FmtBW)
  /-- TRAP (R154). Raises TRAP_SW, with the code as DETAIL. -/
  | trap (f : FmtBI)
  /-- TRET (R156). Returns from the handler and restores the mask and stack depth, resuming at %trappc and the RESUME slot. -/
  | tret (z : BitVec 23)
  /-- BKPT (R160). Halts the context for debug when BKEN is set, and acts as NOP otherwise. -/
  | bkpt (f : FmtBI)
  /-- SRD (R88). Reads a special register into s[D], or reads %lane into a vector register. -/
  | srd (f : FmtBS)
  /-- SWR (R148). Writes a special register from s[A], with PRIV or ILL_FIELD checks. -/
  | swr (f : FmtBS)
  /-- SLEEP (R142). The group is not ready for IMM11 × 64 cycles. -/
  | sleep (f : FmtBI)
  /-- SLEEP_EXPIRY (R142). The sleep count of a group runs out and the group becomes ready again. -/
  | sleepExpiry (r : GRef)
  /-- SADD (R144). Scalar add modulo 2^64. -/
  | sadd (f : FmtBR)
  /-- SSUB (R144). Scalar subtract. -/
  | ssub (f : FmtBR)
  /-- SMUL (R144). Low 64 bits of a scalar product. -/
  | smul (f : FmtBR)
  /-- SMULH (R144). High 64 bits of a signed or natural scalar product. -/
  | smulh (f : FmtBR)
  /-- SAND (R144). Scalar bitwise AND. -/
  | sand (f : FmtBR)
  /-- SOR (R144). Scalar bitwise OR. -/
  | sor (f : FmtBR)
  /-- SXOR (R144). Scalar bitwise XOR. -/
  | sxor (f : FmtBR)
  /-- SANDN (R144). Scalar a AND NOT b. -/
  | sandn (f : FmtBR)
  /-- SSHL (R144). Scalar shift left, giving 0 for counts of 64 or more. -/
  | sshl (f : FmtBR)
  /-- SSHR (R144). Scalar logical shift right. -/
  | sshr (f : FmtBR)
  /-- SSRA (R144). Scalar arithmetic shift right. -/
  | ssra (f : FmtBR)
  /-- SMIN (R144). Scalar signed or natural minimum. -/
  | smin (f : FmtBR)
  /-- SMAX (R144). Scalar signed or natural maximum. -/
  | smax (f : FmtBR)
  /-- SCMP (R146). Compares scalars and writes a uniform predicate. -/
  | scmp (f : FmtBR)
  /-- SSEL (R144). Selects a or b by bit 0 of a predicate. -/
  | ssel (f : FmtBR)
  /-- SMOV (R144). Moves operand b into s[D]. -/
  | smov (f : FmtBR)
  /-- SPOPC (R144). Counts the one bits of a scalar. -/
  | spopc (f : FmtBR)
  /-- SCLZ (R144). Counts the leading zeros of a scalar. -/
  | sclz (f : FmtBR)
  /-- SBFE (R144). Extracts a scalar bit field. -/
  | sbfe (f : FmtBR)
  /-- SBFI (R144). Inserts a scalar bit field. -/
  | sbfi (f : FmtBR)
  /-- SDIV (R145). Scalar division truncating toward zero; division by zero may raise ARITH. -/
  | sdiv (f : FmtBR)
  /-- SREM (R145). Scalar remainder with the sign of the dividend; division by zero may raise ARITH. -/
  | srem (f : FmtBR)
  /-- SADDR (R144). Computes a + (b << MOD). -/
  | saddr (f : FmtBR)
  /-- PAND (R147). Predicate AND over all 96 bits. -/
  | pand (f : FmtBR)
  /-- POR (R147). Predicate OR. -/
  | por (f : FmtBR)
  /-- PXOR (R147). Predicate XOR. -/
  | pxor (f : FmtBR)
  /-- PANDN (R147). Predicate p[A] AND NOT p[B]. -/
  | pandn (f : FmtBR)
  /-- PNOT (R147). Predicate NOT. -/
  | pnot (f : FmtBR)
  /-- PMOV_TO_SCALAR (R147). Copies a predicate into three scalar registers. -/
  | pmovToScalar (f : FmtBR)
  /-- PMOV_TO_PREDICATE (R147). Copies three scalar registers into a predicate. -/
  | pmovToPredicate (f : FmtBR)
  /-- BALLOT (R147). Writes p[A] AND the activity mask into two scalar registers. -/
  | ballot (f : FmtBR)
  /-- PPOPC (R147). Counts the active lanes set in a predicate. -/
  | ppopc (f : FmtBR)
  /-- PFIRST (R147). Gives the lowest active lane set in a predicate, or 96. -/
  | pfirst (f : FmtBR)
  /-- PTEST (R147). Tests a predicate for ANY, ALL or NONE and writes a uniform predicate. -/
  | ptest (f : FmtBR)
  /-- VADD (R166). Lane-wise integer add, saturating when SAT is set. -/
  | vadd (f : FmtBR)
  /-- VSUB (R166). Lane-wise integer subtract. -/
  | vsub (f : FmtBR)
  /-- VMUL (R166). Low bits of a lane-wise integer product. -/
  | vmul (f : FmtBR)
  /-- VMULH (R166). High bits of a lane-wise integer product. -/
  | vmulh (f : FmtBR)
  /-- VMAD (R166). Lane-wise integer multiply-add. -/
  | vmad (f : FmtBR)
  /-- VAND (R166). Lane-wise bitwise AND. -/
  | vand (f : FmtBR)
  /-- VOR (R166). Lane-wise bitwise OR. -/
  | vor (f : FmtBR)
  /-- VXOR (R166). Lane-wise bitwise XOR. -/
  | vxor (f : FmtBR)
  /-- VANDN (R166). Lane-wise a AND NOT b. -/
  | vandn (f : FmtBR)
  /-- VSHL (R166). Lane-wise shift left. -/
  | vshl (f : FmtBR)
  /-- VSHR (R166). Lane-wise logical shift right. -/
  | vshr (f : FmtBR)
  /-- VSRA (R166). Lane-wise arithmetic shift right. -/
  | vsra (f : FmtBR)
  /-- VMIN (R166). Lane-wise integer minimum. -/
  | vmin (f : FmtBR)
  /-- VMAX (R166). Lane-wise integer maximum. -/
  | vmax (f : FmtBR)
  /-- VABS (R166). Lane-wise integer absolute value. -/
  | vabs (f : FmtBR)
  /-- VNEG (R166). Lane-wise integer negation. -/
  | vneg (f : FmtBR)
  /-- VCMP (R167). Lane-wise integer compare into a predicate. -/
  | vcmp (f : FmtBR)
  /-- VSEL (R168). Lane-wise selection of a or b by a predicate. -/
  | vsel (f : FmtBR)
  /-- VMOV (R168). Moves operand b into each selected lane. -/
  | vmov (f : FmtBR)
  /-- VPOPC (R166). Counts the one bits of each element. -/
  | vpopc (f : FmtBR)
  /-- VCLZ (R166). Counts the leading zeros of each element. -/
  | vclz (f : FmtBR)
  /-- VHASH (R166). Applies Mix32 to each lane. -/
  | vhash (f : FmtBR)
  /-- VBFE (R169). Lane-wise bit-field extract. -/
  | vbfe (f : FmtBR)
  /-- VBFI (R169). Lane-wise bit-field insert. -/
  | vbfi (f : FmtBR)
  /-- VFADD (R170). Floating-point add, rounded once. -/
  | vfadd (f : FmtBR)
  /-- VFSUB (R170). Floating-point subtract. -/
  | vfsub (f : FmtBR)
  /-- VFMUL (R170). Floating-point multiply. -/
  | vfmul (f : FmtBR)
  /-- VFMA (R171). Fused multiply-add, rounded once. -/
  | vfma (f : FmtBR)
  /-- VFDOT2 (R171). Two-element packed dot product plus an FP32 addend. -/
  | vfdot2 (f : FmtBR)
  /-- VFMIN (R170). Floating-point minimum by FMin. -/
  | vfmin (f : FmtBR)
  /-- VFMAX (R170). Floating-point maximum by FMax. -/
  | vfmax (f : FmtBR)
  /-- VFCMP (R172). Floating-point compare into a predicate. -/
  | vfcmp (f : FmtBR)
  /-- VFCLASS (R172). Writes a 10-bit class mask of each element. -/
  | vfclass (f : FmtBR)
  /-- VFRCP (R173). Correctly rounded reciprocal on the SFU; long-latency. -/
  | vfrcp (f : FmtBR)
  /-- VFRSQ (R173). Correctly rounded reciprocal square root. -/
  | vfrsq (f : FmtBR)
  /-- VFSQRT (R173). Correctly rounded square root. -/
  | vfsqrt (f : FmtBR)
  /-- VFEXP2 (R173). Correctly rounded 2^x. -/
  | vfexp2 (f : FmtBR)
  /-- VFLOG2 (R173). Correctly rounded log2. -/
  | vflog2 (f : FmtBR)
  /-- VFSIN (R173). Correctly rounded sine. -/
  | vfsin (f : FmtBR)
  /-- VFCOS (R173). Correctly rounded cosine. -/
  | vfcos (f : FmtBR)
  /-- VFTANH (R173). Correctly rounded hyperbolic tangent. -/
  | vftanh (f : FmtBR)
  /-- VFCVT (R176). Converts between FP formats into selected destination elements. -/
  | vfcvt (f : FmtBR)
  /-- VICVT (R177). Converts to or from integer formats. -/
  | vicvt (f : FmtBR)
  /-- VFPACK (R178). Packs FP32 values into narrower formats or quantises MX blocks per beat. -/
  | vfpack (f : FmtBR)
  /-- VFRND (R174). Rounds each element to an integral value. -/
  | vfrnd (f : FmtBR)
  /-- VFSCALE (R174). Multiplies by 2^n, with one rounding. -/
  | vfscale (f : FmtBR)
  /-- VSHUF (R180). Moves lanes by index, XOR, UP or DOWN. -/
  | vshuf (f : FmtBR)
  /-- VBCAST (R181). Broadcasts lane n of v[A]. -/
  | vbcast (f : FmtBR)
  /-- VRED (R182). Reduces the selected lanes into s[D]. -/
  | vred (f : FmtBR)
  /-- VSCAN (R183). Inclusive or exclusive scan over the selected lanes. -/
  | vscan (f : FmtBR)
  /-- VMATCH (R184). Groups the selected lanes by key, writing count and leader. -/
  | vmatch (f : FmtBR)
  /-- VCOMPACT (R185). Writes the selected lanes' values to the low lanes. -/
  | vcompact (f : FmtBR)
  /-- VEXPAND (R185). Gives the k-th selected lane the value of lane k. -/
  | vexpand (f : FmtBR)
  /-- VROT (R181). Rotates lanes by n modulo 96. -/
  | vrot (f : FmtBR)
  /-- ATLOAD (R187). Hands a table image to the table unit and holds the group until CUR switches or the load fails. -/
  | atload (f : FmtBR)
  /-- ATEVAL (R189). Evaluates the activation table of the current bank per lane. -/
  | ateval (f : FmtBR)
  /-- TABLE_WRITE_START (R188). Once no user remains on the target bank, the waiting ATLOAD's image is read and written into that bank. -/
  | tableWriteStart (team : Nat)
  /-- TABLE_SWITCH (R188). When the last segment is written, CUR switches to the new bank and the issuing group resumes, or ILL_FIELD is raised. -/
  | tableSwitch (team : Nat)
  /-- PAIR (R74). Issues a main-pipe and a side-pipe operation together in three beats. -/
  | pair (f : FmtPair)
  /-- LD (R194). Vector load of a space and size into registers. -/
  | ld (f : FmtBR)
  /-- ST (R194). Vector store. -/
  | st (f : FmtBR)
  /-- LDS (R195). Base-form scalar 64-bit load with an IMM11 offset. -/
  | lds (f : FmtBI)
  /-- LDS_EXT (R195). Extended scalar load with space, size and ACQ. -/
  | ldsExt (f : FmtBR)
  /-- STS (R195). Base-form scalar 64-bit store. -/
  | sts (f : FmtBI)
  /-- STS_EXT (R195). Extended scalar store with space, size and REL. -/
  | stsExt (f : FmtBR)
  /-- ATOM (R213). Atomic read-modify-write at the unit's home, returning the old value. -/
  | atom (f : FmtBR)
  /-- RED (R216). Integer or bitwise reduction through the update-only state or at the scratchpad. -/
  | red (f : FmtBR)
  /-- RED_FADD (R218). Sends a sequenced floating-point contribution to its stream. -/
  | redFadd (f : FmtBR)
  /-- FENCE_ACQ (R113). Waits for earlier loads, then performs an acquire. -/
  | fenceAcq (f : FmtBR)
  /-- FENCE_REL (R113). Waits for all of R111, so that later writes follow it. -/
  | fenceRel (f : FmtBR)
  /-- FENCE_AR (R113). Waits for all of R111, then performs an acquire. -/
  | fenceAr (f : FmtBR)
  /-- FENCE_COPY (R113). Waits until the group's earlier copies, GETs and drains have placed their bytes, then acquires over them. -/
  | fenceCopy (f : FmtBR)
  /-- FENCE_TIER (R113). Orders the group's pod and remote accesses. -/
  | fenceTier (f : FmtBR)
  /-- PREF (R212). Prefetches lines into L1 or L2 with no fault. -/
  | pref (f : FmtBR)
  /-- BAR_ARRIVE (R150). Counts the group's arrival in the current phase. -/
  | barArrive (f : FmtBR)
  /-- BAR_WAIT (R150). Blocks until the phase of the group's last arrival completes. -/
  | barWait (f : FmtBR)
  /-- BAR_SYNC (R150). Arrives, then waits. -/
  | barSync (f : FmtBR)
  /-- BAR_DROP (R150). Arrives and lowers the expected count from the next phase. -/
  | barDrop (f : FmtBR)
  /-- BAR_QUERY (R150). Reads phase, expected count and arrivals. -/
  | barQuery (f : FmtBR)
  /-- BARRIER_PHASE_COMPLETE (R151). A phase completes once the release of every arrival counted in it has completed, and its waiters resume. -/
  | barrierPhaseComplete (bar : Nat)
  /-- BARRIER_SWAP_ELIGIBLE (R130). A barrier wait not satisfied after 256 cycles makes the group swap-eligible. -/
  | barrierSwapEligible (r : GRef)
  /-- LOOKOUT (R153). The barrier watchdog reaches its limit, writes the diagnostic record and raises BAR_TIMEOUT. -/
  | lookout (bar : Nat)
  /-- LOCK_ACQ (R223). Requests a lock and completes on the grant. -/
  | lockAcq (f : FmtBR)
  /-- LOCK_TRY (R223). Takes a lock only if it is free, and writes a predicate. -/
  | lockTry (f : FmtBR)
  /-- LOCK_REL (R223). Writes back the changed guarded words, then passes the lock on. -/
  | lockRel (f : FmtBR)
  /-- LOCK_GRANT (R225). After the write-back, grants the lock to the queue head and pushes the guarded ranges into its L1 in state O. -/
  | lockGrant (lock : Nat)
  /-- RING_RESERVE (R254). Claims the TAIL slot as CS when free; an acquire. -/
  | ringReserve (f : FmtBR)
  /-- RING_COMMIT (R254). Moves a CS slot to L; a release. -/
  | ringCommit (f : FmtBR)
  /-- RING_WAIT (R254). Waits until a slot is L or LF with the given phase; an acquire. -/
  | ringWait (f : FmtBR)
  /-- RING_FREE (R254). Moves an L or LF slot to F or D; a release. -/
  | ringFree (f : FmtBR)
  /-- RING_QUERY (R254). Reads the ring state into s[D]. -/
  | ringQuery (f : FmtBR)
  /-- RING_LOGWAIT (R258). Blocks until a logbook record is available. -/
  | ringLogwait (f : FmtBR)
  /-- RING_LOGPOP (R258). Takes one logbook record and acquires, or returns all ones. -/
  | ringLogpop (f : FmtBR)
  /-- TCOPY (R234). Enters a tensor copy into the team's copy queue. -/
  | tcopy (f : FmtBR)
  /-- TCOPY_MC (R250). Multicast copy into the rings of the receiver teams. -/
  | tcopyMc (f : FmtBR)
  /-- TCOPY_CH (R251). Chain copy forwarded hop by hop. -/
  | tcopyCh (f : FmtBR)
  /-- GTHR (R259). Gathers table rows by index. -/
  | gthr (f : FmtBR)
  /-- CQUIESCE (R235). Completes when the team's earlier copies are complete. -/
  | cquiesce (f : FmtBR)
  /-- CQUIESCE_SET (R235). Sets a multicast or chain table entry, or raises MCAST. -/
  | cquiesceSet (f : FmtBR)
  /-- COPY_START (R232). A copy queue head starts once it can claim and an execution place is free, reading its descriptor. -/
  | copyStart (team : Nat)
  /-- COPY_COMPLETE (R242). When every destination unit is performed, commits the ring slots, writes the logbook record and frees the queue entry. -/
  | copyComplete (copy : Nat)
  /-- MULTICAST_DELIVERY (R250). Multicast data reaches a receiver, which claims and commits a slot of its own ring. -/
  | multicastDelivery (copy core : Nat)
  /-- CHAIN_FORWARD (R251). A chain position commits its slot as LF and forwards it to the next position. -/
  | chainForward (copy : Nat)
  /-- LOGBOOK_RECORD_WRITE (R256). A record waiting for room is written once a LOGPOP frees an entry. -/
  | logbookRecordWrite (copy : Nat)
  /-- SOUNDING_TOKEN_SEND (R260). A queue head blocked for 4,096 cycles sends a sounding token. -/
  | soundingTokenSend (team : Nat)
  /-- SOUNDING_TOKEN_PASS (R260). A token reaches a node and is forwarded, dropped or closes a cycle at its origin. -/
  | soundingTokenPass (token edge : Nat)
  /-- MMA (R267). Issues one matrix beat-operation per active beat into the array queue. -/
  | mma (f : FmtBR)
  /-- MZERO (R272). Zeroes the active rows and sets the tile type. -/
  | mzero (f : FmtBR)
  /-- MDRAIN (R278). Drains a tile through the bound TEP program to an address. -/
  | mdrain (f : FmtBR)
  /-- MDRAIN_RING (R280). Drains a tile into a ring slot claimed at issue. -/
  | mdrainRing (f : FmtBR)
  /-- EPIBIND (R276). Reads and checks a TEP image and makes it the team's binding. -/
  | epibind (f : FmtBR)
  /-- MLOAD (R272). Loads tile rows from the scratchpad. -/
  | mload (f : FmtBR)
  /-- MSYNC (R273). Completes when the group's earlier matrix and VOC operations complete. -/
  | msync (f : FmtBR)
  /-- PASS_CLOSE (R270). A pass closes at four members or at the end of cycle c + 7. -/
  | passClose (pass : Nat)
  /-- PASS_START (R270). A closed pass starts when enough arrays are free, reads B once and runs its members. -/
  | passStart (pass : Nat)
  /-- TILE_OP_TAKE_EFFECT (R264). An operation whose operands have arrived takes effect on its tile once every earlier entry has. -/
  | tileOpTakeEffect (op : Nat)
  /-- DRAIN_START (R280). The TEP starts a queued drain once earlier tile operations have taken effect. -/
  | drainStart (team : Nat)
  /-- DRAIN_COMPLETE (R280). The drain finishes its writes, commits its ring slot and frees the queue entry. -/
  | drainComplete (team : Nat)
  /-- VOCI (R328). Initialises the state records of a tile from a setup block. -/
  | voci (f : FmtBR)
  /-- VOCI_SPILL (R329). Gives the records new spill areas. -/
  | vociSpill (f : FmtBR)
  /-- VOCF (R331). Folds one vocabulary chunk into every valid record. -/
  | vocf (f : FmtBR)
  /-- VOCB (R341). Regenerates logits and accumulates the dH and dW gradients. -/
  | vocb (f : FmtBR)
  /-- VOCM (R338). Merges record images into the records in shard order. -/
  | vocm (f : FmtBR)
  /-- VOCR (R335). Writes the valid records as images. -/
  | vocr (f : FmtBR)
  /-- PUT (R306). One-sided write of a byte range to another rank. -/
  | put (f : FmtBR)
  /-- PUTSIG (R306). A put followed by a signal increment. -/
  | putsig (f : FmtBR)
  /-- GET (R306). One-sided read of a remote byte range. -/
  | get (f : FmtBR)
  /-- RADD (R307). Atomic integer add at the unit's home. -/
  | radd (f : FmtBR)
  /-- RADD_SEQUENCED (R307). Sequenced FP32 or bf16x2 contribution. -/
  | raddSequenced (f : FmtBR)
  /-- SIGWAIT (R308). Waits until a counter satisfies ge or eq; an acquire. -/
  | sigwait (f : FmtBR)
  /-- SIGREAD (R308). Reads a counter's value. -/
  | sigread (f : FmtBR)
  /-- COLL (R316). Starts a collective, whose descriptor the lead pilot accepts. -/
  | coll (f : FmtBR)
  /-- COLLWAIT (R318). Waits for the collective on an id and returns its status. -/
  | collwait (f : FmtBR)
  /-- SEAL (R309). Seals a region-0 range under a version. -/
  | seal (f : FmtBR)
  /-- UNSEAL (R309). Ends a seal. -/
  | unseal (f : FmtBR)
  /-- QSPAWN (R368). Pushes a task descriptor onto its queue; a release. -/
  | qspawn (f : FmtBR)
  /-- QSPAWN_V (R368). Pushes one descriptor for each predicated lane. -/
  | qspawnV (f : FmtBR)
  /-- QSTEAL (R369). Steals the head descriptor of a queue into team memory. -/
  | qsteal (f : FmtBR)
  /-- QTAKE (R369). Takes the tail descriptor of a queue. -/
  | qtake (f : FmtBR)
  /-- GLAUNCH (R370). Launches a child grid from a launch block. -/
  | glaunch (f : FmtBR)
  /-- GJOIN (R371). Waits for a child grid, or for all of them, to retire; an acquire. -/
  | gjoin (f : FmtBR)
  /-- LONG_LATENCY_COMPLETION (R78). A long-latency instruction reaches its completion point, and its flag count drops by one. -/
  | longLatencyCompletion (op : Nat)
  /-- SWAP (R130). A swap-eligible active group is exchanged with the oldest ready pending group in a background transfer. -/
  | swap (core part : Nat)
  /-- SWAP_TRANSFER_DONE (R130). After 96 cycles the swap transfer ends and the incoming group may issue. -/
  | swapTransferDone (core part : Nat)
  /-- PROMOTION (R132). A pending group ready for 2,048 cycles displaces an active group. -/
  | promotion (core part : Nat)
  /-- TRAP_SLOT_GRANT (R155). A group waiting for the busy trap slot takes it when it frees. -/
  | trapSlotGrant (core part : Nat)
  /-- CONTEXT_END (R157). A fatal fault stops every team of the context, cancels unstarted operations, posts a fault record and frees the resources. -/
  | contextEnd (ctx : Nat)
  /-- MACHINE_CHECK (R158). An uncorrectable hardware error starts the firmware handler and may end the context with MACHINE. -/
  | machineCheck (core part : Nat) (ctx : Option Nat)
  /-- DEBUG_HALT (R160). DBGCTL.HALT requests a halt of the context, or sets REFUSED. -/
  | debugHalt (v : DWord)
  /-- DEBUG_HALT_COMPLETE (R160). Once copies land and operations complete, the teams are saved and HALT_DONE sets. -/
  | debugHaltComplete
  /-- DEBUG_RESUME (R160). DBGCTL.RESUME restores the frames of a halted context. -/
  | debugResume (v : DWord)
  /-- TEAM_SUSPEND (R208). After a withdrawal, the other groups stop and operations complete, and the team is saved with page requests posted. -/
  | teamSuspend (team : Nat)
  /-- PAGE_REQUEST_POST (R209). A page-request record held while the ring is full is written when room frees. -/
  | pageRequestPost
  /-- PFRESP (R210). The driver's response maps the pages of a token for restore, or ends the context with FAIL = 1. -/
  | pfresp (v : DWord)
  /-- TEAM_RESTORE (R210). A saved or suspended team is restored on a core with room, and the frame is checked. -/
  | teamRestore (team : Nat) (site : Site)
  /-- TLB_INVALIDATE (R206). TLBINV.GO invalidates the entries of a page, a context or all contexts. -/
  | tlbInvalidate (v : DWord)
  /-- TLB_INVALIDATE_DONE (R207). BUSY clears after every TLB has dropped the entries and their accesses are performed. -/
  | tlbInvalidateDone
  /-- REMOTE_RESEND (R211). After the retry-after delay a refused request is re-sent, or REMOTE_NACK is raised after 16 re-sends. -/
  | remoteResend (msg : Nat)
  /-- CONTRIBUTION_ARRIVAL (R218). A sequenced contribution reaches its home slice and is applied or held. -/
  | contributionArrival (contrib : Nat)
  /-- REORDER_ENTRY_FREE (R219). A contribution waiting for a full reorder buffer is sent when an entry frees. -/
  | reorderEntryFree (contrib : Nat)
  /-- RED_STALL (R220). A stream's next contribution has not arrived within the lookout limit, and the context ends. -/
  | redStall (ctx unit : Nat)
  /-- FABRIC_MESSAGE_ARRIVAL (R296). A message is placed at the target, executed exactly once, or refused. -/
  | fabricMessageArrival (msg : Nat)
  /-- MESSAGE_ACK (R298). An acknowledgement returns for a sent message. -/
  | messageAck (msg : Nat)
  /-- RETRANSMIT_TIMEOUT (R298). An unacknowledged message is retransmitted on timeout or on a loss indication. -/
  | retransmitTimeout (msg : Nat)
  /-- ACK_LIMIT (R298). A message not acknowledged within 64 ms ends its operation with REMOTE_NACK. -/
  | ackLimit (msg : Nat)
  /-- SIGNAL_INCREMENT (R306). Once every byte of a PUTSIG is performed, the counter is incremented atomically. -/
  | signalIncrement (op : Nat)
  /-- SIGWAIT_SATISFIED (R308). A counter value meets a waiting SIGWAIT's condition, and the SIGWAIT completes. -/
  | sigwaitSatisfied (op : Nat)
  /-- SEAL_INSTALLED (R309). The seal entry has been installed or removed at every slice, and SEAL or UNSEAL completes. -/
  | sealInstalled (op : Nat)
  /-- RCHCTL_LOAD (R295). Reads, checks and installs chart levels 1–3 and the plan table on both X-dies. -/
  | rchctlLoad (v : DWord)
  /-- RCHCTL_ENDINV (R295). Drops every cached endpoint entry. -/
  | rchctlEndinv (v : DWord)
  /-- PORT_RETRAIN (R303). PORTCTL.RETRAIN retrains a link. -/
  | portRetrain (port : Nat) (v : DWord)
  /-- PORT_TRAINING_DONE (R302). A port finishes training at a negotiated rate and version, or fails. -/
  | portTrainingDone (port : Nat) (up fast : Bool) (ver : BitVec 8) (lanes : BitVec 4)
  /-- PORT_LANE_FAILURE (R302). A failed lane is retired, and a port left with fewer than three lanes goes to the failed state. -/
  | portLaneFailure (port lane : Nat)
  /-- PILOT_DRAIN (R315). PILOTCTL.DRAIN takes the pilot out of new collectives and drains its port. -/
  | pilotDrain (pilot : Nat) (v : DWord)
  /-- PILOT_DRAINED (R315). The pilot's running collectives finish and STATE becomes 0. -/
  | pilotDrained (pilot : Nat)
  /-- PILOT_LOAD (R315). PILOTCTL.LOAD loads and verifies a signed firmware image. -/
  | pilotLoad (pilot : Nat) (v : DWord)
  /-- PILOT_VERIFY_DONE (R315). Verification ends with STATE 0, or STATE 5 when refused. -/
  | pilotVerifyDone (pilot : Nat)
  /-- PILOT_RUN (R315). RUN puts a verified pilot into service and copies the plans in. -/
  | pilotRun (pilot : Nat) (v : DWord)
  /-- PILOT_COMMAND (R314). A plan's GO write issues a primitive from a command-window slot. -/
  | pilotCommand (pilot slot : Nat)
  /-- PLAN_START (R313). The firmware calls a passage plan's entry for a collective and compares the shared-field digests. -/
  | planStart (coll : Nat)
  /-- PLAN_FAULT (R312). An illegal instruction or a bad access stops the plan, and the collective aborts. -/
  | planFault (coll pilot : Nat)
  /-- PLAN_RETURN (R318). A pilot's plan returns, and the collective completes on the rank once all have returned 0 and the writes are performed. -/
  | planReturn (coll pilot : Nat) (result : DWord)
  /-- CQBASE_WRITE (R344). Sets ADDR and SIZE only while EN was 0, and resets NEXT when EN goes from 0 to 1. -/
  | cqbaseWrite (q : Nat) (v : DWord)
  /-- CQ_LINE_TAKE (R345). The command processor takes a line whose SEQ matches and advances NEXT. -/
  | cqLineTake (q : Nat)
  /-- CMD_NOP (R348). NOP command; a queue fence when BARRIER is set. -/
  | cmdNop (cmd : Nat)
  /-- LAUNCH (R358). Launches a grid after the handle checks; it completes on the grid's retirement. -/
  | launch (cmd : Nat)
  /-- CTXCREATE (R349). Creates a context with its world, page table, fault ring, frames and spill pool. -/
  | ctxcreate (cmd : Nat)
  /-- CTXDESTROY (R348). Stops the context's teams and frees, and if protected scrubs, its resources. -/
  | ctxdestroy (cmd : Nat)
  /-- HANDLE (R351). Defines or frees a buffer handle entry. -/
  | handle (cmd : Nat)
  /-- TQBIND (R348). Binds a hardware task queue to a descriptor ring. -/
  | tqbind (cmd : Nat)
  /-- TQPUSH (R348). Reads descriptors and pushes them at a queue's tail. -/
  | tqpush (cmd : Nat)
  /-- GRID_START (R359). A launch whose handle waits are met starts its grid with a fresh %grid index. -/
  | gridStart (grid : Nat)
  /-- TEAM_PLACE (R359). Places the next team or cluster block on a core with room and a free frame slot. -/
  | teamPlace (grid : Nat) (sites : List Site)
  /-- DISPATCH (R374). The dispatcher takes from the home queue or steals, and places the task. -/
  | dispatch (core : Nat) (site : Site)
  /-- HAMPER_COPY (R366). Copies a task's hamper into team memory; the task starts when both entries have landed. -/
  | hamperCopy (team : Nat)
  /-- SUCCESSION (R375). After the predecessor's operations and children finish, reads and checks the successor and starts it in place. -/
  | succession (team : Nat)
  /-- TEAM_RETIRE (R17). Once its last group has retired and its long-latency operations have completed, a team frees its resources. -/
  | teamRetire (team : Nat)
  /-- GRID_RETIRE (R18). Once all teams and children have retired, a grid flushes its writes and releases. -/
  | gridRetire (grid : Nat)
  /-- PREEMPT_SAVE (R377). Saves a lower-priority team with cause 1 to make room for a waiting team. -/
  | preemptSave (team : Nat)
  /-- CHILD_PLACEMENT_TIMEOUT (R372). A child grid unplaced for the lookout limit ends the context with TASKQ detail 6. -/
  | childPlacementTimeout (grid : Nat)
  /-- TELEMETRY (R383). Mailbox command returning spare rows, corrected errors and temperature. -/
  | telemetry (stack : Nat)
  /-- SCRUB (R383). Mailbox command starting a patrol scrub pass at once. -/
  | scrub (stack : Nat)
  /-- REPAIR (R383). Mailbox command sparing the row that holds a line. -/
  | repair (stack : Nat)
  /-- RETRAIN (R383). Mailbox command retraining a stack. -/
  | retrain (stack : Nat)
  /-- PATROL_SCRUB (R383). The 24-hour patrol pass reads every line of a stack. -/
  | patrolScrub (stack : Nat) (bad : List Nat)
  /-- LLCLR (R387). Removes a lost-line entry and zeroes the line. -/
  | llclr (v : DWord)
  /-- FRAMECLR (R387). Removes a frame fence and zeroes the frame. -/
  | frameclr (v : DWord)
  /-- RETIREMENT_GO (R392). RETCTL.GO checks, reserves capacity, lowers MEMCAP and installs the new compass. -/
  | retirementGo (v : DWord)
  /-- CACHE_FLUSH (R403). Writes back, invalidates and shrinks the cache during a retirement. -/
  | cacheFlush
  /-- FRAME_MIGRATION_SELECT (R393). A frame is selected and enters DRAIN. -/
  | frameMigrationSelect (frame : Nat)
  /-- FRAME_DRAIN_END (R393). With no partial and no held contribution left, the frame enters MOVING. -/
  | frameDrainEnd (frame : Nat)
  /-- FRAME_COMMIT (R393). Once every unit is copied, the frame becomes NEW, its registrations move and stalled requests replay. -/
  | frameCommit (frame : Nat)
  /-- HOME_REQUEST_ARRIVAL (R394). An HBM4 request arriving at a home is served, stalled or replayed by phase and frame state. -/
  | homeRequestArrival (req : Nat)
  /-- MEMORY_READY (R381). Every stack is trained and the compass installed, so READY sets. -/
  | memoryReady
  /-- STACK_TRAINING_TIMEOUT (R447). A stack not trained within 2 s enters state 5. -/
  | stackTrainingTimeout (stack : Nat)
  /-- ASSIGN (R419). Re-encrypts a frame under a new owner world's key and transfers its ownership. -/
  | assign
  /-- UNASSIGN (R419). Zeroes a frame and returns it to world 1. -/
  | unassign
  /-- ATTEST (R427). Writes a signed report of a Live protected context. -/
  | attest
  /-- IDENTITY (R419). Writes the identity public point. -/
  | identity
  /-- DBGUNLOCK (R436). Checks a debug token and, when valid, ends protected contexts and starts the unlock. -/
  | dbgunlock
  /-- DBG_UNLOCK_COMPLETE (R436). When no protected context remains ending or scrubbing, DBG becomes 2 and DBGUNLOCK finishes. -/
  | dbgUnlockComplete
  /-- SAVE (R419). Saves every running team of a protected context with cause 3. -/
  | save
  /-- SECMODE_WRITE (R405). Writes NEXT, accepting mode 2 only while DBG = 2. -/
  | secmodeWrite (v : DWord)
  /-- TEARDOWN (R430). Once its teams stop, zeroises the protected context's keys, drops its lines and queues a teardown scrub. -/
  | teardown (ctx : Nat)
  /-- SCRUB_START (R432). The scrub engine takes the next queued scrub. -/
  | scrubStart
  /-- SCRUB_RANGE_DONE (R431). A scrub range is zeroed and its core resources are returned. -/
  | scrubRangeDone
  /-- SCRUB_COMPLETE (R432). The last range is done, and the frames return to world 1. -/
  | scrubComplete
  /-- RESET_SCRUB (R407). Zeroes HBM4 and the capacity tier after a warm reset in a confidential mode. -/
  | resetScrub
  /-- KEY_STORE_ERROR (R417). An uncorrectable key-store error empties a slot and ends the contexts that need it with KEY. -/
  | keyStoreError (slot : Nat)
  /-- NETWORK_MESSAGE_ARRIVAL (R414). An encrypted on-chip message is authenticated, or discarded with a machine check. -/
  | networkMessageArrival (src dst world : Nat) (number : BitVec 64) (tagOk : Bool)
  /-- POWER_ON (R443). Power-on starts a cold reset. -/
  | powerOn
  /-- RSTCTL_COLD (R443). Starts a cold reset. -/
  | rstctlCold (v : DWord)
  /-- RSTCTL_WARM (R443). Starts a warm reset. -/
  | rstctlWarm (v : DWord)
  /-- BOARD_RESET (R443). The board's reset signal starts a warm reset. -/
  | boardReset
  /-- FWLOAD (R444). Loads and verifies the firmware images from a load block. -/
  | fwload (v : DWord)
  /-- FIRMWARE_LOAD_DONE (R444). Verification ends, entering training or stage 7 with a cause. -/
  | firmwareLoadDone
  /-- LINK_TRAINING_DONE (R441). The Cledel link trains and negotiates its version and lanes. -/
  | linkTrainingDone (ver lanes : BitVec 8)
  /-- LINK_LANE_FAILURE (R441). A failed link lane is spared, or the link goes down below 16 lanes. -/
  | linkLaneFailure
  /-- COMPANION_ACCESS (R442). A companion access arrives and is performed, held until READY, or refused. -/
  | companionAccess (acc : CompAccess)
  /-- CLUSTER_SELF_TEST (R449). A cluster's self-test ends and admits or fails it. -/
  | clusterSelfTest (cluster : Nat) (pass : Bool)
  /-- MXCAL_SET (R450). Array calibration completes and FMT 6–8 become available. -/
  | mxcalSet
  /-- FULL_SERVICE (R449). Once every cluster is settled and MXCAL is 1, stage 4 begins and the clock cap lifts. -/
  | fullService
  /-- CLRET_GO (R452). Retires a cluster and moves its teams to admitted clusters. -/
  | clretGo (v : DWord)
  /-- CLRET_READMIT (R452). Self-tests a retired cluster and admits it on a pass. -/
  | clretReadmit (v : DWord)
  /-- ISLAND_CAP (R451). Firmware lowers an island's clock to hold power and thermal limits. -/
  | islandCap (island : Nat) (mhz : BitVec 16)
  /-- REGISTER_WRITE (R440). A write to a host register with no behaviour of its own, including W1C bits. -/
  | registerWrite (off : Nat) (v : DWord)
  /-- MDRAIN_SWAP_ELIGIBLE (R280). An MDRAIN held at issue for a drain-queue entry or a ring claim makes its group swap-eligible once 256 cycles have passed. -/
  | mdrainSwapEligible (r : GRef)
  /-- STACK_TRAINING_DONE (R381). A stack's base die finishes training, or retraining after RETRAIN, and the stack's MEMSTAT.STATE moves from training to in service. -/
  | stackTrainingDone (stack : Nat)
  /-- FABRIC_CREDIT_RETURN (R300). Torus flow-control credit returns from a neighbour and lets a fabric send queue head that was blocked on credit send its message. -/
  | fabricCreditReturn (port : Nat)
  deriving DecidableEq, Repr

end Sys2Proof
end

