-- ==== Sys2Proof/Machine/Fields.lean ====
section
/-! DEFINITION. The opcode map of 03_encoding.md (R84, R85) and the field rules of R66 to R73 and R86 and of each entry,
written as one row per constructor of Instr, and the checks of R81 that read them. -/
namespace Sys2Proof.Machine
open Sys2Proof

/-- What the Lit column of R84 says, with the cases of R71. `b11`: the literal is taken only with LEN 11, and LEN 01 is the
ILL_FIELD of R71. `f01`: no literal, but LEN 01 on a vector float instruction is that ILL_FIELD. `field`: any literal
raises ILL_FIELD (VFCVT, VICVT). -/
inductive LitRule where
  | none | b | b11 | f01 | field
  deriving DecidableEq, Repr

/-- How the immediate and literal of operand B are read (R53 to R56, R70, R174). `no`: the instruction has no operand B. -/
inductive OpBKind where
  | no | scalar | vint | vfloat | vscale | xlane | conv
  deriving DecidableEq, Repr

/-- One row of the opcode map: which forms exist and which fields may hold what. A register bound of 0 means the field must
be zero. `ok0`, `ok1` and `ok2` are the entry's own conditions on word0, word1 and word2. -/
structure Allow where
  base : Bool := false
  ext : Bool := false
  lit : LitRule := .none
  opB : OpBKind := .no
  guard : Bool := false
  sb : Bool := false
  dMax : Nat := 0
  aMax : Nat := 0
  bMax : Nat := 0
  cMax : Nat := 0
  subs : List Nat := [0]
  tys : List Nat := [0]
  rndMax : Nat := 0
  sat : Bool := false
  neg : Bool := false
  fs : Bool := false
  acq : Bool := false
  rel : Bool := false
  modMax : Nat := 0
  w2Free : Bool := false
  ok0 : Bool := true
  ok1 : Bool := true
  ok2 : Bool := true

/-- Elements of a source lane of VFCVT by TYPE (R175, R176). -/
def cvtSrcElems (ty : Nat) : Nat := if ty = 4 ∨ ty = 5 then 4 else if ty = 6 then 1 else 2

/-- Elements of a destination lane of VFCVT by MOD[2:0] (R175, R176). -/
def cvtDstElems (m : Nat) : Nat := if m = 0 then 1 else if m ≤ 2 then 2 else 4

/-- Elements of a source lane of VICVT by TYPE (R177, R68). -/
def icvtSrcElems (ty : Nat) : Nat := if ty = 0 ∨ ty = 1 ∨ ty = 6 then 1 else if ty = 4 ∨ ty = 5 then 4 else 2

/-- Elements of a destination lane of VICVT by MOD[2:0] (R177). -/
def icvtDstElems (m : Nat) : Nat := if m = 0 ∨ m = 1 ∨ m = 6 then 1 else if m = 4 ∨ m = 5 then 4 else 2

/-- SEL must be below max(n_s, n_d) / min(n_s, n_d) (R175). -/
def selOk (ns nd sel : Nat) : Bool := sel < max ns nd / min ns nd

/-- MOD of VFCVT (R175, R176). -/
def cvtMod (f : FmtBR) : Bool :=
  let m := f.mod.toNat
  m % 8 ≤ 4 && selOk (cvtSrcElems f.ty.toNat) (cvtDstElems (m % 8)) (m / 8)

/-- MOD of VICVT (R175, R177). -/
def icvtMod (f : FmtBR) : Bool :=
  let m := f.mod.toNat
  !(6 ≤ f.ty.toNat && 6 ≤ m % 8) && selOk (icvtSrcElems f.ty.toNat) (icvtDstElems (m % 8)) (m / 8)

/-- MOD and TYPE of VFPACK (R178). -/
def packMod (f : FmtBR) : Bool :=
  let m := f.mod.toNat
  let form := m % 8
  m < 16 && (m < 8 || form = 1 || form = 2) && (if form = 0 then f.ty = 7 || f.ty = 8 else f.ty = 6)

/-- The B field of VFPACK is zero in the MX forms (R178). -/
def packB (f : FmtBR) : Bool := f.mod.toNat % 8 ≤ 2 || (f.b = 0 && f.sb = 0)

/-- VRED and VSCAN take no bitwise operation on an FP TYPE (R85). -/
def redSub (f : FmtBR) : Bool := !(f.ty = 6 && 3 ≤ f.sub.toNat)

/-- VMATCH.f takes no 64-bit keys (R184). -/
def matchMod (f : FmtBR) : Bool := !(f.sub = 1 && f.mod = 1)

/-- VMATCH with 64-bit keys: A is at most 62 (R184). -/
def matchA (f : FmtBR) : Bool := f.mod = 0 || f.a.toNat ≤ 62

/-- word2 of LD and ST: SIZE 0 to 4, SBASE, EXT[7:4] zero (R192). -/
def memW2 (f : FmtBR) : Bool := f.w2.ext.toNat < 16 && f.w2.ext.toNat % 8 ≤ 4

/-- A per-lane base in the generic space names a register pair, so A is at most 62 (R193). -/
def ldPair (f : FmtBR) : Bool := !(f.w2.ext.getLsbD 3 == false && f.mod = 0) || f.a.toNat ≤ 62

/-- Only CAS uses C (R213). -/
def atomC (f : FmtBR) : Bool := f.sub = 9 || f.c = 0

/-- EXT of ATOM, RED and RADD: SIZE 2 or 3, the rest zero (R213, R215, R304). -/
def size23 (f : FmtBR) : Bool := f.w2.ext = 2 || f.w2.ext = 3

/-- SIZE of ATOM; FADD takes SIZE 2 only (R213). -/
def atomW2 (f : FmtBR) : Bool := size23 f && !(f.sub = 10 && f.w2.ext = 3)

/-- MOD of the integer RED forms: [0] only for min and max (R215). -/
def redMod (f : FmtBR) : Bool := f.mod = 0 || f.sub = 1 || f.sub = 2

/-- C is zero with FIRST (R215, R304). -/
def firstC (f : FmtBR) : Bool := !(f.mod.getLsbD 0) || f.c = 0

/-- The form that MOD[0] = 1 selects. -/
def modBit (f : FmtBR) : Bool := f.mod.getLsbD 0

/-- word2 holds one number of at most `m` in IMM24 and nothing else. -/
def immMax (f : FmtBR) (m : Nat) : Bool := f.w2.ext = 0 && f.w2.imm.toNat ≤ m

/-- The opcode, the row of the opcode map and the fields of each constructor in format BR (R84). -/
def brRow : Instr → Option (BitVec 7 × Allow × FmtBR)
  | .brx f => some (0x06, { base := true, aMax := 63 }, f)
  | .exit f => some (0x08, { base := true, guard := true }, f)
  | .exitS f => some (0x08, { ext := true, aMax := 63 }, f)
  | .sadd f => some (0x10, { base := true, ext := true, dMax := 63, aMax := 63, bMax := 63, lit := .b, opB := .scalar }, f)
  | .ssub f => some (0x11, { base := true, ext := true, dMax := 63, aMax := 63, bMax := 63, lit := .b, opB := .scalar }, f)
  | .smul f => some (0x12, { base := true, ext := true, dMax := 63, aMax := 63, bMax := 63, lit := .b, opB := .scalar }, f)
  | .smulh f => some (0x13, { base := true, ext := true, dMax := 63, aMax := 63, bMax := 63, lit := .b, opB := .scalar, subs := [0, 1] }, f)
  | .sand f => some (0x14, { base := true, ext := true, dMax := 63, aMax := 63, bMax := 63, lit := .b, opB := .scalar }, f)
  | .sor f => some (0x15, { base := true, ext := true, dMax := 63, aMax := 63, bMax := 63, lit := .b, opB := .scalar }, f)
  | .sxor f => some (0x16, { base := true, ext := true, dMax := 63, aMax := 63, bMax := 63, lit := .b, opB := .scalar }, f)
  | .sandn f => some (0x17, { base := true, ext := true, dMax := 63, aMax := 63, bMax := 63, lit := .b, opB := .scalar }, f)
  | .sshl f => some (0x18, { base := true, ext := true, dMax := 63, aMax := 63, bMax := 63, lit := .b, opB := .scalar }, f)
  | .sshr f => some (0x19, { base := true, ext := true, dMax := 63, aMax := 63, bMax := 63, lit := .b, opB := .scalar }, f)
  | .ssra f => some (0x1A, { base := true, ext := true, dMax := 63, aMax := 63, bMax := 63, lit := .b, opB := .scalar }, f)
  | .smin f => some (0x1B, { base := true, ext := true, dMax := 63, aMax := 63, bMax := 63, lit := .b, opB := .scalar, subs := [0, 1] }, f)
  | .smax f => some (0x1C, { base := true, ext := true, dMax := 63, aMax := 63, bMax := 63, lit := .b, opB := .scalar, subs := [0, 1] }, f)
  | .scmp f => some (0x1D, { ext := true, dMax := 7, aMax := 63, bMax := 63, lit := .b, opB := .scalar, subs := [0, 1, 2, 3, 4, 5, 6, 7, 8, 9] }, f)
  | .ssel f => some (0x1E, { ext := true, dMax := 63, aMax := 63, bMax := 63, cMax := 7, lit := .b, opB := .scalar }, f)
  | .smov f => some (0x1F, { base := true, ext := true, dMax := 63, bMax := 63, lit := .b, opB := .scalar }, f)
  | .spopc f => some (0x20, { base := true, dMax := 63, aMax := 63 }, f)
  | .sclz f => some (0x21, { base := true, dMax := 63, aMax := 63 }, f)
  | .sbfe f => some (0x22, { ext := true, dMax := 63, aMax := 63, bMax := 63, lit := .b, opB := .scalar }, f)
  | .sbfi f => some (0x23, { ext := true, dMax := 63, aMax := 63, bMax := 63, lit := .b, opB := .scalar }, f)
  | .sdiv f => some (0x24, { base := true, ext := true, dMax := 63, aMax := 63, bMax := 63, lit := .b, opB := .scalar, subs := [0, 1] }, f)
  | .srem f => some (0x25, { base := true, ext := true, dMax := 63, aMax := 63, bMax := 63, lit := .b, opB := .scalar, subs := [0, 1] }, f)
  | .saddr f => some (0x26, { ext := true, dMax := 63, aMax := 63, bMax := 63, lit := .b, opB := .scalar, modMax := 31 }, f)
  | .pand f => some (0x28, { ext := true, dMax := 7, aMax := 7, bMax := 7 }, f)
  | .por f => some (0x28, { ext := true, dMax := 7, aMax := 7, bMax := 7, subs := [1] }, f)
  | .pxor f => some (0x28, { ext := true, dMax := 7, aMax := 7, bMax := 7, subs := [2] }, f)
  | .pandn f => some (0x28, { ext := true, dMax := 7, aMax := 7, bMax := 7, subs := [3] }, f)
  | .pnot f => some (0x28, { ext := true, dMax := 7, aMax := 7, subs := [4] }, f)
  | .pmovToScalar f => some (0x29, { ext := true, dMax := 57, aMax := 7, bMax := 63 }, f)
  | .pmovToPredicate f => some (0x29, { ext := true, dMax := 7, aMax := 61, bMax := 63, subs := [1] }, f)
  | .ballot f => some (0x2A, { base := true, dMax := 58, aMax := 7 }, f)
  | .ppopc f => some (0x2B, { base := true, dMax := 63, aMax := 7 }, f)
  | .pfirst f => some (0x2C, { base := true, dMax := 63, aMax := 7 }, f)
  | .ptest f => some (0x2D, { ext := true, dMax := 7, aMax := 7, bMax := 63, subs := [0, 1, 2] }, f)
  | .vadd f => some (0x30, { base := true, ext := true, guard := true, sb := true, sat := true, dMax := 63, aMax := 63, bMax := 63, lit := .b, opB := .vint, tys := [0, 1, 2, 3, 4, 5] }, f)
  | .vsub f => some (0x31, { base := true, ext := true, guard := true, sb := true, sat := true, dMax := 63, aMax := 63, bMax := 63, lit := .b, opB := .vint, tys := [0, 1, 2, 3, 4, 5] }, f)
  | .vmul f => some (0x32, { base := true, ext := true, guard := true, sb := true, dMax := 63, aMax := 63, bMax := 63, lit := .b, opB := .vint, tys := [0, 1, 2, 3, 4, 5] }, f)
  | .vmulh f => some (0x33, { base := true, ext := true, guard := true, sb := true, dMax := 63, aMax := 63, bMax := 63, lit := .b, opB := .vint, tys := [0, 1, 2, 3, 4, 5] }, f)
  | .vmad f => some (0x34, { ext := true, guard := true, sb := true, dMax := 63, aMax := 63, bMax := 63, cMax := 63, lit := .b, opB := .vint, tys := [0, 1, 2, 3, 4, 5] }, f)
  | .vand f => some (0x35, { base := true, ext := true, guard := true, sb := true, dMax := 63, aMax := 63, bMax := 63, lit := .b, opB := .vint, tys := [0, 1, 2, 3, 4, 5] }, f)
  | .vor f => some (0x36, { base := true, ext := true, guard := true, sb := true, dMax := 63, aMax := 63, bMax := 63, lit := .b, opB := .vint, tys := [0, 1, 2, 3, 4, 5] }, f)
  | .vxor f => some (0x37, { base := true, ext := true, guard := true, sb := true, dMax := 63, aMax := 63, bMax := 63, lit := .b, opB := .vint, tys := [0, 1, 2, 3, 4, 5] }, f)
  | .vandn f => some (0x38, { base := true, ext := true, guard := true, sb := true, dMax := 63, aMax := 63, bMax := 63, lit := .b, opB := .vint, tys := [0, 1, 2, 3, 4, 5] }, f)
  | .vshl f => some (0x39, { base := true, ext := true, guard := true, sb := true, dMax := 63, aMax := 63, bMax := 63, lit := .b, opB := .vint, tys := [0, 1, 2, 3, 4, 5] }, f)
  | .vshr f => some (0x3A, { base := true, ext := true, guard := true, sb := true, dMax := 63, aMax := 63, bMax := 63, lit := .b, opB := .vint, tys := [0, 1, 2, 3, 4, 5] }, f)
  | .vsra f => some (0x3B, { base := true, ext := true, guard := true, sb := true, dMax := 63, aMax := 63, bMax := 63, lit := .b, opB := .vint, tys := [0, 1, 2, 3, 4, 5] }, f)
  | .vmin f => some (0x3C, { base := true, ext := true, guard := true, sb := true, dMax := 63, aMax := 63, bMax := 63, lit := .b, opB := .vint, tys := [0, 1, 2, 3, 4, 5] }, f)
  | .vmax f => some (0x3D, { base := true, ext := true, guard := true, sb := true, dMax := 63, aMax := 63, bMax := 63, lit := .b, opB := .vint, tys := [0, 1, 2, 3, 4, 5] }, f)
  | .vabs f => some (0x3E, { base := true, ext := true, guard := true, sat := true, dMax := 63, aMax := 63, tys := [0, 1, 2, 3, 4, 5] }, f)
  | .vneg f => some (0x3F, { base := true, ext := true, guard := true, sat := true, dMax := 63, aMax := 63, tys := [0, 1, 2, 3, 4, 5] }, f)
  | .vcmp f => some (0x40, { ext := true, guard := true, sb := true, dMax := 7, aMax := 63, bMax := 63, lit := .b, opB := .vint, tys := [0, 1], subs := [0, 1, 2, 3, 4, 5, 6, 7, 8, 9] }, f)
  | .vsel f => some (0x41, { ext := true, guard := true, sb := true, dMax := 63, aMax := 63, bMax := 63, cMax := 7, lit := .b, opB := .vint, tys := [0, 1, 2, 3, 4, 5] }, f)
  | .vmov f => some (0x42, { base := true, ext := true, guard := true, sb := true, dMax := 63, bMax := 63, lit := .b, opB := .vint, tys := [0, 1, 2, 3, 4, 5] }, f)
  | .vpopc f => some (0x43, { base := true, ext := true, guard := true, dMax := 63, aMax := 63, tys := [0, 1, 2, 3, 4, 5] }, f)
  | .vclz f => some (0x44, { base := true, ext := true, guard := true, dMax := 63, aMax := 63, tys := [0, 1, 2, 3, 4, 5] }, f)
  | .vhash f => some (0x47, { base := true, ext := true, guard := true, dMax := 63, aMax := 63, tys := [0, 1] }, f)
  | .vbfe f => some (0x45, { ext := true, guard := true, sb := true, dMax := 63, aMax := 63, bMax := 63, lit := .b, opB := .vint, tys := [0, 1] }, f)
  | .vbfi f => some (0x46, { ext := true, guard := true, sb := true, dMax := 63, aMax := 63, bMax := 63, cMax := 63, lit := .b, opB := .vint, tys := [0, 1] }, f)
  | .vfadd f => some (0x48, { base := true, ext := true, guard := true, sb := true, sat := true, neg := true, dMax := 63, aMax := 63, bMax := 63, lit := .b11, opB := .vfloat, tys := [6, 7, 8], rndMax := 4 }, f)
  | .vfsub f => some (0x49, { base := true, ext := true, guard := true, sb := true, sat := true, neg := true, dMax := 63, aMax := 63, bMax := 63, lit := .b11, opB := .vfloat, tys := [6, 7, 8], rndMax := 4 }, f)
  | .vfmul f => some (0x4A, { base := true, ext := true, guard := true, sb := true, sat := true, neg := true, dMax := 63, aMax := 63, bMax := 63, lit := .b11, opB := .vfloat, tys := [6, 7, 8], rndMax := 4 }, f)
  | .vfma f => some (0x4B, { ext := true, guard := true, sb := true, sat := true, neg := true, dMax := 63, aMax := 63, bMax := 63, cMax := 63, lit := .b11, opB := .vfloat, tys := [6, 7, 8], rndMax := 4, modMax := 1 }, f)
  | .vfdot2 f => some (0x5A, { ext := true, guard := true, sb := true, sat := true, neg := true, dMax := 63, aMax := 63, bMax := 63, cMax := 63, lit := .b11, opB := .vfloat, tys := [7, 8], rndMax := 4, modMax := 1 }, f)
  | .vfmin f => some (0x4C, { base := true, ext := true, guard := true, sb := true, sat := true, neg := true, dMax := 63, aMax := 63, bMax := 63, lit := .b11, opB := .vfloat, tys := [6, 7, 8], rndMax := 4 }, f)
  | .vfmax f => some (0x4D, { base := true, ext := true, guard := true, sb := true, sat := true, neg := true, dMax := 63, aMax := 63, bMax := 63, lit := .b11, opB := .vfloat, tys := [6, 7, 8], rndMax := 4 }, f)
  | .vfcmp f => some (0x4E, { ext := true, guard := true, sb := true, sat := true, neg := true, dMax := 7, aMax := 63, bMax := 63, lit := .b11, opB := .vfloat, tys := [6], rndMax := 4, subs := [0, 1, 2, 3, 4, 5, 6, 7] }, f)
  | .vfclass f => some (0x4F, { base := true, ext := true, guard := true, sat := true, dMax := 63, aMax := 63, lit := .f01, tys := [6, 7, 8], rndMax := 4 }, f)
  | .vfrcp f => some (0x50, { base := true, ext := true, guard := true, sat := true, fs := true, dMax := 63, aMax := 63, lit := .f01, tys := [6, 7, 8], rndMax := 1 }, f)
  | .vfrsq f => some (0x51, { base := true, ext := true, guard := true, sat := true, fs := true, dMax := 63, aMax := 63, lit := .f01, tys := [6, 7, 8], rndMax := 1 }, f)
  | .vfsqrt f => some (0x52, { base := true, ext := true, guard := true, sat := true, fs := true, dMax := 63, aMax := 63, lit := .f01, tys := [6, 7, 8], rndMax := 1 }, f)
  | .vfexp2 f => some (0x53, { base := true, ext := true, guard := true, sat := true, fs := true, dMax := 63, aMax := 63, lit := .f01, tys := [6, 7, 8], rndMax := 1 }, f)
  | .vflog2 f => some (0x54, { base := true, ext := true, guard := true, sat := true, fs := true, dMax := 63, aMax := 63, lit := .f01, tys := [6, 7, 8], rndMax := 1 }, f)
  | .vfsin f => some (0x55, { base := true, ext := true, guard := true, sat := true, fs := true, dMax := 63, aMax := 63, lit := .f01, tys := [6, 7, 8], rndMax := 1 }, f)
  | .vfcos f => some (0x56, { base := true, ext := true, guard := true, sat := true, fs := true, dMax := 63, aMax := 63, lit := .f01, tys := [6, 7, 8], rndMax := 1 }, f)
  | .vftanh f => some (0x57, { base := true, ext := true, guard := true, sat := true, fs := true, dMax := 63, aMax := 63, lit := .f01, tys := [6, 7, 8], rndMax := 1 }, f)
  | .vfcvt f => some (0x58, { ext := true, guard := true, sat := true, dMax := 63, aMax := 63, lit := .field, opB := .conv, tys := [4, 5, 6, 7, 8], rndMax := 4, modMax := 31, ok1 := cvtMod f }, f)
  | .vicvt f => some (0x59, { ext := true, guard := true, sat := true, dMax := 63, aMax := 63, lit := .field, opB := .conv, tys := [0, 1, 2, 3, 4, 5, 6, 7, 8], rndMax := 4, modMax := 31, ok1 := icvtMod f }, f)
  | .vfpack f => some (0x5B, { ext := true, guard := true, sb := true, sat := true, dMax := 63, aMax := 63, bMax := 63, tys := [6, 7, 8], rndMax := 4, modMax := 31, ok1 := packMod f, ok0 := packB f }, f)
  | .vfrnd f => some (0x5D, { ext := true, guard := true, sat := true, dMax := 63, aMax := 63, tys := [6, 7, 8], rndMax := 4 }, f)
  | .vfscale f => some (0x5C, { base := true, ext := true, guard := true, sb := true, sat := true, dMax := 63, aMax := 63, bMax := 63, lit := .b11, opB := .vscale, tys := [6, 7, 8], rndMax := 4 }, f)
  | .vshuf f => some (0x60, { base := true, ext := true, guard := true, sb := true, dMax := 63, aMax := 63, bMax := 63, lit := .b, opB := .xlane, subs := [0, 1, 2, 3] }, f)
  | .vbcast f => some (0x61, { base := true, ext := true, guard := true, sb := true, dMax := 63, aMax := 63, bMax := 63, lit := .b, opB := .xlane }, f)
  | .vred f => some (0x62, { ext := true, guard := true, dMax := 63, aMax := 63, tys := [0, 1, 6], subs := [0, 1, 2, 3, 4, 5], ok1 := redSub f }, f)
  | .vscan f => some (0x63, { ext := true, guard := true, dMax := 63, aMax := 63, tys := [0, 1, 6], subs := [0, 1, 2, 3, 4, 5], modMax := 1, ok1 := redSub f }, f)
  | .vmatch f => some (0x64, { ext := true, guard := true, dMax := 63, aMax := 63, cMax := 7, subs := [0, 1], modMax := 1, ok1 := matchMod f, ok0 := matchA f }, f)
  | .vcompact f => some (0x65, { base := true, ext := true, guard := true, dMax := 63, aMax := 63 }, f)
  | .vexpand f => some (0x66, { base := true, ext := true, guard := true, dMax := 63, aMax := 63 }, f)
  | .vrot f => some (0x67, { base := true, ext := true, guard := true, sb := true, dMax := 63, aMax := 63, bMax := 63, lit := .b, opB := .xlane }, f)
  | .atload f => some (0x68, { ext := true, guard := true, aMax := 63 }, f)
  | .ateval f => some (0x69, { base := true, ext := true, guard := true, dMax := 63, aMax := 63 }, f)
  | .ld f => some (0x70, { ext := true, guard := true, fs := true, acq := true, dMax := 63, aMax := 63, modMax := 3, ok2 := memW2 f, w2Free := true, ok0 := ldPair f }, f)
  | .st f => some (0x71, { ext := true, guard := true, fs := true, rel := true, dMax := 63, aMax := 63, modMax := 3, ok2 := memW2 f, w2Free := true, ok0 := ldPair f }, f)
  | .ldsExt f => some (0x72, { ext := true, fs := true, acq := true, dMax := 63, aMax := 63, modMax := 3, ok2 := f.w2.ext.toNat ≤ 3, w2Free := true }, f)
  | .stsExt f => some (0x73, { ext := true, fs := true, rel := true, dMax := 63, aMax := 63, modMax := 3, ok2 := f.w2.ext.toNat ≤ 3, w2Free := true }, f)
  | .atom f => some (0x74, { ext := true, fs := true, acq := true, rel := true, dMax := 63, aMax := 63, bMax := 63, cMax := 63, subs := [0, 1, 2, 3, 4, 5, 6, 7, 8, 9, 10], ok1 := atomC f, ok2 := atomW2 f, w2Free := true }, f)
  | .red f => some (0x75, { ext := true, fs := true, rel := true, aMax := 63, bMax := 63, subs := [0, 1, 2, 3, 4, 5], modMax := 1, ok1 := redMod f, ok2 := size23 f, w2Free := true }, f)
  | .redFadd f => some (0x75, { ext := true, fs := true, rel := true, aMax := 63, bMax := 63, cMax := 63, subs := [8, 9], modMax := 3, ok1 := firstC f, ok2 := f.w2.ext = 2, w2Free := true }, f)
  | .fenceAcq f => some (0x76, { ext := true }, f)
  | .fenceRel f => some (0x76, { ext := true, subs := [1] }, f)
  | .fenceAr f => some (0x76, { ext := true, subs := [2] }, f)
  | .fenceCopy f => some (0x76, { ext := true, subs := [3] }, f)
  | .fenceTier f => some (0x76, { ext := true, subs := [4] }, f)
  | .pref f => some (0x77, { ext := true, fs := true, aMax := 63, modMax := 1, ok2 := true, w2Free := true }, f)
  | .barArrive f => some (0x78, { ext := true, ok2 := immMax f 47, w2Free := true }, f)
  | .barWait f => some (0x78, { ext := true, subs := [1], ok2 := immMax f 47, w2Free := true }, f)
  | .barSync f => some (0x78, { ext := true, subs := [2], ok2 := immMax f 47, w2Free := true }, f)
  | .barDrop f => some (0x78, { ext := true, subs := [3], ok2 := immMax f 47, w2Free := true }, f)
  | .barQuery f => some (0x78, { ext := true, dMax := 63, subs := [4], ok2 := immMax f 47, w2Free := true }, f)
  | .lockAcq f => some (0x79, { ext := true, fs := true, ok2 := immMax f 63, w2Free := true }, f)
  | .lockTry f => some (0x79, { ext := true, fs := true, dMax := 7, subs := [1], ok2 := immMax f 63, w2Free := true }, f)
  | .lockRel f => some (0x79, { ext := true, fs := true, subs := [2], ok2 := immMax f 63, w2Free := true }, f)
  | .ringReserve f => some (0x7A, { ext := true, dMax := 58, ok2 := immMax f 15, w2Free := true }, f)
  | .ringCommit f => some (0x7A, { ext := true, aMax := 63, subs := [1], ok2 := immMax f 15, w2Free := true }, f)
  | .ringWait f => some (0x7A, { ext := true, dMax := 58, aMax := 63, subs := [2], ok2 := immMax f 15, w2Free := true }, f)
  | .ringFree f => some (0x7A, { ext := true, aMax := 63, subs := [3], ok2 := immMax f 15, w2Free := true }, f)
  | .ringQuery f => some (0x7A, { ext := true, dMax := 63, subs := [4], ok2 := immMax f 15, w2Free := true }, f)
  | .ringLogwait f => some (0x7A, { ext := true, subs := [5], ok2 := immMax f 7, w2Free := true }, f)
  | .ringLogpop f => some (0x7A, { ext := true, dMax := 63, subs := [6], ok2 := immMax f 7, w2Free := true }, f)
  | .tcopy f => some (0x7B, { ext := true, fs := true, aMax := 63, bMax := 63, cMax := 63 }, f)
  | .tcopyMc f => some (0x7B, { ext := true, fs := true, aMax := 63, bMax := 63, cMax := 63, subs := [1] }, f)
  | .tcopyCh f => some (0x7B, { ext := true, fs := true, aMax := 63, bMax := 63, cMax := 63, subs := [2] }, f)
  | .gthr f => some (0x7B, { ext := true, fs := true, aMax := 63, bMax := 63, cMax := 63, subs := [3] }, f)
  | .cquiesce f => some (0x7B, { ext := true, fs := true, subs := [4] }, f)
  | .cquiesceSet f => some (0x7B, { ext := true, fs := true, bMax := 63, subs := [4], modMax := 3, ok1 := modBit f, ok2 := immMax f 15, w2Free := true }, f)
  | .mma f => some (0x7C, { ext := true, fs := true, dMax := 15, aMax := 63, bMax := 63, modMax := 31, ok1 := f.mod.toNat ≤ 10, ok2 := f.w2.ext = 0 && f.w2.imm.toNat < 65536, w2Free := true }, f)
  | .mzero f => some (0x7C, { ext := true, fs := true, dMax := 15, subs := [1], modMax := 1 }, f)
  | .mdrain f => some (0x7C, { ext := true, fs := true, dMax := 15, aMax := 63, bMax := 63, cMax := 63, subs := [2] }, f)
  | .mdrainRing f => some (0x7C, { ext := true, fs := true, dMax := 15, cMax := 63, subs := [2], modMax := 1, ok1 := modBit f, ok2 := immMax f 15, w2Free := true }, f)
  | .epibind f => some (0x7C, { ext := true, aMax := 63, subs := [3] }, f)
  | .mload f => some (0x7C, { ext := true, fs := true, dMax := 15, aMax := 63, bMax := 63, subs := [4], modMax := 1 }, f)
  | .msync f => some (0x7C, { ext := true, fs := true, subs := [5] }, f)
  | .voci f => some (0x7D, { ext := true, fs := true, dMax := 15, aMax := 63 }, f)
  | .vociSpill f => some (0x7D, { ext := true, fs := true, dMax := 15, aMax := 63, bMax := 63, modMax := 1, ok1 := modBit f }, f)
  | .vocf f => some (0x7D, { ext := true, fs := true, dMax := 15, aMax := 63, bMax := 63, cMax := 63, subs := [1], modMax := 2, ok1 := f.mod.toNat ≤ 2, ok2 := immMax f 0x3FFF, w2Free := true }, f)
  | .vocb f => some (0x7D, { ext := true, fs := true, dMax := 15, aMax := 63, bMax := 63, cMax := 63, subs := [2], modMax := 2, ok1 := f.mod.toNat ≤ 2, ok2 := immMax f 0x3FFF, w2Free := true }, f)
  | .vocm f => some (0x7D, { ext := true, fs := true, dMax := 15, aMax := 63, subs := [3] }, f)
  | .vocr f => some (0x7D, { ext := true, fs := true, dMax := 15, aMax := 63, subs := [4] }, f)
  | .put f => some (0x7E, { ext := true, fs := true, aMax := 63, bMax := 63, cMax := 63 }, f)
  | .putsig f => some (0x7E, { ext := true, fs := true, dMax := 63, aMax := 63, bMax := 63, cMax := 63, subs := [1], ok2 := f.w2.ext = 0 && f.w2.imm ≠ 0, w2Free := true }, f)
  | .get f => some (0x7E, { ext := true, fs := true, aMax := 63, bMax := 63, cMax := 63, subs := [2] }, f)
  | .radd f => some (0x7E, { ext := true, fs := true, aMax := 63, bMax := 63, subs := [3], ok2 := size23 f && f.w2.imm = 0, w2Free := true }, f)
  | .raddSequenced f => some (0x7E, { ext := true, fs := true, aMax := 63, bMax := 63, cMax := 63, tys := [6, 8], subs := [3], modMax := 3, ok1 := firstC f, ok2 := f.w2.ext = 2 && f.w2.imm = 0, w2Free := true }, f)
  | .sigwait f => some (0x7E, { ext := true, fs := true, dMax := 63, aMax := 63, bMax := 63, subs := [4], modMax := 1 }, f)
  | .sigread f => some (0x7E, { ext := true, fs := true, dMax := 63, aMax := 63, subs := [5] }, f)
  | .coll f => some (0x7E, { ext := true, fs := true, aMax := 63, subs := [6], ok2 := immMax f 15, w2Free := true }, f)
  | .collwait f => some (0x7E, { ext := true, fs := true, dMax := 63, subs := [7], ok2 := immMax f 15, w2Free := true }, f)
  | .seal f => some (0x7E, { ext := true, fs := true, aMax := 63, bMax := 63, cMax := 63, subs := [8] }, f)
  | .unseal f => some (0x7E, { ext := true, fs := true, aMax := 63, subs := [9] }, f)
  | .qspawn f => some (0x7E, { ext := true, fs := true, aMax := 63, subs := [16] }, f)
  | .qspawnV f => some (0x7E, { ext := true, fs := true, aMax := 63, cMax := 7, subs := [16], modMax := 1, ok1 := modBit f }, f)
  | .qsteal f => some (0x7E, { ext := true, fs := true, dMax := 63, aMax := 63, bMax := 63, subs := [17] }, f)
  | .qtake f => some (0x7E, { ext := true, fs := true, dMax := 63, aMax := 63, bMax := 63, subs := [18] }, f)
  | .glaunch f => some (0x7E, { ext := true, fs := true, dMax := 63, aMax := 63, subs := [19] }, f)
  | .gjoin f => some (0x7E, { ext := true, fs := true, aMax := 63, subs := [20] }, f)
  | _ => none

/-! The constructors of the opcodes that SUB, MOD or TYPE tells apart (R85). -/

/-- OP 0x28, by SUB. -/
def ctorPred (f : FmtBR) : Nat → Option Instr
  | 0 => some (.pand f)
  | 1 => some (.por f)
  | 2 => some (.pxor f)
  | 3 => some (.pandn f)
  | 4 => some (.pnot f)
  | _ => none

/-- OP 0x29, by SUB. -/
def ctorPmov (f : FmtBR) : Nat → Option Instr
  | 0 => some (.pmovToScalar f)
  | 1 => some (.pmovToPredicate f)
  | _ => none

/-- OP 0x75, by SUB. -/
def ctorRed (f : FmtBR) : Nat → Option Instr
  | 0 => some (.red f)
  | 1 => some (.red f)
  | 2 => some (.red f)
  | 3 => some (.red f)
  | 4 => some (.red f)
  | 5 => some (.red f)
  | 8 => some (.redFadd f)
  | 9 => some (.redFadd f)
  | _ => none

/-- OP 0x76, by SUB. -/
def ctorFence (f : FmtBR) : Nat → Option Instr
  | 0 => some (.fenceAcq f)
  | 1 => some (.fenceRel f)
  | 2 => some (.fenceAr f)
  | 3 => some (.fenceCopy f)
  | 4 => some (.fenceTier f)
  | _ => none

/-- OP 0x78, by SUB. -/
def ctorBar (f : FmtBR) : Nat → Option Instr
  | 0 => some (.barArrive f)
  | 1 => some (.barWait f)
  | 2 => some (.barSync f)
  | 3 => some (.barDrop f)
  | 4 => some (.barQuery f)
  | _ => none

/-- OP 0x79, by SUB. -/
def ctorLock (f : FmtBR) : Nat → Option Instr
  | 0 => some (.lockAcq f)
  | 1 => some (.lockTry f)
  | 2 => some (.lockRel f)
  | _ => none

/-- OP 0x7A, by SUB. -/
def ctorRing (f : FmtBR) : Nat → Option Instr
  | 0 => some (.ringReserve f)
  | 1 => some (.ringCommit f)
  | 2 => some (.ringWait f)
  | 3 => some (.ringFree f)
  | 4 => some (.ringQuery f)
  | 5 => some (.ringLogwait f)
  | 6 => some (.ringLogpop f)
  | _ => none

/-- OP 0x7B, by SUB. -/
def ctorCopy (f : FmtBR) : Nat → Option Instr
  | 0 => some (.tcopy f)
  | 1 => some (.tcopyMc f)
  | 2 => some (.tcopyCh f)
  | 3 => some (.gthr f)
  | 4 => if f.mod.getLsbD 0 then some (.cquiesceSet f) else some (.cquiesce f)
  | _ => none

/-- OP 0x7C, by SUB. -/
def ctorMma (f : FmtBR) : Nat → Option Instr
  | 0 => some (.mma f)
  | 1 => some (.mzero f)
  | 2 => if f.mod.getLsbD 0 then some (.mdrainRing f) else some (.mdrain f)
  | 3 => some (.epibind f)
  | 4 => some (.mload f)
  | 5 => some (.msync f)
  | _ => none

/-- OP 0x7D, by SUB. -/
def ctorVoc (f : FmtBR) : Nat → Option Instr
  | 0 => if f.mod.getLsbD 0 then some (.vociSpill f) else some (.voci f)
  | 1 => some (.vocf f)
  | 2 => some (.vocb f)
  | 3 => some (.vocm f)
  | 4 => some (.vocr f)
  | _ => none

/-- OP 0x7E, by SUB. -/
def ctorFabric (f : FmtBR) : Nat → Option Instr
  | 0 => some (.put f)
  | 1 => some (.putsig f)
  | 2 => some (.get f)
  | 3 => if f.ty = 6 ∨ f.ty = 8 then some (.raddSequenced f) else some (.radd f)
  | 4 => some (.sigwait f)
  | 5 => some (.sigread f)
  | 6 => some (.coll f)
  | 7 => some (.collwait f)
  | 8 => some (.seal f)
  | 9 => some (.unseal f)
  | 16 => if f.mod.getLsbD 0 then some (.qspawnV f) else some (.qspawn f)
  | 17 => some (.qsteal f)
  | 18 => some (.qtake f)
  | 19 => some (.glaunch f)
  | 20 => some (.gjoin f)
  | _ => none

/-- The constructor that OP, LEN, SUB and the entry's selecting bits name, for the opcodes whose words are in format BR
(R84, R85); none where no instruction is assigned. -/
def brCtor (op : Nat) (f : FmtBR) : Option Instr :=
  match op with
  | 0x06 => some (.brx f)
  | 0x08 => if f.tail.isExt then some (.exitS f) else some (.exit f)
  | 0x10 => some (.sadd f)
  | 0x11 => some (.ssub f)
  | 0x12 => some (.smul f)
  | 0x13 => some (.smulh f)
  | 0x14 => some (.sand f)
  | 0x15 => some (.sor f)
  | 0x16 => some (.sxor f)
  | 0x17 => some (.sandn f)
  | 0x18 => some (.sshl f)
  | 0x19 => some (.sshr f)
  | 0x1A => some (.ssra f)
  | 0x1B => some (.smin f)
  | 0x1C => some (.smax f)
  | 0x1D => some (.scmp f)
  | 0x1E => some (.ssel f)
  | 0x1F => some (.smov f)
  | 0x20 => some (.spopc f)
  | 0x21 => some (.sclz f)
  | 0x22 => some (.sbfe f)
  | 0x23 => some (.sbfi f)
  | 0x24 => some (.sdiv f)
  | 0x25 => some (.srem f)
  | 0x26 => some (.saddr f)
  | 0x28 => ctorPred f f.sub.toNat
  | 0x29 => ctorPmov f f.sub.toNat
  | 0x2A => some (.ballot f)
  | 0x2B => some (.ppopc f)
  | 0x2C => some (.pfirst f)
  | 0x2D => some (.ptest f)
  | 0x30 => some (.vadd f)
  | 0x31 => some (.vsub f)
  | 0x32 => some (.vmul f)
  | 0x33 => some (.vmulh f)
  | 0x34 => some (.vmad f)
  | 0x35 => some (.vand f)
  | 0x36 => some (.vor f)
  | 0x37 => some (.vxor f)
  | 0x38 => some (.vandn f)
  | 0x39 => some (.vshl f)
  | 0x3A => some (.vshr f)
  | 0x3B => some (.vsra f)
  | 0x3C => some (.vmin f)
  | 0x3D => some (.vmax f)
  | 0x3E => some (.vabs f)
  | 0x3F => some (.vneg f)
  | 0x40 => some (.vcmp f)
  | 0x41 => some (.vsel f)
  | 0x42 => some (.vmov f)
  | 0x43 => some (.vpopc f)
  | 0x44 => some (.vclz f)
  | 0x45 => some (.vbfe f)
  | 0x46 => some (.vbfi f)
  | 0x47 => some (.vhash f)
  | 0x48 => some (.vfadd f)
  | 0x49 => some (.vfsub f)
  | 0x4A => some (.vfmul f)
  | 0x4B => some (.vfma f)
  | 0x4C => some (.vfmin f)
  | 0x4D => some (.vfmax f)
  | 0x4E => some (.vfcmp f)
  | 0x4F => some (.vfclass f)
  | 0x50 => some (.vfrcp f)
  | 0x51 => some (.vfrsq f)
  | 0x52 => some (.vfsqrt f)
  | 0x53 => some (.vfexp2 f)
  | 0x54 => some (.vflog2 f)
  | 0x55 => some (.vfsin f)
  | 0x56 => some (.vfcos f)
  | 0x57 => some (.vftanh f)
  | 0x58 => some (.vfcvt f)
  | 0x59 => some (.vicvt f)
  | 0x5A => some (.vfdot2 f)
  | 0x5B => some (.vfpack f)
  | 0x5C => some (.vfscale f)
  | 0x5D => some (.vfrnd f)
  | 0x60 => some (.vshuf f)
  | 0x61 => some (.vbcast f)
  | 0x62 => some (.vred f)
  | 0x63 => some (.vscan f)
  | 0x64 => some (.vmatch f)
  | 0x65 => some (.vcompact f)
  | 0x66 => some (.vexpand f)
  | 0x67 => some (.vrot f)
  | 0x68 => some (.atload f)
  | 0x69 => some (.ateval f)
  | 0x70 => some (.ld f)
  | 0x71 => some (.st f)
  | 0x72 => some (.ldsExt f)
  | 0x73 => some (.stsExt f)
  | 0x74 => some (.atom f)
  | 0x75 => ctorRed f f.sub.toNat
  | 0x76 => ctorFence f f.sub.toNat
  | 0x77 => some (.pref f)
  | 0x78 => ctorBar f f.sub.toNat
  | 0x79 => ctorLock f f.sub.toNat
  | 0x7A => ctorRing f f.sub.toNat
  | 0x7B => ctorCopy f f.sub.toNat
  | 0x7C => ctorMma f f.sub.toNat
  | 0x7D => ctorVoc f f.sub.toNat
  | 0x7E => ctorFabric f f.sub.toNat
  | _ => none

/-! ### The checks of R81 -/

/-- One check: the fault it raises, the word it is reported in (%trapinfo.WORD, R81), and whether it fails. -/
structure Chk where
  code : FaultCode
  word : Nat
  bad : Bool
  deriving DecidableEq, Repr

/-- The first failing check of a list. -/
def firstBad : List Chk → Option (FaultCode × Nat)
  | [] => none
  | c :: cs => if c.bad then some (c.code, c.word) else firstBad cs

/-- The upper half of a literal of operand B is as R53, R54, R56 and R174 require. -/
def litHighOk (k : OpBKind) (ty : BitVec 4) (l : DWord) : Bool :=
  let hi : Word := l.extractLsb' 32 32
  match k with
  | .scalar => true
  | .vint => hi = 0 || (hi = BitVec.allOnes 32 && ty.toNat ≤ 1)
  | .xlane => hi = 0 || hi = BitVec.allOnes 32
  | .vscale => hi = 0 || (hi = BitVec.allOnes 32 && (ty = 6 || ty = 0))
  | _ => hi = 0

/-- Where a literal's upper half stands among the instruction's words (R64). -/
def litHighWord (t : Tail) : Nat := match t with | .baseLit _ => 2 | _ => 4

/-- TYPE of word1 is one of the row's; a base word has no TYPE field. -/
def tyOk (al : Allow) (f : FmtBR) : Bool := !f.tail.isExt || al.tys.contains f.ty.toNat

/-- The checks of word2 for an instruction with operand B (R70). -/
def opBChecks (al : Allow) (f : FmtBR) : List Chk :=
  match f.tail.lit? with
  | some l =>
    [ ⟨.illField, 0, f.b ≠ 0 || f.sb ≠ 0⟩,
      ⟨.illField, 2, f.w2 ≠ Word2.zero⟩,
      ⟨.illField, litHighWord f.tail, !litHighOk al.opB f.ty l⟩ ]
  | none =>
    [ ⟨.illField, 0, f.immSel && (f.b ≠ 0 || f.sb ≠ 0)⟩,
      ⟨.illField, 2, f.w2.ext.toNat > 1⟩,
      ⟨.illField, 2, !f.immSel && f.w2.imm ≠ 0⟩,
      ⟨.illField, 2, al.opB = .vfloat && f.immSel && f.w2.imm.toNat ≥ 65536⟩ ]

/-- ILL_OP, then ILL_LIT, then ILL_FIELD by ascending word, for an instruction in format BR (R66 to R71, R81, R87). -/
def brChecks (al : Allow) (f : FmtBR) : List Chk :=
  let w1 := f.w1
  [ ⟨.illOp, 0, if f.tail.isExt then !al.ext else !al.base⟩,
    ⟨.illOp, 1, !al.subs.contains w1.sub.toNat⟩,
    ⟨.illLit, 0, f.tail.lit?.isSome && (al.lit = .none || (al.lit = .f01 && f.tail.isExt))⟩,
    ⟨.illField, 0, f.tail.lit?.isSome && ((al.lit = .b11 || al.lit = .f01) && !f.tail.isExt)⟩,
    ⟨.illField, 3, f.tail.lit?.isSome && al.lit = .field⟩,
    ⟨.illField, 0, f.d.toNat > al.dMax⟩,
    ⟨.illField, 0, f.a.toNat > al.aMax⟩,
    ⟨.illField, 0, f.b.toNat > al.bMax⟩,
    ⟨.illField, 0, !al.sb && f.sb ≠ 0⟩,
    ⟨.illField, 0, !al.guard && (f.pn ≠ 0 || f.pg ≠ 0)⟩,
    ⟨.illField, 0, !al.ok0⟩,
    ⟨.illField, 1, !tyOk al f⟩,
    ⟨.illField, 1, w1.rnd.toNat > al.rndMax⟩,
    ⟨.illField, 1, !al.sat && w1.sat ≠ 0⟩,
    ⟨.illField, 1, !al.neg && (w1.negA ≠ 0 || w1.negB ≠ 0 || w1.absA ≠ 0 || w1.absB ≠ 0)⟩,
    ⟨.illField, 1, !al.fs && w1.fs ≠ 0⟩,
    ⟨.illField, 1, !al.acq && w1.acq ≠ 0⟩,
    ⟨.illField, 1, !al.rel && w1.rel ≠ 0⟩,
    ⟨.illField, 1, w1.mod.toNat > al.modMax⟩,
    ⟨.illField, 1, w1.c.toNat > al.cMax⟩,
    ⟨.illField, 1, !al.ok1⟩,
    ⟨.illField, 2, !al.w2Free && (al.opB = .no || al.opB = .conv) && f.w2 ≠ Word2.zero⟩,
    ⟨.illField, 2, !al.ok2⟩ ]
  ++ (if al.opB = .no || al.opB = .conv then [] else opBChecks al f)

end Sys2Proof.Machine
end

