-- ==== Sys2Proof/Machine/Checks.lean ====
section
/-! DEFINITION. The checks of 03_encoding.md R63 to R88 on one decoded instruction, in the order of R81: encoding checks that
depend on the words alone (`formChecks`), then the checks that depend on the group (`vregChecks`: R34, `roleOk`: R134). -/
namespace Sys2Proof.Machine
open Sys2Proof

/-! ### Special register numbers (R88) -/

/-- The special registers that SWR may write (R88). -/
def srWritable (n : Nat) : Bool := n = 0x10 || n = 0x11 || n = 0x20 || n = 0x22 || n = 0x24

/-- The numbers of R88. -/
def srKnown (n : Nat) : Bool :=
  n ≤ 0x0A || (0x10 ≤ n && n ≤ 0x14) || (0x18 ≤ n && n ≤ 0x1B) || (0x20 ≤ n && n ≤ 0x26)

/-! ### Pair words (R72, R73) -/

/-- Opcodes of class X. -/
def pairX (op : Nat) : Bool :=
  op = 0x48 || op = 0x49 || op = 0x4A || op = 0x4B || op = 0x5A || (0x30 ≤ op && op ≤ 0x34)

/-- Opcodes of class Y. -/
def pairY (op : Nat) : Bool :=
  (0x35 ≤ op && op ≤ 0x47) || op = 0x4E || op = 0x58 || op = 0x59 || (0x50 ≤ op && op ≤ 0x57) || op = 0x60 || op = 0x67

/-- VCMP and VFCMP take their condition from C in a pair (R73). -/
def pairCond (op : Nat) : Bool := op = 0x40 || op = 0x4E

/-- One operation of a pair in its extended form, with SUB, MOD, RND, SAT, NEG, ABS and the immediate zero (R73). -/
def PairOp.toBR (p : PairOp) (pn : BitVec 1) (pg : BitVec 3) (ty : BitVec 4) : FmtBR :=
  let op := p.op.toNat
  let cond := pairCond op
  { sb := p.sb, pn := pn, pg := pg, b := p.b, a := p.a, d := p.d,
    tail := .ext { Word1.zero with ty := ty, sub := if cond then p.c &&& 0xF else 0, c := if cond then 0 else p.c }
      Word2.zero }

/-- Operation X of a pair, as an instruction. -/
def FmtPair.fx (f : FmtPair) : FmtBR := f.x.toBR f.pn f.pg f.tyX
/-- Operation Y of a pair, as an instruction. -/
def FmtPair.fy (f : FmtPair) : FmtBR := f.y.toBR f.pn f.pg f.tyY

/-- How many registers a run of `k` names from `r`: r, r+1, ..., r+k-1. -/
def regRun (r : RegNum) (k : Nat) : List Nat := (List.range k).map (r.toNat + ·)

/-- Vector registers that operand B reads: v[B], unless SB, an immediate or a literal takes its place (R67, R70). -/
def bRegs (f : FmtBR) : List Nat :=
  if f.sb = 1 || f.immSel || f.tail.lit?.isSome then [] else [f.b.toNat]

/-- Registers of each lane by SIZE of LD and ST (R194). -/
def sizeRegs (f : FmtBR) : Nat :=
  match f.w2.ext.toNat % 8 with
  | 3 => 2
  | 4 => 4
  | _ => 1

/-- The base registers of LD and ST (R193): none with SBASE, a pair in the generic space, else one. -/
def baseRegs (f : FmtBR) : List Nat :=
  if f.w2.ext.getLsbD 3 then [] else if f.mod = 0 then regRun f.a 2 else [f.a.toNat]

/-- The vector registers that an instruction reads, by OP, and those that its D field names (R161 to R194). -/
def vecSrcDst (op : Nat) (f : FmtBR) : List Nat × List Nat :=
  let d := [f.d.toNat]
  let a := [f.a.toNat]
  if op = 0x34 || op = 0x4B || op = 0x5A || op = 0x46 then (a ++ bRegs f ++ [f.c.toNat], d)
  else if op = 0x40 || op = 0x4E then (a ++ bRegs f, [])
  else if op = 0x42 then (bRegs f, d)
  else if op = 0x3E || op = 0x3F || op = 0x43 || op = 0x44 || op = 0x47 || op = 0x4F || (0x50 ≤ op && op ≤ 0x57)
      || op = 0x58 || op = 0x59 || op = 0x5D || op = 0x65 || op = 0x66 || op = 0x69 || op = 0x63 then (a, d)
  else if op = 0x62 then (a, [])
  else if op = 0x64 then (regRun f.a (if f.mod = 1 then 2 else 1), d)
  else if op = 0x5B then (a ++ (if f.mod.toNat % 8 ≤ 2 then bRegs f else []), d)
  else if op = 0x70 then (baseRegs f, regRun f.d (sizeRegs f))
  else if op = 0x71 then (baseRegs f ++ regRun f.d (sizeRegs f), [])
  else if (0x30 ≤ op && op ≤ 0x67) then (a ++ bRegs f, d)
  else ([], [])

/-- Distinct members of a list. -/
def distinct (l : List Nat) : List Nat := l.eraseDups

/-- No register bank holds more than two of the distinct source registers (R73). -/
def banksOk (src : List Nat) : Bool :=
  [0, 1, 2, 3].all fun k => ((distinct src).filter (· % 4 == k)).length ≤ 2

/-- The C field is used only by a third vector source, a condition or VSEL's predicate (R73). -/
def pairC (op : Nat) (p : PairOp) : Bool :=
  if pairCond op then p.c.toNat < 16
  else if op = 0x41 then p.c.toNat < 8
  else if op = 0x34 || op = 0x4B || op = 0x5A || op = 0x46 then true
  else p.c = 0

/-- The restrictions of R73, once both opcodes are of their class. -/
def pairRulesOk (f : FmtPair) : Bool :=
  let (sx, dx) := vecSrcDst f.x.op.toNat f.fx
  let (sy, dy) := vecSrcDst f.y.op.toNat f.fy
  banksOk (sx ++ sy) && (distinct (sx ++ sy)).length ≤ 4
  && !(f.x.sb = 1 && f.y.sb = 1)
  && !(dx.any fun d => dy.contains d)
  && !(sx.any fun r => dy.contains r) && !(sy.any fun r => dx.contains r)

/-- Field errors of one operation of a pair, in word `w` (R73). -/
def pairOpChecks (op : Nat) (p : PairOp) (f : FmtBR) (w : Nat) : List Chk :=
  match brCtor op f with
  | none => []
  | some i =>
    match brRow i with
    | none => []
    | some (_, al, f) =>
      ⟨.illField, w, !pairC op p⟩ ::
      ((brChecks al f).filter (fun c => c.code = .illField || (c.code = .illOp && pairCond op))).map
        (fun c => { c with code := .illField, word := w })

/-- The crossing rule with a predicate: an operation that writes a predicate the other reads as VSEL's C (R73). DESIGN CHOICE (log entry 80):
the spec does not say whether the pair's shared guard p[PG] is something that an operation reads here; the model does not count it, so a
VCMP or VFCMP in Y may write it. -/
def pairPredOk (f : FmtPair) : Bool :=
  let wx := if pairCond f.x.op.toNat then some f.x.d else none
  let wy := if pairCond f.y.op.toNat then some f.y.d else none
  !(f.y.op = 0x41 && wx = some f.y.c) && !(f.x.op = 0x41 && wy = some f.x.c)

/-- The checks of a pair (R72, R73, R81). DESIGN CHOICE (log entry 101): where a rule of ILL_PAIR spans both operation words, the spec does not say
which word WORD names; it is 0. -/
def pairChecks (f : FmtPair) : List Chk :=
  let ox := f.x.op.toNat
  let oy := f.y.op.toNat
  let cls := pairX ox && pairY oy
  [ ⟨.illField, 0, f.z ≠ 0⟩ ]
  ++ (if pairX ox then pairOpChecks ox f.x f.fx 1 else [])
  ++ (if pairY oy then pairOpChecks oy f.y f.fy 2 else [])
  ++ [ ⟨.illPair, 0, !cls⟩, ⟨.illPair, 0, !pairRulesOk f⟩, ⟨.illPair, 0, !pairPredOk f⟩ ]

/-! ### Every format -/

/-- The header's own checks (R75). -/
def clauseChecks (f : FmtBC) : List Chk :=
  let flagBad (x : BitVec 4) : Bool := 0xC ≤ x.toNat && x.toNat ≤ 0xE
  [ ⟨.illField, 0, flagBad f.seta || flagBad f.setb⟩,
    ⟨.illField, 0, f.seta = f.setb && f.seta ≠ 0xF⟩ ]

/-- The checks on an instruction's own words, in the order of R81 up to ILL_PAIR. Events have no words: the list refuses
them. -/
def formChecks (i : Instr) : List Chk :=
  match brRow i with
  | some (_, al, f) => brChecks al f
  | none =>
    match i with
    | .nop z | .ret z | .yield z | .tret z => [⟨.illField, 0, z ≠ 0⟩]
    | .clause f => clauseChecks f
    | .bra _ => []
    | .braX _ w1 w2 => [⟨.illField, 1, w1 ≠ Word1.zero⟩, ⟨.illField, 2, w2.ext ≠ 0⟩]
    | .jmp _ | .call _ => []
    | .waitf f => [⟨.illField, 0, f.z ≠ 0⟩]
    | .trap f | .bkpt f | .sleep f => [⟨.illField, 0, f.a ≠ 0 || f.d ≠ 0⟩]
    | .srd f => [⟨.illField, 0, f.z ≠ 0 || !srKnown f.num.toNat⟩]
    | .swr f => [⟨.illField, 0, f.z ≠ 0 || !srKnown f.num.toNat⟩]
    | .lds _ | .sts _ => []
    | .pair f => pairChecks f
    | _ => [⟨.illOp, 0, true⟩]

/-! ### The checks that depend on the group -/

/-- The vector registers an instruction names, with the word of the field (R34). -/
def vregsNamed (i : Instr) : List (Nat × Nat) :=
  let at_ (w : Nat) (rs : List Nat) : List (Nat × Nat) := rs.map fun r => (w, r)
  match i with
  | .qspawnV f => [(0, f.a.toNat)]
  | .pair f =>
    let (sx, dx) := vecSrcDst f.x.op.toNat f.fx
    let (sy, dy) := vecSrcDst f.y.op.toNat f.fy
    (if pairX f.x.op.toNat then at_ 1 (sx ++ dx) else []) ++ (if pairY f.y.op.toNat then at_ 2 (sy ++ dy) else [])
  | .srd f => if f.num = 0 then [(0, f.r.toNat)] else []
  | i =>
    match brRow i with
    | some (op, _, f) =>
      let (s, d) := vecSrcDst op.toNat f
      let op := op.toNat
      if op = 0x34 || op = 0x4B || op = 0x5A || op = 0x46 then
        at_ 0 (f.a.toNat :: bRegs f ++ d) ++ [(1, f.c.toNat)]
      else at_ 0 (s ++ d)
    | none => []

/-- An unallocated vector register raises ILL_FIELD (R34, R69), in the word of its field. -/
def vregChecks (i : Instr) (v : Nat) : List Chk := (vregsNamed i).map fun (w, r) => ⟨.illField, w, v ≤ r⟩

/-- Checks of one kind, the lowest word first: the spec does not say which of several bad words WORD names (log entry 8). -/
def byWord (cs : List Chk) : List Chk := [0, 1, 2, 3, 4].flatMap fun w => cs.filter (·.word = w)

/-- The checks on an instruction's words in the order of R81: ILL_OP, ILL_LIT, ILL_FIELD, ILL_PAIR. -/
def inOrder (cs : List Chk) : List Chk :=
  cs.filter (·.code = .illOp) ++ cs.filter (·.code = .illLit) ++ byWord (cs.filter (·.code = .illField))
  ++ cs.filter (·.code = .illPair)

/-- The major opcode of an instruction that has words. -/
def opOf (i : Instr) : Nat :=
  match brRow i with
  | some (op, _, _) => op.toNat
  | none =>
    match i with
    | .nop _ => 0x00 | .clause _ => 0x01 | .bra _ | .braX _ _ _ => 0x02 | .jmp _ => 0x03 | .call _ => 0x04
    | .ret _ => 0x05 | .yield _ => 0x07 | .waitf _ => 0x09 | .trap _ => 0x0A | .tret _ => 0x0B | .bkpt _ => 0x0C
    | .srd _ => 0x0D | .swr _ => 0x0E | .sleep _ => 0x0F | .lds _ => 0x72 | .sts _ => 0x73
    | _ => 0x7F

/-- The roles that may issue an opcode (R134): 0 general, 1 loader, 2 matrix, 3 vector. -/
def roleOk (role : Nat) (op : Nat) : Bool :=
  role = 0 || op < 0x30 || op = 0x72 || op = 0x73 || op = 0x76 || op = 0x78 || op = 0x7A
  || (role = 1 && op = 0x7B)
  || (role = 2 && (op = 0x7C || op = 0x7D))
  || (role = 3 && op ≠ 0x7B && op ≠ 0x7C && op ≠ 0x7D)

/-- Control transfers that must stand last in their clause (R76). -/
def mustBeLast (i : Instr) : Bool :=
  match i with
  | .bra _ | .braX _ _ _ | .jmp _ | .call _ | .ret _ | .brx _ | .exitS _ | .trap _ | .tret _ => true
  | _ => false

/-- Every check of one slot of a clause, in the order of R81: the words, the registers allocated, the role, then CLAUSE. A CLAUSE header in
a slot has its own ILL_FIELD first (R75). -/
def slotChecks (i : Instr) (v role : Nat) (last : Bool) : List Chk :=
  let isClause : Bool := match i with | .clause _ => true | _ => false
  inOrder (match i with | .clause f => clauseChecks f | _ => formChecks i ++ vregChecks i v)
  ++ [ ⟨.role, 0, !roleOk role (opOf i)⟩, ⟨.clause, 0, isClause || (mustBeLast i && !last)⟩ ]

end Sys2Proof.Machine
end

