-- ==== Sys2Proof/WellFormed.lean ====
section
/-! DEFINITION. When an instruction is well formed: its words pass every check of 03_encoding.md that the words alone decide
(R66 to R75, R86 to R88). Events have no words and are not encodable. -/
namespace Sys2Proof
open Sys2Proof.Machine

/-- The instruction's words raise no fault of their own (R81, R87). -/
def wellFormed (i : Instr) : Bool := (firstBad (formChecks i)).isNone

end Sys2Proof
end

