-- ==== Sys2Proof/Decode.lean ====
section
/-! DEFINITION. The decoder and the encoder of 03_encoding.md. `decodeRaw` reads the fields of one instruction from its words
(R64, R65, R68, R72, R84, R85); `decode` also applies the checks of R81 on the words; `encode` writes the words of an
instruction from the same layouts. -/
namespace Sys2Proof
open Sys2Proof.Machine

/-- Why words are not an instruction. `truncated` is the model's own: fewer words than LEN asks for. `bad` is a fault of R87
with the word it is reported in (R81). -/
inductive DecodeError where
  | truncated
  | bad (code : FaultCode) (word : Nat)
  deriving DecidableEq, Repr

/-- The tail that LEN selects (R64) and the words left over. -/
def decodeTail (len : BitVec 2) (ws : List Word) : Option (Tail × List Word) :=
  if len = 0 then some (.base, ws)
  else if len = 1 then
    match ws with
    | lo :: hi :: rest => some (.baseLit (litOf lo hi), rest)
    | _ => none
  else if len = 2 then
    match ws with
    | a :: b :: rest => some (.ext (Word1.unpack a) (Word2.unpack b), rest)
    | _ => none
  else
    match ws with
    | a :: b :: lo :: hi :: rest => some (.extLit (Word1.unpack a) (Word2.unpack b) (litOf lo hi), rest)
    | _ => none

/-- The fate of a LEN other than 00 on an instruction with a base form only and no literal (R84, R87). -/
def baseOnly (t : Tail) (i : Instr) : Except DecodeError Instr :=
  match t with
  | .base => .ok i
  | .baseLit _ => .error (.bad .illLit 0)
  | _ => .error (.bad .illOp 0)

/-- The opcodes that R84 leaves unassigned. -/
def opUnassigned (op : Nat) : Bool :=
  op = 0x27 || op = 0x2E || op = 0x2F || op = 0x5E || op = 0x5F || (0x6A ≤ op && op ≤ 0x6F)

/-- The instruction of word0 and its tail, by OP (R84). -/
def decodeOp (w : Word) (t : Tail) : Except DecodeError Instr :=
  let op := (w.extractLsb' 2 7).toNat
  match op with
  | 0x00 => baseOnly t (.nop (unpackZ w))
  | 0x01 => baseOnly t (.clause (FmtBC.unpack w))
  | 0x02 =>
    match t with
    | .base => .ok (.bra (FmtBra.unpack w))
    | .ext w1 w2 => .ok (.braX (FmtBra.unpack w) w1 w2)
    | _ => .error (.bad .illLit 0)
  | 0x03 => baseOnly t (.jmp (unpackZ w))
  | 0x04 => baseOnly t (.call (unpackZ w))
  | 0x05 => baseOnly t (.ret (unpackZ w))
  | 0x07 => baseOnly t (.yield (unpackZ w))
  | 0x09 => baseOnly t (.waitf (FmtBW.unpack w))
  | 0x0A => baseOnly t (.trap (FmtBI.unpack w))
  | 0x0B => baseOnly t (.tret (unpackZ w))
  | 0x0C => baseOnly t (.bkpt (FmtBI.unpack w))
  | 0x0D => baseOnly t (.srd (FmtBS.unpack w))
  | 0x0E => baseOnly t (.swr (FmtBS.unpack w))
  | 0x0F => baseOnly t (.sleep (FmtBI.unpack w))
  | 0x72 =>
    match t with
    | .base => .ok (.lds (FmtBI.unpack w))
    | .baseLit _ => .error (.bad .illLit 0)
    | t => .ok (.ldsExt (FmtBR.unpack w t))
  | 0x73 =>
    match t with
    | .base => .ok (.sts (FmtBI.unpack w))
    | .baseLit _ => .error (.bad .illLit 0)
    | t => .ok (.stsExt (FmtBR.unpack w t))
  | 0x7F =>
    match t with
    | .ext w1 w2 => .ok (.pair (FmtPair.unpack w w1.pack w2.pack))
    | .extLit _ _ _ => .error (.bad .illLit 0)
    | _ => .error (.bad .illOp 0)
  | op =>
    match brCtor op (FmtBR.unpack w t) with
    | some i => .ok i
    | none => .error (.bad .illOp (if t.isExt && !opUnassigned op then 1 else 0))

/-- One instruction from the head of a list of words, with the words after it; its fields are not yet checked. -/
def decodeRaw (ws : List Word) : Except DecodeError (Instr × List Word) :=
  match ws with
  | [] => .error .truncated
  | w :: ws =>
    match decodeTail (w.extractLsb' 0 2) ws with
    | none => .error .truncated
    | some (t, rest) =>
      match decodeOp w t with
      | .ok i => .ok (i, rest)
      | .error e => .error e

/-- One well-formed instruction from the head of a list of words, or the fault of R87 that the words raise. -/
def decode (ws : List Word) : Except DecodeError (Instr × List Word) :=
  match decodeRaw ws with
  | .error e => .error e
  | .ok (i, rest) =>
    match firstBad (inOrder (formChecks i)) with
    | none => .ok (i, rest)
    | some (c, w) => .error (.bad c w)

/-! ### The encoder -/

/-- The words of an instruction, lowest address first (R64, R65, R68, R72). Events have none. -/
def encode (i : Instr) : List Word :=
  match brRow i with
  | some (op, _, f) => f.words op
  | none =>
    match i with
    | .nop z => [wordZ z 0x00]
    | .clause f => [f.word0]
    | .bra f => [f.word0 0]
    | .braX f w1 w2 => [f.word0 2, w1.pack, w2.pack]
    | .jmp z => [wordZ z 0x03]
    | .call z => [wordZ z 0x04]
    | .ret z => [wordZ z 0x05]
    | .yield z => [wordZ z 0x07]
    | .waitf f => [f.word0 0x09]
    | .trap f => [f.word0 0x0A]
    | .tret z => [wordZ z 0x0B]
    | .bkpt f => [f.word0 0x0C]
    | .srd f => [f.word0 0x0D]
    | .swr f => [f.word0 0x0E]
    | .sleep f => [f.word0 0x0F]
    | .lds f => [f.word0 0x72]
    | .sts f => [f.word0 0x73]
    | .pair f => f.words
    | _ => []

/-- The host's numbering: bit 0 is the least significant bit of the first word, later words count on from it; the bits
above `nbits` are zero, up to the longest instruction's five words (R64). -/
def wordsOfNat (nbits w : Nat) : List Word :=
  let w := w % 2 ^ nbits
  [BitVec.ofNat 32 w, BitVec.ofNat 32 (w / 2 ^ 32), BitVec.ofNat 32 (w / 2 ^ 64), BitVec.ofNat 32 (w / 2 ^ 96),
   BitVec.ofNat 32 (w / 2 ^ 128)]

/-- What the decoder reads from an instruction whose bits are `w`. -/
def decodeTableWord (nbits w : Nat) : Option Instr :=
  match decode (wordsOfNat nbits w) with
  | .ok (i, _) => some i
  | .error _ => none

end Sys2Proof
end

