-- ==== Sys2Proof/Config.lean ====
section
/-! DEFINITION. What the spec leaves to the implementation, as constants without a body: nothing can be proved of their values
(log entry 1). -/
namespace Sys2Proof

/-- A free value: 128 bits for the n-th value drawn. The step draws one wherever the spec leaves a value open. -/
opaque Config.freeValue : Nat → BitVec 128

/-- Free bytes: the k-th byte of the n-th value drawn. -/
opaque Config.freeByte : Nat → Nat → Byte

/-- Ciphertext of a byte string under a key and a nonce (R412, R428), by a number that names the use. -/
opaque Config.cipher : Nat → List Byte → List Byte

/-- A message digest, signature or tag over bytes (R422, R427, R435), by a number that names the use. -/
opaque Config.digest : Nat → List Byte → List Byte

/-- Whether the bytes of an image or token carry a signature that verifies (R437, R435, R444). -/
opaque Config.verifies : Nat → List Byte → Bool

/-- A correctly rounded value whose rounding the model's interval arithmetic does not decide (R57), by function number,
format and operand bits. -/
opaque Config.sfuTie : Nat → Nat → Nat → Nat

/-- How a sender weighs the entropy values of an endpoint (R298, R299): from a free value and the congestion scores, by entropy value. -/
opaque Config.entropyPick : BitVec 128 → List (Nat × Nat) → Nat

/-- A congestion score after an acknowledgement (false) or a loss (true) of a message, from the score before it (R299). -/
opaque Config.scoreNext : Nat → Bool → Nat

/-- Messages that a retransmission window holds beyond the first (R299). -/
opaque Config.window : Nat

/-- The device of a rank speaks extension version 2 (R301). -/
opaque Config.speaks2 : Nat → Bool

/-- A passage-plan image is one of the plans that are shipped (R319). -/
opaque Config.shippedPlan : List Byte → Bool

/-- Where a pilot keeps its copy of a collective's descriptor, by pilot and collective (R313). -/
opaque Config.descCopy : Nat → Nat → Nat

/-- Which of the lines of a full L1 makes room, by cycle and core (R201). -/
opaque Config.victim : Nat → Nat → Nat

/-- Descriptors near the tail of a task queue that the task engine holds on chip (R362). -/
opaque Config.queueCache : Nat

/-- Frames of memory that hold firmware state (R408), by firmware image. -/
opaque Config.firmwareFrames : List Byte → List Nat

/-- Fields of a signed firmware image whose places the spec does not give: the firewall matrix (R410), the seed of the compass
(R390) and the firmware security version (R437). -/
opaque Config.imageMatrix : List Byte → List (BitVec 16)
opaque Config.imageSeed : List Byte → BitVec 32
opaque Config.imageVersion : List Byte → Nat

/-- What a byte of memory reads as after its key was zeroised or replaced (R412, R431), by the number of the new key, 0 for none,
and the address. -/
opaque Config.decrypted : Nat → Nat → Byte

/-- The base of the register window: the companion's platform firmware assigns it (R439). -/
opaque Config.regwin : Nat

/-- Bytes of the images that FWLOAD names (R444): the spec gives no lengths. -/
opaque Config.imageBytes : Nat

/-- The module's serial number (R427), and the public point of its identity key (R419). -/
opaque Config.serial : BitVec 64
opaque Config.identity : List Byte

/-- Spare rows that a stack's repair store holds when it is made (R380, R383). -/
opaque Config.spareRows : Nat → BitVec 16

/-- An ECDSA signature over bytes by the identity key, 132 bytes; the number of a draw stands for its random part (R427). -/
opaque Config.signature : Nat → List Byte → List Byte

end Sys2Proof
end

