-- ==== Sys2Proof/Machine/Tbl.lean ====
section
/-! DEFINITION. Tables keyed by numbers, and byte memory, both as lists in one canonical form: keys strictly rising. -/
namespace Sys2Proof.Machine

/-- A table: key and value pairs, keys strictly rising. -/
abbrev Tbl (α : Type) := List (Nat × α)

/-- The value at a key. -/
def Tbl.get? {α : Type} : Tbl α → Nat → Option α
  | [], _ => none
  | (j, v) :: t, k => if j = k then some v else Tbl.get? t k

/-- Writes the value at a key, keeping the keys rising. -/
def Tbl.put {α : Type} : Tbl α → Nat → α → Tbl α
  | [], k, v => [(k, v)]
  | (j, u) :: t, k, v =>
    if k < j then (k, v) :: (j, u) :: t
    else if j = k then (k, v) :: t
    else (j, u) :: Tbl.put t k v

/-- Removes a key. -/
def Tbl.del {α : Type} : Tbl α → Nat → Tbl α
  | [], _ => []
  | (j, u) :: t, k => if j = k then t else (j, u) :: Tbl.del t k

/-- Changes the value at a key, if there is one. -/
def Tbl.upd {α : Type} (t : Tbl α) (k : Nat) (f : α → α) : Tbl α :=
  match t.get? k with
  | some v => t.put k (f v)
  | none => t

/-- The lowest key that the table does not use, at or above `from_`. -/
def Tbl.fresh {α : Type} (t : Tbl α) (from_ : Nat := 0) : Nat :=
  t.foldl (fun k p => if p.1 = k then k + 1 else k) from_

/-- The first key above every key in use: a key never used while the table only grows. -/
def Tbl.next {α : Type} (t : Tbl α) : Nat := t.foldl (fun k p => max k (p.1 + 1)) 0

/-- The keys strictly rise. -/
def Tbl.wf {α : Type} : Tbl α → Bool
  | [] => true
  | [_] => true
  | (j, _) :: (k, v) :: t => j < k && Tbl.wf ((k, v) :: t)

/-! ### Byte memory -/

/-- Byte memory: (address, byte) pairs, addresses strictly rising, no entry equal to the byte an unlisted address reads as. -/
abbrev Memory := List Host.Cell

/-- What an address that nothing has written reads as. DESIGN CHOICE: the spec gives the contents of HBM4 and of the capacity
tier after power-on only where it zeroes them (R406, R407); zero elsewhere is the model's (log entry 2). -/
def Memory.dflt : Byte := 0

/-- Reads one byte. -/
def Memory.read : Memory → Nat → Byte
  | [], _ => Memory.dflt
  | (j, b) :: t, a => if j = a then b else if a < j then Memory.dflt else Memory.read t a

/-- Writes one byte, keeping the canonical form. -/
def Memory.write : Memory → Nat → Byte → Memory
  | [], a, b => if b = Memory.dflt then [] else [(a, b)]
  | (j, c) :: t, a, b =>
    if a < j then (if b = Memory.dflt then (j, c) :: t else (a, b) :: (j, c) :: t)
    else if a = j then (if b = Memory.dflt then t else (a, b) :: t)
    else (j, c) :: Memory.write t a b

/-- The canonical form. -/
def Memory.wf : Memory → Bool
  | [] => true
  | [(_, b)] => b != Memory.dflt
  | (j, b) :: (k, c) :: t => b != Memory.dflt && j < k && Memory.wf ((k, c) :: t)

/-- Reads `n` bytes from an address upward. -/
def Memory.readN (m : Memory) (a : Nat) : Nat → List Byte
  | 0 => []
  | n + 1 => m.read a :: Memory.readN m (a + 1) n

/-- Writes bytes from an address upward. -/
def Memory.writeN (m : Memory) (a : Nat) : List Byte → Memory
  | [] => m
  | b :: bs => Memory.writeN (m.write a b) (a + 1) bs

/-- Makes every byte of [a, a + n) zero. -/
def Memory.zero (m : Memory) (a n : Nat) : Memory := m.filter fun c => c.1 < a || a + n ≤ c.1

/-! ### Little-endian numbers (R4) -/

/-- Bytes, lowest address first, as a number. -/
def leNat : List Byte → Nat
  | [] => 0
  | b :: bs => b.toNat + 256 * leNat bs

/-- Little-endian number at an offset of a byte list. -/
def bytesNum (b : List Byte) (off n : Nat) : Nat := leNat ((b.drop off).take n)

/-- The `n` low bytes of a number, lowest first. -/
def leBytes : Nat → Nat → List Byte
  | 0, _ => []
  | n + 1, x => BitVec.ofNat 8 x :: leBytes n (x / 256)

/-- A number of `n` bytes in memory. -/
def Memory.num (m : Memory) (a n : Nat) : Nat := leNat (m.readN a n)

/-! ### Lists by position -/

/-- `l` with position `i` replaced by `f` of what stands there. -/
def listUpd {α : Type} (l : List α) (i : Nat) (f : α → α) : List α :=
  match l[i]? with
  | some v => l.set i (f v)
  | none => l

/-- Bits of a number, as the manual writes x[hi:lo]. -/
def bitsOf (x hi lo : Nat) : Nat := x / 2 ^ lo % 2 ^ (hi + 1 - lo)

/-- The bit of a number. -/
def bitAt (x i : Nat) : Bool := x / 2 ^ i % 2 = 1

/-- A Boolean as a bit. -/
def b2n (b : Bool) : Nat := if b then 1 else 0

end Sys2Proof.Machine
end

