-- ==== Sys2Proof/Machine/State.lean ====
section
/-! DEFINITION. The state of the PZ9 as plain data: everything the spec gives the machine, one record per thing that the
manual names, and the machine right after reset. Each field's comment names the rule that gives it. -/
namespace Sys2Proof.Machine
open Sys2Proof

/-! ### Groups (01_machine.md R33, 05_sequencer.md) -/

/-- The kind of a divergence entry (R135). -/
inductive EntryKind where
  | path | join | call
  deriving DecidableEq, Repr

/-- An entry of the divergence stack (R135). -/
structure DivEntry where
  pc : DWord
  mask : Mask
  kind : EntryKind
  deriving DecidableEq, Repr

/-- The clause a group is issuing (R75, R81): it was decoded whole, so its words are held here. -/
structure OpenClause where
  seta : BitVec 4
  setb : BitVec 4
  /-- COUNT, 1 to 8. -/
  count : Nat
  /-- The slot to issue next, 0 to COUNT - 1. -/
  slot : Nat
  /-- The words of the clause's instructions, header not included. -/
  words : List Word
  /-- How many of those words stand before the slot to issue next. -/
  off : Nat
  deriving DecidableEq, Repr

/-- Where a resident group is (R128). -/
inductive Place where
  | active | pending | trapSlot | gone
  deriving DecidableEq, Repr

/-- One vector register: 96 lanes of 32 bits (R33). -/
abbrev VReg := Vector Word 96

/-- The version under which a group reads a sealed page (R117). -/
structure SealHeld where
  rank : Nat
  page : Nat
  version : Nat
  region : Nat
  deriving DecidableEq, Repr

/-- A group (R12, R33, R88, R135, R148). -/
structure Group where
  /-- s0 to s63. s60 to s62 hold the activity mask, s63 is zero (R33). -/
  sreg : Vector DWord 64
  /-- v0 to v63; those not allocated are zero and cannot be named (R34). -/
  vreg : Vector VReg 64
  /-- p0 to p7; p0 is all ones (R33). -/
  preg : Vector Mask 8
  /-- Outstanding counts of f0 to f11 (R78). -/
  flag : Vector (BitVec 6) 12
  /-- The clause header the group is at, or whose clause is open (R63, R228). -/
  pc : DWord
  /-- The open clause; none at a clause boundary. -/
  clause : Option OpenClause
  /-- The slot at which the clause at `pc` is re-entered without its WAIT (R156, R210). -/
  resume : Option Nat
  /-- The header reported for a word that should have been a header (R76). -/
  lastHdr : DWord
  /-- The top 16 entries of the divergence stack, top first (R135). -/
  divTop : List DivEntry
  /-- How many entries stand in the spill stack in memory (R136). -/
  divSpilled : Nat
  /-- Lanes that have exited for good (R17). -/
  exited : Mask
  /-- %cvm (R48). -/
  cvm : DWord
  /-- %srseed (R45). -/
  srseed : DWord
  /-- Stochastic-rounding state of each lane (R45, R46). -/
  sr : VReg
  /-- %trapvec (R148). -/
  trapvec : DWord
  /-- %trapcode (R148). -/
  trapcode : BitVec 8
  /-- %trappc (R148). -/
  trappc : DWord
  /-- %trapinfo (R148). -/
  trapinfo : DWord
  /-- %cfg (R148). -/
  cfg : DWord
  /-- The group is in its handler (R154). -/
  intrap : Bool
  /-- Activity mask when the trap was taken (R154). -/
  trapmask : Mask
  /-- Depth of the divergence stack when the trap was taken (R154). -/
  trapdepth : Nat
  /-- Every lane has exited (R17). -/
  retired : Bool
  /-- The instruction at the slot was withdrawn for missing pages (R208). -/
  withdrawn : Bool
  /-- The blocking instruction at the slot has begun its wait (R228, status bit 3). -/
  waiting : Bool
  /-- The condition of the RING WAIT at the slot has been met since the wait began (R252). -/
  woken : Bool
  /-- Set of outstanding things the blocking instruction waits for (R113, R111). -/
  waitIds : List Nat
  /-- The phase a blocking BAR waits for (R150). -/
  waitPhase : Nat
  /-- When the wait began, in reference cycles (R130). -/
  waitFrom : Nat
  /-- Where the group is on its partition (R128). -/
  place : Place
  /-- Order of entry into the active set (R132). -/
  entered : Nat
  /-- When the group's next clause became ready (R131). -/
  readySince : Nat
  /-- The wait makes the group swap-eligible (R130). -/
  eligible : Bool
  /-- The reference cycle at which a SLEEP ends; none when no SLEEP is in progress (R142). -/
  sleepUntil : Option Nat
  /-- Versions of sealed pages held since the last acquire (R117). -/
  seals : List SealHeld
  /-- The instruction at the slot cannot issue for now: its flag is full, or a queue, window or table has no room (R78, R131, R264,
  R300). -/
  held : Bool := false
  /-- The cycle after the last YIELD: among groups that became ready in it the group takes the last turn (R132). -/
  yieldAt : Nat := 0
  /-- When the trap whose handler runs was raised (R155). -/
  trapAt : Nat := 0
  /-- Landing points that could not be read when their branch issued, with the header of the branch's clause (R142). -/
  landings : List (DWord × DWord) := []
  /-- Acquires that the group has performed (R117). -/
  acqs : Nat := 0
  deriving DecidableEq, Repr

/-! ### Teams, grids and contexts (R12 to R19, 12_tasks.md) -/

/-- The states of R376. -/
inductive TeamState where
  | loading | running | suspended | saved | succeeding | joining
  deriving DecidableEq, Repr

/-- A stage-ring slot's state (R252). -/
inductive SlotState where
  | f | cs | ce | l | lf | d
  deriving DecidableEq, Repr

/-- A stage ring of a team (R252). -/
structure Ring where
  slots : Nat
  bytes : Nat
  offset : Nat
  tail : Nat
  state : List SlotState
  phase : List Bool
  deriving DecidableEq, Repr

/-- A logbook ring of a team (R256, R257). -/
structure Logbook where
  records : Nat
  base : Nat
  wr : Nat
  rd : Nat
  /-- The entry reserved to its taker, once a LOGPOP has taken one (R256). -/
  taken : Option Nat
  deriving DecidableEq, Repr

/-- The table unit of a team (R188): idle, waiting for the users of the target bank (the first of `atq` waits), or writing an
image that it has read. -/
inductive TableUnit where
  | idle
  | writing (grp : Nat) (target : Nat) (image : List Byte)
  deriving DecidableEq, Repr

/-- A COMMIT or FREE whose release has not completed (R254): the slot changes state when it has. -/
structure RingRel where
  grp : Nat
  ring : Nat
  slot : Nat
  free : Bool
  ids : List Nat
  deriving DecidableEq, Repr

/-- The issue state of a state tile (R323). -/
structure VocIssue where
  ntok : Nat
  k : Nat
  nlab : Nat
  cap : Nat
  t : Nat
  deriving DecidableEq, Repr

/-- An ATLOAD accepted and not yet taken by the table unit (R188). -/
structure AtLoad where
  grp : Nat
  offset : Nat
  deriving DecidableEq, Repr

/-- A missing page of a suspension (R208, R209). -/
structure MissPage where
  kind : Nat
  va : Nat
  deriving DecidableEq, Repr

/-- A hamper entry (R366). -/
structure Hamper where
  addr : DWord
  bytes : Nat
  offset : Nat
  deriving DecidableEq, Repr

/-- One declaration record of a launch header (R354). -/
structure Decl where
  kind : Nat
  id : Nat
  b2 : Nat
  w4 : Nat
  w8 : Nat
  b10 : Nat
  q8 : Nat
  deriving DecidableEq, Repr

/-- A launch header after its overrides: the team's shape and entry state (R353 to R355, R357). -/
structure Shape where
  g : Nat
  v : Nat
  roles : Nat
  tiles : BitVec 16
  mem : Nat
  cvm : DWord
  trapvec : DWord
  cfg : DWord
  decls : List Decl
  deriving DecidableEq, Repr

/-- Why a team is being saved (R226). -/
inductive SaveCause where
  | page | preempt | debug | security
  deriving DecidableEq, Repr

/-- A type of a tile (R263). -/
inductive TileType where
  | f32 | i32 | state
  deriving DecidableEq, Repr

/-- A team (R14, R376, R456). -/
structure Team where
  ctx : Nat
  /-- The grid; none for a task (R360). -/
  grid : Option Nat
  /-- %team (R15). -/
  index : Nat
  /-- %depth (R16). -/
  depth : Nat
  /-- %grid as it reads (R359, R360). -/
  gridIdx : Nat
  isTask : Bool
  taskId : Nat
  arg : DWord
  entry : DWord
  seed : DWord
  priority : Nat
  shape : Shape
  state : TeamState
  /-- The core; none while the team is saved (R14, R210). -/
  core : Option Nat
  /-- The cluster whose cores the team may use after a save (R210). -/
  cluster : Nat
  /-- The team slot on its core (R456). -/
  slot : Nat
  /-- The partition of group 0 (R13). -/
  part : Nat
  /-- First byte of team memory in the core's scratchpad. -/
  base : Nat
  /-- The physical tile of each allocated tile, ascending (R262). -/
  phys : List Nat
  /-- The type of each tile, by tile number (R263). -/
  tileTy : List TileType
  groups : List Group
  frameSlot : Nat
  saves : Nat
  pfcount : BitVec 32
  rings : Tbl Ring
  logs : Tbl Logbook
  /-- Declared barrier id to the barrier's key (R149). -/
  bars : Tbl Nat
  /-- Declared lock id to the lock's key (R222). -/
  locks : Tbl Nat
  /-- Multicast groups: a core mask (R235). -/
  mcast : Tbl (BitVec 8)
  /-- Chains: cores in delivery order (R235). -/
  chains : Tbl (List Nat)
  /-- Activation-table banks, each an image of 4,112 bytes (R186). -/
  bank0 : List Byte
  bank1 : List Byte
  cur : Nat
  unit : TableUnit
  atq : List AtLoad
  /-- The bound TEP image (R276). -/
  tep : Option (List Byte)
  /-- Successor descriptor address (R143). -/
  successor : Option DWord
  /-- Child grids not yet retired, and those that have retired (R371). -/
  children : List Nat
  joined : List Nat
  /-- Hamper entries still to land (R366). -/
  hamper : List Hamper
  /-- The team's groups stop at their next clause boundary, for this reason (R208, R160, R377). -/
  stopping : Option SaveCause
  /-- Missing pages found (R208). -/
  missing : List MissPage
  /-- Page-request token of the suspension, 0 for none (R208). -/
  token : Nat
  /-- Pages answered: the team may be restored (R210). -/
  answered : Bool
  /-- Group withdrawn first (R226). -/
  first : Nat
  /-- Order of placement, for R377, and of saving, for R378. -/
  order : Nat
  /-- Ring commits and frees whose releases have not completed. -/
  relq : List RingRel
  /-- Issue states of the state tiles, by tile number (R323). -/
  voc : Tbl VocIssue
  /-- When the copy queue sent its last sounding token (R260). -/
  tokenAt : Nat
  /-- Succession has begun and goes on after the restore (R375). -/
  succ : Bool
  /-- The partitions on which its groups hold backing allocations (R129). -/
  backed : BitVec 8 := 0
  /-- The effective shape of a successor, whose allocations are its first predecessor's (R375). -/
  eff : Option Shape := none
  /-- Token of a page that the writing or reading of its frame waits for, 0 for none, and that page (R455). -/
  ioToken : Nat := 0
  ioVa : Nat := 0
  /-- A Loading task, or a succession, whose header has not been read (R356, R375), and the core whose home queue a task came from
  (R374). -/
  needHdr : Bool := false
  homeCore : Nat := 0
  /-- The task's descriptor and where it stood (R365, R373), and the queue it came from, 0xFF for none (R373). -/
  desc : List Byte := []
  descAt : DWord := 0
  fromQueue : Nat := 0xFF
  /-- Group, clause header and slot of the first instruction that missed a page of the suspension (R136, R206). -/
  missFrom : Option (Nat × DWord × Nat) := none
  /-- Order of its last placement, a restore included (R377). -/
  placed : Nat := 0
  /-- The counter that a save in progress has taken, while its frame is not written (R428). -/
  saveNo : Option Nat := none
  deriving DecidableEq, Repr

/-- A live grid (R15, R18, R359, R376). -/
structure Grid where
  ctx : Nat
  /-- %grid; none before the grid starts. -/
  index : Option Nat
  depth : Nat
  entry : DWord
  arg : DWord
  seed : DWord
  n : Nat
  /-- The next %team to place. -/
  next : Nat
  /-- Cluster width, 0 for none (R15). -/
  width : Nat
  priority : Nat
  memKiB : Nat
  shape : Option Shape
  /-- Teams not yet retired. -/
  live : Nat
  children : List Nat
  /-- The parent team and its grid; none for a grid the host launched. -/
  parent : Option Nat
  parentGrid : Option Nat
  /-- The command that launched it. -/
  cmd : Option Nat
  /-- When the first team began to wait for placement (R372). -/
  waitFrom : Nat
  /-- Token of a header page request (R356). -/
  token : Nat
  /-- Its driver would not map the page. -/
  failed : Bool := false
  /-- The launch block of a child grid and its address (R370, R373). -/
  block : List Byte := []
  blockAt : DWord := 0
  deriving DecidableEq, Repr

/-- The states of a context (R421 to R426 for protected ones). -/
inductive CtxState where
  | creating | live | ending | scrubbing
  deriving DecidableEq, Repr

/-- A fault record before it is posted (R157). -/
structure FaultRec where
  code : FaultCode
  kind : Nat
  core : Nat
  grp : Nat
  team : Nat
  grid : Nat
  pc : DWord
  info : DWord
  addr : DWord
  clk : Nat
  detail : List Byte
  deriving DecidableEq, Repr

/-- A context (R349). -/
structure Ctx where
  world : Nat
  prot : Bool
  /-- Pod and remote accesses allowed (R424); true for a context that is not protected. -/
  fabric : Bool
  /-- Code of a protected context is not sealed (R421, R424). -/
  codeMut : Bool
  root : Nat
  ringBase : Nat
  ringRecs : Nat
  frameBase : Nat
  slotBytes : Nat
  spillBase : Nat
  spillBytes : Nat
  slots : Nat
  lookout : Nat
  tqMask : BitVec 64
  state : CtxState
  /-- Records posted so far (R157). -/
  posted : Nat
  /-- The fatal fault that ends the context, once one is raised, and the faults after it that have a record (R157). -/
  pending : Option FaultRec
  later : List FaultRec := []
  /-- A record held for a missing page of the fault ring, with its token (R455). -/
  heldRec : Option (List Byte × Nat)
  /-- Debug halt in progress or done (R160). -/
  halting : Bool
  halted : Bool
  /-- CTXDESTROY in progress: the command to complete. -/
  destroy : Option Nat
  deriving DecidableEq, Repr

/-! ### Group sequencer (05_sequencer.md) -/

/-- A swap transfer in progress on a partition (R130). -/
structure Swap where
  incoming : GRef
  outgoing : Option GRef
  /-- The reference cycle at which the transfer ends. -/
  done : Nat
  deriving DecidableEq, Repr

/-- A scheduler partition (R128, R155). Its active and pending sets are the groups whose `place` says so. -/
structure Part where
  swap : Option Swap
  trapOwner : Option GRef
  trapQueue : List GRef
  /-- Slot that last issued, for the round robin of R131. -/
  last : Nat
  /-- Next order of entry into the active set. -/
  order : Nat
  deriving DecidableEq, Repr

/-- A member group of a barrier (R150, R151). -/
structure BarMember where
  who : GRef
  /-- The phase the group last arrived in, until its wait on it ends. -/
  arrived : Option Nat
  /-- The group has arrived in the current phase. -/
  inPhase : Bool
  dropped : Bool
  /-- Core, team slot and last header of a group whose team has retired. -/
  past : Option (Nat × Nat × DWord)
  deriving DecidableEq, Repr

/-- A phase that its arrivals have filled and that waits for their releases (R151). -/
structure BarPhase where
  phase : Nat
  /-- Outstanding things that the arrivals' releases wait for. -/
  ids : List Nat
  deriving DecidableEq, Repr

/-- The phase that was filled last (R152): in which reference cycle, and whether a DROP filled it and the last expected arrival of the cycle has
not come. -/
structure BarFilled where
  at_ : Nat
  phase : Nat
  owing : Bool
  deriving DecidableEq, Repr

/-- A barrier (R149 to R153): a team's own, or the shared state of a cluster's or die's. -/
structure Barrier where
  id : Nat
  level : Nat
  grid : Option Nat
  /-- Team key at team level, cluster number, or C-die number. -/
  scope : Nat
  ctx : Nat
  expected : Nat
  arrivals : Nat
  phase : Nat
  drops : Nat
  members : List BarMember
  /-- Releases of the current phase's arrivals. -/
  ids : List Nat
  /-- Phases filled and not yet complete. -/
  open_ : List BarPhase
  /-- Groups that wait on a phase: (group, phase). -/
  waiters : List (GRef × Nat)
  /-- Lookout count in cycles (R153). -/
  lookout : Nat
  inert : Bool
  /-- The phase filled last, and the reference cycle of the last ARRIVE or SYNC (R152). -/
  filled : Option BarFilled := none
  synced : Option Nat := none
  deriving DecidableEq, Repr

/-- Debug registers (R159). -/
structure Debug where
  ctx : Nat
  bken : Bool
  bktag : BitVec 11
  parked : Nat
  refused : Bool
  gone : Bool
  bkhit : Bool
  haltDone : Bool
  halting : Bool
  deriving DecidableEq, Repr

/-! ### Load/store unit (07_load_store.md) -/

/-- What an instruction writes at its completion point (R79). -/
inductive RegWrite where
  | v (reg lane : Nat) (val : Word)
  | s (reg : Nat) (val : DWord)
  | p (reg : Nat) (val : Mask)
  /-- What remains of a scalar or predicate register once other 32-bit elements of it have landed (R80): an element and its value. -/
  | sWord (reg k : Nat) (val : Word)
  | pWord (reg k : Nat) (val : Word)
  deriving DecidableEq, Repr

/-- The kind of an outstanding long-latency instruction (R79): what must hold before its completion point. -/
inductive OpKind where
  /-- Nothing but the outstanding things of `need`. -/
  | plain
  /-- A load, for the swap rule of R130 and the release rule of R111. -/
  | load
  /-- CQUIESCE: the copies of `need` (R235). -/
  | cquiesce
  /-- LOCK ACQ or TRY of a lock (R223). -/
  | lock (key : Nat)
  /-- LOCK REL of a lock (R223). -/
  | unlock (key : Nat)
  /-- A copy instruction: its descriptor must have been read (R79). -/
  | copy (copy : Nat)
  /-- A MATRIX or VOC instruction (R79, R264, R273): its tile operations stand in `need`. -/
  | matrix
  /-- PUT, PUTSIG: its messages' sources are to be read (R79). GET: its messages stand in `need`. -/
  | fabric
  /-- SIGWAIT: the counter's address, the value, whether it must be equal, the register, and whether the condition has held
  (R308). -/
  | sigwait (addr : DWord) (value : DWord) (eq : Bool) (dst : Nat) (met : Bool)
  /-- COLL: the collective, once the lead pilot has accepted it (R316). -/
  | coll (key : Nat)
  /-- COLLWAIT: the collective that it waits for, none when none has been started on the id (R318). -/
  | collwait (key : Option Nat) (dst : Nat)
  /-- SEAL and UNSEAL (R309). -/
  | seal (start bytes : Nat) (version : Nat) (ending : Bool) (installed : Bool)
  /-- QSPAWN of the descriptors at these team-memory offsets (R368). -/
  | qspawn (offs : List Nat)
  /-- QSTEAL and QTAKE: the queue and the team-memory offset (R369). -/
  | qtake (queue : Nat) (off : Nat) (dst : Nat) (steal : Bool)
  /-- GLAUNCH of the block at a team-memory offset (R370). -/
  | glaunch (off : Nat) (dst : Nat)
  /-- GJOIN: the grids still awaited, and a grid the team did not launch (R371). -/
  | gjoin (grids : List Nat) (bad : Bool)
  deriving DecidableEq, Repr

/-- An outstanding long-latency instruction (R78, R79). -/
structure Op where
  owner : GRef
  /-- The flag its count is on; none when untracked (R78). -/
  flag : Option Nat
  kind : OpKind
  /-- Outstanding requests, messages, copies and entries it waits for. -/
  need : List Nat
  /-- An acquire is performed at completion (R103, R197). -/
  acq : Bool
  writes : List RegWrite
  /-- The clause header and slot, for a fault found after issue (R196). -/
  hdr : DWord
  slot : Nat
  /-- The access goes to the pod or remote tier (R130). -/
  far : Bool
  /-- A FABRIC instruction on the own device, which holds its entry of the send queue until it completes (R300). -/
  fab : Bool := false
  deriving DecidableEq, Repr

/-- One unit of a read request: its address, its bytes, and the register it goes to. -/
structure ReadUnit where
  addr : Nat
  bytes : Nat
  /-- Vector register or scalar register. -/
  vec : Bool
  reg : Nat
  lane : Nat
  deriving DecidableEq, Repr

/-- One unit of a write request. -/
structure WriteUnit where
  addr : Nat
  data : List Byte
  /-- The first register that its bytes came from, and the lane of a vector register (R80); none for an engine's write. -/
  src : Option (Nat × Option Nat) := none
  deriving DecidableEq, Repr

/-- A sequenced floating-point contribution (R218). -/
structure Contrib where
  ctx : Nat
  world : Nat
  unit : Nat
  index : Nat
  /-- Two BF16 elements, else one FP32. -/
  bf16 : Bool
  value : Word
  first : Bool
  last : Bool
  /-- Who waits for it. -/
  owner : Option GRef
  op : Option Nat
  /-- The reducing copy that sent it (R248). -/
  copy : Option Nat
  /-- The group whose releases wait for it, where it does not own it (R124). -/
  issuer : Option GRef := none
  /-- It holds an entry of its slice's reorder buffer (R219). -/
  held : Bool
  /-- It waits at its issuer for an entry (R219). -/
  waits : Bool
  /-- It is held at the old home of a migrating frame (R394). -/
  stalled : Bool
  /-- The address as the initiator named it, and its clause and slot (R196). -/
  va : Nat
  hdr : DWord
  slot : Nat
  /-- When it was held. -/
  since : Nat
  /-- A releasing reduction: later acquiring accesses of the group wait for it (R105). -/
  rel : Bool := false
  /-- The scalar register of its value, while its instruction is outstanding (R80). -/
  src : Option Nat := none
  /-- MPHASE it was routed under (R394). -/
  phase : Nat := 0
  /-- The pilot command that sent it (R314). -/
  cmd : Option Nat := none
  deriving DecidableEq, Repr

/-- What a request does at its home (R199, R214, R216, R218). -/
inductive ReqKind where
  | read (units : List ReadUnit)
  | write (units : List WriteUnit)
  | atom (sub : Nat) (bytes : Nat) (b c : DWord) (dst : Nat)
  | red (sub : Nat) (nat : Bool) (bytes : Nat) (b : DWord)
  | spadRead (units : List ReadUnit)
  | spadWrite (units : List WriteUnit)
  | spadAtom (sub : Nat) (bytes : Nat) (b c : DWord) (dst : Nat)
  | spadRed (sub : Nat) (nat : Bool) (bytes : Nat) (b : DWord)
  deriving DecidableEq, Repr

/-- A request on its way to its home (R107, R199, R394). -/
structure Req where
  owner : Option GRef
  ctx : Nat
  world : Nat
  core : Nat
  op : Option Nat
  /-- Physical address of its line or unit; for scratchpad requests the scratchpad address. -/
  addr : Nat
  kind : ReqKind
  /-- Data bypasses L1 (R203). -/
  nc : Bool
  /-- Outstanding things that must be done first: a REL write (R197). -/
  after : List Nat
  /-- MPHASE it was routed under (R394). -/
  phase : Nat
  stalled : Bool
  /-- The address as the initiator named it, and its lane (R196). -/
  va : Nat
  lane : Nat
  hdr : DWord
  slot : Nat
  /-- A message of another rank that the request serves (R296). -/
  msg : Option Nat
  /-- It is a releasing write: later acquiring accesses of the group wait for it (R105). -/
  rel : Bool := false
  /-- The target world, where it is not the owner of the frame (R409). -/
  target : Option Nat := none
  /-- The register of its operand, for a store-class instruction that is outstanding under `srcOp` (R80). -/
  bsrc : Option Nat := none
  srcOp : Option Nat := none
  deriving DecidableEq, Repr

/-- An L1 word (R201): a copy, owned, or owned and changed under a lock (R225). -/
inductive L1Word where
  | v (w : Word)
  | o
  | d (w : Word)
  deriving DecidableEq, Repr

/-- An update-only partial in a core's L1 (R201, R216). -/
structure Partial where
  core : Nat
  addr : Nat
  bytes : Nat
  sub : Nat
  nat : Bool
  value : Nat
  ctx : Nat
  /-- The address of its unit as its last reduction named it (R386). -/
  va : Nat := 0
  deriving DecidableEq, Repr

/-- A TLB entry (R202). `loc` is a core, or 128 + a cluster. -/
structure TlbEntry where
  loc : Nat
  ctx : Nat
  /-- First virtual byte and size of the page. -/
  va : Nat
  size : Nat
  phys : Nat
  nc : Bool
  eo : Bool
  x : Bool
  w : Bool
  level : Nat
  deriving DecidableEq, Repr

/-- A group waiting for a lock, and its instruction (R224). -/
structure LockWaiter where
  who : GRef
  op : Nat
  deriving DecidableEq, Repr

/-- A lock of a cluster (R222 to R225). -/
structure Lock where
  cluster : Nat
  grid : Option Nat
  team : Nat
  id : Nat
  ctx : Nat
  /-- Guarded ranges: address and bytes, in the local tier. -/
  ranges : List (DWord × Nat)
  /-- The physical pieces of the ranges, found at the grant (R225). -/
  phys : List (Nat × Nat)
  holder : Option GRef
  /-- The holder's write-back requests, before the lock passes on. -/
  pushing : Bool
  ids : List Nat
  queue : List LockWaiter
  deriving DecidableEq, Repr

/-- An open stream of sequenced contributions (R218). -/
structure Stream where
  ctx : Nat
  unit : Nat
  next : Nat
  deriving DecidableEq, Repr

/-- A page-request record (R209). -/
structure PageReq where
  kind : Nat
  world : Nat
  token : Nat
  ctx : Nat
  va : Nat
  rank : BitVec 32
  count : Nat
  index : Nat
  deriving DecidableEq, Repr

/-- The translation block registers and the page-request queue (R206, R209). -/
structure Xlat where
  ctx : Nat
  scope : BitVec 2
  vpn : Nat
  busy : Bool
  err : Bool
  prqBase : DWord
  tail : BitVec 32
  head : BitVec 32
  /-- Records held while the ring is full. -/
  queue : List PageReq
  /-- Records posted since reset. -/
  seq : Nat
  /-- Last token given. -/
  token : Nat
  /-- Requests in flight when the invalidation began (R207). -/
  waits : List Nat
  deriving DecidableEq, Repr

/-! ### Fabric (10_fabric.md) -/

/-- What a message asks of its target (R296, R306 to R309). -/
inductive MsgKind where
  | read (units : List ReadUnit)
  | write (units : List WriteUnit)
  | atom (sub : Nat) (bytes : Nat) (b c : DWord) (dst : Nat)
  | contrib (c : Contrib)
  | put (data : List Byte)
  | signal (n : Nat)
  | get (bytes : Nat) (dst : DWord)
  /-- The version query of a sealed page (R117), with the reads that wait for it, and the acquires its group had performed when it asked. -/
  | version (page : Nat) (units : List ReadUnit) (acqs : Nat)
  /-- A read of a sealed page under a version (R117). -/
  | sealRead (unit : ReadUnit) (version : Nat)
  deriving DecidableEq, Repr

/-- Where a message is (R296 to R300). -/
inductive MsgState where
  /-- Waiting in its team's send queue for credit (R300). -/
  | queued
  /-- Sent and not acknowledged (R298). -/
  | sent
  /-- Refused with a retry-after hint; re-sent at this reference cycle (R211). -/
  | refused (at_ : Nat)
  /-- Executed or placed at the target; its acknowledgement is on its way. -/
  | done
  deriving DecidableEq, Repr

/-- Where a rank is reached (R294): by the torus, at coordinates; or by Ethernet, in a pod, at a device address, over a mask of ports, with
a number of entropy values. -/
inductive Route where
  | torus (x y z : Nat)
  | ether (pod : Nat) (addr : BitVec 128) (ports : BitVec 4) (entropy : Nat)
  deriving DecidableEq, Repr

/-- A message between ranks (R296). Messages of this rank wait for their acknowledgement; messages of other ranks wait to
arrive. -/
structure Msg where
  /-- The message comes from another rank. -/
  inbound : Bool
  /-- The other rank. -/
  rank : Nat
  region : Nat
  off : Nat
  kind : MsgKind
  state : MsgState
  owner : Option GRef
  ctx : Nat
  op : Option Nat
  copy : Option Nat
  /-- Queue of the sending team (R300); the port it leaves by. -/
  team : Option Nat
  port : Nat
  seq : Nat
  resends : Nat
  firstSent : Nat
  lastSent : Nat
  after : List Nat
  va : Nat
  lane : Nat
  hdr : DWord
  slot : Nat
  /-- Page-request token under which the message waits, 0 for none (R305). -/
  token : Nat
  /-- The answer that has come back: data and status: 0 for done, a fault code (R305), 0x100 plus the hint for a refusal of
  R211, 0x200 plus the hint for a missing job context (R294). -/
  reply : Option (List Byte × Nat)
  /-- Where the bytes of a PUT stand, and how many, while they have not been read (R121). -/
  src : Option (DWord × Nat) := none
  /-- It goes to a unit of the own rank: it never leaves the device. -/
  loc : Bool := false
  /-- The pilot command that sent it (R314). -/
  cmd : Option Nat := none
  /-- The register of its operand (R80). -/
  bsrc : Option Nat := none
  /-- Where its rank was found when the access was resolved (R294), the entropy value that it carries (R298), and whether it takes a place
  in a retransmission window (R299). -/
  route : Route := .torus 0 0 0
  entropy : Nat := 0
  inWindow : Bool := false
  /-- The collective whose result it places (R319). -/
  coll : Option Nat := none
  /-- The X-die that resolves its rank (R288). -/
  die : Nat := 0
  deriving DecidableEq, Repr

/-- A run of ranks (R290). -/
structure Run where
  first : Nat
  count : Nat
  pod : Nat
  pos : Nat
  deriving DecidableEq, Repr

/-- An endpoint entry (R292); beside a cached one, the congestion score of each entropy value, and the messages in the retransmission
window of each port 36 to 39 (R299). -/
structure Endpoint where
  pod : Nat
  entropy : Nat
  ports : BitVec 4
  addr : BitVec 128
  scores : Tbl Nat := []
  out : Tbl Nat := []
  /-- The X-die whose cache holds it (R288). -/
  die : Nat := 0
  deriving DecidableEq, Repr

/-- A region of the own rank (R293). -/
structure Region where
  base : Nat
  units : Nat
  kind : Nat
  w : Bool
  rmw : Bool
  deriving DecidableEq, Repr

/-- The installed rank chart (R288 to R293). -/
structure Chart where
  job : DWord
  nrank : Nat
  rank : Nat
  pod : Nat
  runs : List Run
  /-- Placement of a position; none where it has none (R291). -/
  lin : Bool
  dim : Nat × Nat × Nat
  place : List (Option (Nat × Nat × Nat))
  endpoints : Nat
  endTable : Nat
  cached : List Endpoint
  regions : List Region
  plans : List Nat
  jobCtx : Nat
  deriving DecidableEq, Repr

/-- A sealed range (R309). -/
structure Seal where
  start : Nat
  bytes : Nat
  version : Nat
  /-- The physical 64 KiB pages of the range: a write through any address is refused (R309). -/
  pages : List Nat
  deriving DecidableEq, Repr

/-- A port's registers (R303) and the torus credit it holds (R299). -/
structure Port where
  laneen : BitVec 4
  ratecap : Bool
  drain : Bool
  enable : Bool
  cerr : BitVec 32
  extver : BitVec 8
  lanes : BitVec 4
  rate : Bool
  /-- 0 down; 1 training; 2 up; 3 drained; 4 failed. -/
  state : Nat
  chg : Bool
  credit : Nat
  /-- 0 UALink 1.0; 1 UEC 1.0, once the port has trained. -/
  proto : Bool := false
  deriving DecidableEq, Repr

/-- A port pilot (R312 to R315): its registers, its command window, and whether it holds verified firmware. -/
structure Pilot where
  /-- 0 off; 1 loading; 2 verifying; 3 running; 4 draining; 5 refused. -/
  state : Nat
  drain : Bool
  run : Bool
  img : DWord
  verified : Bool
  /-- Pilot memory at its pilot addresses: plan slots and command window. -/
  mem : Memory
  /-- Plan images copied in (R313), by slot. -/
  plans : List (Option (List Byte))
  /-- The collective whose plan wrote the GO of a slot of the command window last, by slot (R314). -/
  goBy : Tbl Nat := []
  deriving DecidableEq, Repr

/-- A command of a pilot's window in progress (R314). -/
structure PilotCmd where
  pilot : Nat
  slot : Nat
  coll : Nat
  ids : List Nat
  /-- Commands that must have ended before it is sent: the release bit. -/
  after : List Nat
  sent : Bool
  /-- A SIGWAIT's counter, value, and whether it must be equal. -/
  wait : Option (DWord × Nat × Bool)
  /-- The result of a SIGWAIT or SIGREAD, once there. -/
  result : Option Nat
  /-- Page-request token under which it waits, 0 for none, and the page (R305). -/
  token : Nat
  pageVa : Nat := 0
  deriving DecidableEq, Repr

/-- A collective of a context on an id (R316 to R318). -/
structure Coll where
  ctx : Nat
  id : Nat
  /-- The descriptor; empty until the lead pilot accepts it. -/
  desc : List Byte
  addr : DWord
  team : Nat
  /-- Sequence number on the id. -/
  seq : Nat
  started : Bool
  /-- Pilots whose plan has not returned. -/
  pilots : List Nat
  /-- Registers a1 to a5 of the call (R313). -/
  args : List DWord
  /-- The status of R318, once completed. -/
  status : Option DWord
  /-- Register a0 of the call, by pilot: where its copy of the descriptor stands (R313). -/
  descAt : Tbl Nat := []
  /-- The elements of the own source, once its pilots have read and checked them (R320). -/
  src : Option (List Nat) := none
  /-- The elements that the other participants brought, by participant (R319). -/
  peers : Tbl (List Nat) := []
  /-- The messages that place the result, once the pilots of a shipped plan have formed it (R319). -/
  places : Option (List Nat) := none
  deriving DecidableEq, Repr

/-- Bytes of another rank's sealed page held in the own L2, tagged with the rank and the version (R116). -/
structure SealLine where
  /-- World of the job context that read them (R413). -/
  world : Nat
  rank : Nat
  region : Nat
  version : Nat
  /-- Region offset. -/
  off : Nat
  bytes : List Byte
  deriving DecidableEq, Repr

/-- The fabric block: chart, seals, registers (R295, R303, R309). -/
structure Fabric where
  /-- A LOAD is in progress; an ENDINV is (R295). -/
  rchLoad : Bool
  rchInv : Bool
  /-- Messages in the retransmission window of each bundle of the own pod (R299). -/
  windows : Tbl Nat
  ports : List Port
  pilots : List Pilot
  pilotCmds : Tbl PilotCmd
  colls : Tbl Coll
  /-- Messages of other ranks already placed: rank and number (R296). -/
  seen : List (Nat × Nat)
  /-- Answers sent to other ranks: rank, number, data, status. -/
  sent : List (Nat × Nat × List Byte × Nat)
  /-- Number of the next message sent. -/
  seq : Nat
  chart : Option Chart
  rchbase : DWord
  rchErr : Nat
  rchErrFlag : Bool
  seals : List Seal
  /-- The highest version the rank has sealed in the job. -/
  topVersion : Option Nat
  /-- Lines of other ranks' sealed pages held in the own L2 (R116). -/
  sealLines : List SealLine
  deriving DecidableEq, Repr

/-! ### Copy engine (08_copy.md) -/

/-- A receiver of a multicast or chain (R249 to R251). -/
structure Recv where
  core : Nat
  team : Nat
  slot : Option Nat
  /-- The receiver's slot has been committed. -/
  committed : Bool
  /-- A chain position has forwarded to the next position. -/
  forwarded : Bool
  deriving DecidableEq, Repr

/-- A copy, gather, multicast or chain of a team's copy queue (R232). Numbers rise in queue order. -/
structure Copy where
  team : Nat
  grp : Nat
  sub : Nat
  sdelta : DWord
  ddelta : DWord
  cvm : DWord
  seed : Word
  step0 : Word
  hdr : DWord
  slot : Nat
  /-- The outstanding instruction, until the descriptor has been read (R79). -/
  op : Option Nat
  /-- Team-memory offset of the descriptor; the descriptor once read. -/
  descAt : Nat
  desc : Option (List Byte)
  /-- The index list of a gather, once read. -/
  idx : List Nat
  /-- What the group's release waits for before the source is read (R121, R233). -/
  after : List Nat
  started : Bool
  /-- In the reserve entry (R261). -/
  aside : Bool
  /-- Record flags: out-of-range index, absent receiver, parked, set aside (R256). -/
  flags : Nat
  /-- The claimed slot of a ring destination. -/
  claim : Option Nat
  recv : List Recv
  /-- Elements placed. -/
  pos : Nat
  /-- Bytes placed, once per receiver. -/
  placed : Nat
  /-- Elements of a far source that have arrived, and the messages that carry the others. -/
  buf : Tbl (List Byte)
  need : List Nat
  /-- The fault that stopped it, and its address (R243). -/
  fault : Option (FaultCode × DWord)
  committed : Bool
  /-- Own page-request token, 0 for none (R244), and the missing page. -/
  token : Nat
  pageVa : Nat := 0
  /-- When the copy was found blocked at the head of its queue (R260). -/
  blockedFrom : Option Nat
  /-- The reads of a far source have been sent, under these messages. -/
  asked : Bool
  reads : List Nat
  /-- The dense image of a multicast or chain, once read (R250, R251). -/
  data : Option (List Byte)
  /-- It stands in the frame of its saved team (R230, R245). -/
  parked : Bool
  deriving DecidableEq, Repr

/-- A node that a sounding token can reach (R260). -/
inductive TokNode where
  | copyQueue (team : Nat)
  | ring (team id : Nat)
  | group (r : GRef)
  | sender (copy : Nat)
  | dead
  deriving DecidableEq, Repr

/-- A sounding token at a node, with the edges it has still to pass (R260). -/
structure Token where
  origin : Nat
  left : List TokNode
  deriving DecidableEq, Repr

/-! ### Matrix engine (09_matrix.md, 11_vocabulary.md) -/

/-- An operation on tiles, between its issue and its effect (R264). -/
inductive TileOpKind where
  /-- One beat of an MMA (R267): operand addresses in the scratchpads, format, pitches in units of 16 bytes. -/
  | mma (fmt a b pa pb beat : Nat)
  | zero (beats : List Nat)
  | load (src pitch : Nat) (beats : List Nat)
  | drain (d : Nat)
  | voci (block : List Byte)
  | vociSpill (base cap : Nat)
  /-- `bias` is a scratchpad address, none for no bias. -/
  | vocf (fmt h w : Nat) (bias : Option Nat) (d nv : Nat)
  | vocb (fmt h w : Nat) (bias : Option Nat) (d nv dl dh dw c0 vid0 : Nat)
  | vocm (src : Nat)
  /-- The destination, and where each 16-byte piece of the images goes: in a scratchpad, or in memory. -/
  | vocr (dst : DWord) (chunks : List (Bool × Nat))
  deriving DecidableEq, Repr

/-- A tile operation that has not taken effect (R264). Numbers rise in the order of issue. -/
structure TileOp where
  team : Nat
  grp : Nat
  op : Nat
  /-- The tiles it acts on, as the team names them. -/
  tiles : List Nat
  kind : TileOpKind
  hdr : DWord
  slot : Nat
  deriving DecidableEq, Repr

/-- A pass of the array queue (R270). -/
structure Pass where
  core : Nat
  /-- The key: B address, format and pitch. -/
  b : Nat
  fmt : Nat
  pb : Nat
  members : List Nat
  /-- The cycle in which the first member entered. -/
  since : Nat
  closed : Bool
  /-- Order of closing. -/
  order : Nat
  /-- The cycle in which it started. -/
  started : Option Nat
  deriving DecidableEq, Repr

/-- Where a drain writes (R278): the rows of an address, or a claimed ring slot. -/
inductive DrainDest where
  | mem
  | ring (id slot : Nat)
  deriving DecidableEq, Repr

/-- A drain of a team's drain queue (R279, R280). Numbers rise in queue order. -/
structure Drain where
  team : Nat
  grp : Nat
  tile : Nat
  /-- The type of the tile when the MDRAIN issued (R263). -/
  ty : TileType
  image : List Byte
  /-- The pointer deltas, in bytes. -/
  deltas : List Nat
  cvm : DWord
  seed : Word
  step0 : Word
  beats : List Nat
  dest : DrainDest
  /-- For an address destination, where each 16-byte piece of the active rows goes, in order: in a scratchpad, or in memory. -/
  chunks : List (Bool × Nat)
  /-- The address and pitch of that destination, and the clause and slot of the MDRAIN, for a fault found after issue (R386). -/
  at_ : DWord
  pitch : Nat
  hdr : DWord
  slot : Nat
  /-- The outstanding instruction. -/
  op : Nat
  started : Bool
  /-- The activation bank it is bound to (R190). -/
  bank : Nat
  /-- The tile has been read out; the writes that remain (R280). -/
  out : Option (List WriteUnit × List WriteUnit)
  deriving DecidableEq, Repr

/-! ### Task engine (12_tasks.md) -/

/-- A buffer handle entry (R351). -/
structure Handle where
  ctx : Nat
  base : DWord
  bytes : DWord
  /-- Last writer: queue and line, and its command while it has not retired. -/
  queue : Nat
  line : Nat
  writer : Option Nat
  /-- Commands that read it since, not retired. -/
  readers : List Nat
  deriving DecidableEq, Repr

/-- A hardware task queue (R361, R362). -/
structure TaskQ where
  bound : Bool
  log : Nat
  base : DWord
  ctx : Nat
  head : Nat
  tail : Nat
  /-- Descriptors near the tail, held on chip (R362). -/
  cache : Tbl (List Byte)
  deriving DecidableEq, Repr

/-- A command queue (R344). -/
structure CmdQ where
  addr : Nat
  size : Nat
  en : Bool
  next : Nat
  deriving DecidableEq, Repr

/-- A command taken and not complete (R345 to R347). -/
structure Cmd where
  queue : Nat
  line : Nat
  bytes : List Byte
  started : Bool
  /-- What it waits on: a grid, a context's end, handle entries or a page token. -/
  token : Nat
  pages : List MissPage
  answered : Bool
  failed : Bool
  /-- Handles it names, still to be waited for: the commands. -/
  waits : List Nat
  deriving DecidableEq, Repr

/-- A home queue register (R361). -/
structure CoreHome where
  en : Bool
  home : Nat
  deriving DecidableEq, Repr

/-- The command processor and task engine (R344 to R363). -/
structure TaskEngine where
  cq : Tbl CmdQ
  cmds : Tbl Cmd
  handles : Tbl Handle
  tq : Tbl TaskQ
  home : Tbl CoreHome
  /-- The cycle in which the dispatcher last took a task, and the first core that it had not considered then (R374). -/
  dispAt : Nat
  dispNext : Nat
  /-- Next order of placement and of saving. -/
  order : Nat
  deriving DecidableEq, Repr

/-! ### Memory stacks (13_memory_stacks.md) -/

/-- Migration state of a frame (R387, R393). -/
inductive MigState where
  | old | drain | moving | new
  deriving DecidableEq, Repr

/-- A lost line (R386). -/
structure Lost where
  kind : Nat
  line : Nat
  deriving DecidableEq, Repr

/-- A line of the capacity-tier cache (R384, R400): its tag, and whether it is dirty. -/
structure CacheLine where
  tag : Nat
  dirty : Bool
  deriving DecidableEq, Repr

/-- A stack (R380 to R383): its state, its mailbox, and what its management core counts. -/
structure Stack where
  /-- 0 not trained; 1 training; 2 in service; 3 retiring; 4 retired; 5 failed training. -/
  state : Nat
  cmd : Nat
  arg : DWord
  resp : DWord
  result : Nat
  done : Bool
  busy : Bool
  corrected : BitVec 32
  /-- The lines whose rows have been spared: one spare row each (R383). -/
  repaired : List Nat
  /-- Patrol passes that SCRUB started and that have not ended, and when the last daily pass ended (R383). -/
  passes : Nat
  patrolAt : Nat
  /-- The argument of the command that runs: that of MBXARG when it was issued. -/
  runArg : DWord
  deriving DecidableEq, Repr

/-- The state of the memory stacks (R380 to R403). -/
structure Stacks where
  stackTab : List Stack
  /-- The compass: seed, active stacks, and the mapping kept until a migration ends (R390). -/
  seed : Word
  active : BitVec 12
  oldActive : BitVec 12
  lltidx : BitVec 10
  frameq : BitVec 20
  retStack : BitVec 4
  retErr : BitVec 4
  /-- 0 idle; 1 reserving; 2 flushing the cache; 3 migrating; 4 done; 5 refused. -/
  retState : Nat
  total : Nat
  /-- Cache lines by set; `bypass` while a retirement flushes the cache (R403). -/
  lines : Tbl CacheLine
  bypass : Bool
  ready : Bool
  memcap : Nat
  /-- A retirement has lowered MEMCAP (R396). -/
  retired : Bool
  cache : Nat
  nextCache : Nat
  mphase : BitVec 16
  lost : List Lost
  fenced : List Nat
  /-- Frames not in state OLD during a migration. -/
  mig : Tbl MigState
  migrating : Bool
  stalls : Nat
  replays : Nat
  /-- Driver's choice of MEMCFG.NEXTCACHE stands in `nextCache`; RETCTL.STACK in `retStack`. When stage 2 began (R447). -/
  trainFrom : Nat := 0
  /-- Training after a cold reset, which has a limit. -/
  coldTrain : Bool := false
  /-- The stack that a retirement takes out. -/
  leaving : Nat := 0
  /-- The retirement is flushing the cache (R403); `retState` keeps what RETSTAT shows. -/
  flushing : Bool := false
  /-- The three copies of the dirty hint of each capacity line, where one of them is set (R384, R401). -/
  hints : Tbl (BitVec 3) := []
  /-- Writes of engines, of messages and of lock holders that are held at the old home of their frames (R394): the number of what writes, and
  where. -/
  held : List (Nat × Nat) := []
  /-- MEMCFG.CACHE as the last cold reset took it, before R399's check of it (R390, R399). -/
  askedCache : Nat := 0
  deriving DecidableEq, Repr

/-! ### Security (14_security.md) -/

/-- Sealed code of a protected context (R423): its range and the physical address of each 64 KiB page. -/
structure CodeSeal where
  ctx : Nat
  base : Nat
  bytes : Nat
  pages : List Nat
  deriving DecidableEq, Repr

/-- A range of a teardown scrub (R431): bytes of a core's scratchpad, physical tiles of a core, registers of a core (only counted:
no team holds them any more), or a frame of memory. -/
inductive ScrubRange where
  | regs (core bytes : Nat)
  | tiles (core : Nat) (phys : List Nat)
  | spad (core base bytes : Nat)
  | frame (n : Nat)
  deriving DecidableEq, Repr

/-- A scrub (R431, R432, R407): its context and world, and its ranges still to do, with the units done. The reset scrub has
context 0. -/
structure Scrub where
  ctx : Nat
  world : Nat
  ranges : List ScrubRange
  /-- All its ranges, from which it starts again after a reset (R434). -/
  all : List ScrubRange
  total : Nat
  done : Nat
  reset : Bool
  /-- Units of its first range already written. -/
  at_ : Nat := 0
  deriving DecidableEq, Repr

/-- A protected context's own state at the security controller (R421, R425, R428): FABRIC and CODEMUT stand in its context. -/
structure Prot where
  codeBase : Nat
  codeBytes : Nat
  measure : List Byte
  /-- The context counter. -/
  counter : Nat
  /-- The value recorded for each frame slot. -/
  slots : Tbl Nat
  /-- The frame last written to each slot, and its plaintext (R428, R429): what the tag stands for. -/
  frames : Tbl (List Byte × List Byte)
  deriving DecidableEq, Repr

/-- A command of the security sequencer that has not finished (R418, R419). -/
inductive SecJob where
  /-- DBGUNLOCK waits for the scrubs (R436). -/
  | unlock
  /-- SAVE of a context's teams (R419). -/
  | save (ctx : Nat)
  deriving DecidableEq, Repr

/-- A message on the network between two ports, encrypted (R414). -/
structure NetMsg where
  src : Nat
  dst : Nat
  world : Nat
  number : Nat
  body : List Byte
  tag : List Byte
  deriving DecidableEq, Repr

/-- The security state (R404 to R438). -/
structure Security where
  mode : Nat
  next : Nat
  dbg : Nat
  /-- The firewall matrix, row a at position a (R410). -/
  fwmat : List (BitVec 16)
  /-- Owner world of each frame that is not owned by world 1 (R408). -/
  owner : Tbl Nat
  /-- Sealed code of protected contexts (R423). -/
  codeSeals : List CodeSeal
  /-- Key slots that hold a key: the number of the random draw that made it (R415). -/
  keys : Tbl Nat := []
  keyGen : Nat := 0
  /-- SECARG0 to SECARG3, SECRESP and SECSTAT (R418). -/
  args : List DWord := List.replicate 4 0
  /-- SECARG0 to SECARG3 as they stood when the command was written, at which it commits (R418). -/
  runArgs : List DWord := List.replicate 4 0
  resp : DWord := 0
  result : Nat := 0
  done : Bool := false
  job : Option SecJob := none
  /-- The command written to SECCMD and not yet taken (R418). -/
  cmd : Option Nat := none
  /-- The RESULT of that command as it was judged when it committed, and the Live protected context that it named then (R418). -/
  verdict : Nat := 0
  judged : Option (Ctx × Prot) := none
  /-- DBGNONCE0 and DBGNONCE1 (R435). -/
  nonce0 : DWord := 0
  nonce1 : DWord := 0
  prot : Tbl Prot := []
  /-- Scrubs, the running one first, and whether it runs (R432). -/
  scrubs : List Scrub := []
  scrubbing : Bool := false
  /-- Scrubs carried across a reset, or the reset scrub, have not ended (R434). -/
  hold : Bool := false
  /-- The digest of the running firmware image (R427), and the frames that hold firmware state (R408). -/
  fwDigest : List Byte := []
  fwFrames : List Nat := []
  /-- Units of the last scrub, as SCRUBPROG keeps them after its end. -/
  lastTotal : Nat := 0
  /-- Firmware security version of the running firmware, and its floor (R437). -/
  version : Nat := 0
  /-- The next number on each flow: source port, destination port and world (R414). -/
  flows : List ((Nat × Nat × Nat) × Nat) := []
  /-- The number that the sender of each flow gives its next message, and the messages that are under way (R414). -/
  sends : List ((Nat × Nat × Nat) × Nat) := []
  wire : List NetMsg := []
  deriving DecidableEq, Repr

/-! ### Host link, reset and bring-up (15_host.md) -/

/-- The Cledel link, the reset block and the islands block (R441 to R452). -/
structure HostRegs where
  /-- CLDSTAT and CLDERR. -/
  refused : Nat
  ver : BitVec 8
  lanes : BitVec 8
  link : Nat
  chg : Bool
  errLine : Nat
  errWrite : Bool
  errWorld : Nat
  /-- BUSTAT. -/
  cladm : BitVec 16
  clfail : BitVec 16
  cause : Nat
  stage : Nat
  /-- The load block in use, while stage 1 lasts. -/
  loadAt : Nat
  /-- Accesses of the companion held until MEMSTAT.READY (R442), and the answers to reads: none for an error response. -/
  heldAcc : List CompAccess
  answers : List (Option (List Byte))
  /-- The cluster that a CLRET retirement takes out, while it runs; and clusters so retired (R446, R452). -/
  retiring : Option Nat
  retiredCl : BitVec 16
  /-- Clusters in self-test after READMIT (R452). -/
  retesting : BitVec 16 := 0
  /-- MEMCFG.NEXTCACHE as it stood before an RSTCTL.COLD (R444). -/
  prevCache : Nat := 0
  deriving DecidableEq, Repr

/-! ### The machine -/

/-- A thing the scheduler of the model does next: which partition issues, which blocked group is looked at again, which event
happens, what the companion writes, what arrives from outside, or what a cache drops. The spec leaves these choices open. -/
inductive Act where
  /-- Partition `part` of core `core` issues (R131). With `late`, the scratchpad accesses of the instruction are performed later (R109). -/
  | issue (core part : Nat) (late : Bool := false)
  /-- A blocked or spinning group looks at its condition again. -/
  | retry (r : GRef)
  | event (i : Instr)
  /-- The companion stores bytes in its own memory. -/
  | compStore (addr : Nat) (bytes : List Byte)
  /-- A message of another rank reaches the device. -/
  | deliver (m : Msg)
  /-- The answer to a message of this rank comes back. -/
  | reply (msg : Nat) (data : List Byte) (status : Nat)
  /-- A pilot's firmware, or the plan of a collective, stores into its memory (R312). -/
  | pilotStore (plan : Option Nat) (pilot addr : Nat) (bytes : List Byte)
  /-- The plan of a collective loads bytes from its pilot's memory, or executes them (R312). -/
  | pilotLoad (coll pilot addr n : Nat) (exec : Bool)
  /-- A LOAD or an ENDINV of the chart ends (R295). -/
  | rchDone
  /-- The sensors of an island report (R451). -/
  | sensors (island : Nat) (temp power : BitVec 16)
  /-- A port corrects a link error (R303). -/
  | linkError (port : Nat)
  /-- The pilots of a collective read and check the own source (R320). -/
  | collRead (coll : Nat)
  /-- A port sends a message of a world to another port (R414). -/
  | netSend (src dst world : Nat) (msg : List Byte)
  /-- The scrub engine writes up to `n` more units of 4 KiB (R432). -/
  | scrub (n : Nat)
  /-- What another participant brings to a collective: the bytes of its descriptor that all share (R316), and its source (R319). -/
  | collPeer (coll k : Nat) (shared : List Byte) (src : List Nat)
  /-- The pilots of a shipped plan form the result and send it to the destination (R319). -/
  | collPlace (coll : Nat)
  /-- Another participant halts a collective, at an element (R312, R318, R320). -/
  | collHalt (coll k index : Nat)
  /-- An access meets an error in the line at a physical address, of kind 0 to 5 in the low seven bits (R384, R385, R400, R402). -/
  | memError (line : Nat)
  /-- The `k`-th 32-bit element of the `n`-th register that an outstanding instruction writes lands before its completion point (R80). -/
  | land (op n k : Nat)
  /-- The result of an outstanding QTAKE, QSTEAL, GLAUNCH or COLLWAIT is there, and can land before its completion point (R80). -/
  | form (op : Nat)
  /-- A request's `k`-th unit is performed before the others: the accesses of one instruction are unordered (R101). -/
  | part (req k : Nat)
  /-- An outstanding store takes the `j`-th 32-bit element of its `k`-th unit from its source register as it stands now (R80). -/
  | reread (id k j : Nat)
  /-- A copy that is executing places up to `n` more elements (R238). -/
  | copyMove (copy n : Nat)
  /-- A line of an L1, a partial or a TLB entry is dropped. -/
  | evictL1 (core line : Nat)
  | evictPartial (n : Nat)
  | evictTlb (n : Nat)
  | idle
  deriving DecidableEq, Repr

/-- One entry of the schedule: reference cycles that pass, then the act. -/
structure Turn where
  dt : Nat
  act : Act
  deriving DecidableEq, Repr

/-- A voltage and frequency island (R451): its clock, and reference cycles times MHz counted since the last reset. -/
structure Island where
  mhz : Nat
  acc : Nat
  /-- 0 off; 1 running; 2 capped; 3 retired. -/
  state : Nat := 0
  /-- What its sensors last gave. -/
  temp : BitVec 16 := 0
  power : BitVec 16 := 0
  /-- The clock in MHz that firmware holds it to. -/
  limit : Nat := 1900
  deriving DecidableEq, Repr

/-- The machine. -/
structure State where
  /-- The group that an instruction acts on. -/
  cur : Option GRef
  /-- What happens next: the model's own field. -/
  sched : List Turn
  /-- The scratchpad accesses of the instruction that issues are performed later, at turns of their own: the model's own field. -/
  late : Bool
  /-- Free values drawn so far: the model's own field. -/
  free : Nat
  /-- Next number for an outstanding thing: the model's own field. -/
  nextId : Nat
  /-- Reference cycles since the last cold reset (R90). -/
  ref : Nat
  /-- Clock islands (R451). -/
  islands : Tbl Island
  /-- HBM4 and the capacity tier, by physical address (R205). -/
  mem : Memory
  /-- Scratchpads: core * 2^21 + offset (R27). -/
  spad : Memory
  /-- Tile memory: core * 393,216 + tile * 24,576 + offset (R262). -/
  tmem : Memory
  /-- Companion memory (R344). -/
  comp : Memory
  parts : Tbl Part
  bars : Tbl Barrier
  dbg : Debug
  ops : Tbl Op
  reqs : Tbl Req
  contribs : Tbl Contrib
  streams : List Stream
  l1 : Tbl L1Word
  /-- The core that owns each word, by word address (R107). -/
  wordOwner : Tbl Nat
  partials : List Partial
  tlb : List TlbEntry
  xlat : Xlat
  locks : Tbl Lock
  ctxs : Tbl Ctx
  teams : Tbl Team
  grids : Tbl Grid
  msgs : Tbl Msg
  copies : Tbl Copy
  tokens : Tbl Token
  tileOps : Tbl TileOp
  passes : Tbl Pass
  drains : Tbl Drain
  /-- Team slot whose drain each core's TEP ran last (R280). -/
  tepLast : Tbl Nat
  /-- Team slot whose queue head each core's copy engine started last (R232). -/
  copyLast : Tbl Nat
  /-- MXCAL: array calibration has completed since the reset (R269, R450). -/
  mxcal : Bool
  te : TaskEngine
  fab : Fabric
  stk : Stacks
  sec : Security
  hst : HostRegs
  deriving DecidableEq, Repr

/-- Why a step stops. -/
inductive Fault where
  /-- Raised by every instruction that a group issues, when no group is issuing (`State.cur` is none): the spec gives such an
  instruction no effect, for there is no machine step without a group. Safe. -/
  | noIssuingGroup
  deriving DecidableEq, Repr

/-- Why an instruction has no meaning here. -/
inductive Refusal where
  /-- Raised by a dispatch arm whose instruction the model does not have. Safe. -/
  | notModelled (mnemonic : String)
  deriving DecidableEq, Repr


/-! ### Reset -/

/-- The 40 islands at reset: off, with no clock (R451). -/
def resetIslands : Tbl Island := (List.range 40).map fun i => (i, { mhz := 0, acc := 0 })

/-- A port at reset (R303). -/
def resetPort : Port := ⟨0xF, false, false, false, 0, 0, 0, false, 0, false, 0, false⟩

/-- A port pilot at reset (R315). -/
def resetPilot : Pilot := ⟨0, false, false, 0, false, [], List.replicate 8 none, []⟩

/-- A stack at power-on (R381, R382). -/
def resetStack : Stack := ⟨0, 0, 0, 0, 0, false, false, 0, [], 0, 0, 0⟩

/-- The memory stacks at power-on: none trained; COMPASS, MEMCAP unset until bring-up (R381, R390). -/
def resetStacks : Stacks :=
  ⟨List.replicate 12 resetStack, 0, 0, 0, 0, 0, 0, 0, 0, 0, [], false, false, 0, false, 0, 0, 0, [], [], [], false, 0, 0, 0, false, 0, false, [], [], 0⟩

/-- The machine right after power-on (R443): every register at its reset value. -/
def State.reset : State where
  cur := none
  sched := []
  late := false
  free := 0
  nextId := 1
  ref := 0
  islands := resetIslands
  mem := []
  spad := []
  tmem := []
  comp := []
  parts := []
  bars := []
  dbg := ⟨0, false, 0, 0, false, false, false, false, false⟩
  ops := []
  reqs := []
  contribs := []
  streams := []
  l1 := []
  wordOwner := []
  partials := []
  tlb := []
  xlat := ⟨0, 0, 0, false, false, 0, 0, 0, [], 0, 0, []⟩
  locks := []
  ctxs := []
  teams := []
  grids := []
  msgs := []
  copies := []
  tokens := []
  tileOps := []
  passes := []
  drains := []
  tepLast := []
  copyLast := []
  mxcal := false
  te := ⟨[], [], [], [], [], 0, 0, 0⟩
  fab := ⟨false, false, [], List.replicate 40 resetPort, List.replicate 40 resetPilot, [], [], [], [], 0, none, 0, 0, false, [], none, []⟩
  stk := resetStacks
  sec := { mode := 0, next := 0, dbg := 0, fwmat := [], owner := [], codeSeals := [] }
  hst := ⟨0, 0, 0, 0, false, 0, false, 0, 0, 0, 0, 0, 0, [], [], none, 0, 0, 0⟩

end Sys2Proof.Machine
end

