-- ==== Sys2Proof/Machine/Regs.lean ====
section
/-! DEFINITION. Reading and writing registers: the one place for the registers that the spec hard-wires (01_machine.md R33,
R34; 03_encoding.md R66), and the access paths from the machine to its teams and groups. -/
namespace Sys2Proof

/-- Bit L of a mask. -/
def Mask.bit (m : Mask) (l : Nat) : Bool := m.getLsbD l

/-- A mask from a condition on lanes. -/
def Mask.build (f : Nat → Bool) : Mask :=
  (List.range 96).foldl (fun m l => if f l then m ||| (1#96 <<< l) else m) 0#96

/-- The lanes of a mask, ascending. -/
def Mask.lanes (m : Mask) : List Nat := (List.range 96).filter m.bit

/-- Number of lanes of a mask. -/
def Mask.count (m : Mask) : Nat := m.lanes.length

/-- All 96 lanes. -/
def Mask.all : Mask := BitVec.allOnes 96

end Sys2Proof

namespace Sys2Proof.Machine
open Sys2Proof

/-- The Cledel link is up (R441): accesses cross it. -/
def State.linkUp (s : State) : Bool := s.hst.link = 2 || s.hst.link = 3

/-- A write of a register, or anything else that reads the companion's memory, takes place only while the link is up (R441). -/
def viaLink (s : State) (o : Host.Outcome State Fault Refusal) : Host.Outcome State Fault Refusal := if s.linkUp then o else .next s

/-- A vector register whose lane L is `f L`. -/
def VReg.build (f : Nat → Word) : VReg := ⟨((List.range 96).map f).toArray, by simp⟩

/-- A vector register of zeros. -/
def VReg.zero : VReg := Vector.replicate 96 0

/-- Lane L of a vector register. -/
def VReg.lane (v : VReg) (l : Nat) : Word := v[l]?.getD 0

/-- Lanes of `m` take `f`, the others stay. -/
def VReg.upd (v : VReg) (m : Mask) (f : Nat → Word) : VReg :=
  VReg.build fun l => if m.bit l then f l else v.lane l

/-! ### Registers of a group -/

/-- s[r]: s63 reads zero (R33). -/
def Group.s (g : Group) (r : Nat) : DWord := if r = 63 then 0 else g.sreg[r]?.getD 0

/-- The 32 lanes of s60, s61 or s62 that have exited. -/
def Group.exitedPart (g : Group) (r : Nat) : Word := g.exited.extractLsb' (32 * (r - 60)) 32

/-- Writes s[r]: s63 ignores it; s60 to s62 keep [31:0], and a lane that has exited stays zero (R33, R34). -/
def Group.setS (g : Group) (r : Nat) (x : DWord) : Group :=
  { g with sreg :=
      if r = 63 then g.sreg
      else if 60 ≤ r then g.sreg.setIfInBounds r ((x.extractLsb' 0 32 &&& ~~~(g.exitedPart r)).zeroExtend 64)
      else g.sreg.setIfInBounds r x }

/-- The activity mask (R33). -/
def Group.mask (g : Group) : Mask :=
  (g.s 62).extractLsb' 0 32 ++ (g.s 61).extractLsb' 0 32 ++ (g.s 60).extractLsb' 0 32

/-- Sets the activity mask; lanes that have exited stay zero (R34). -/
def Group.setMask (g : Group) (m : Mask) : Group :=
  { g with sreg := (((g.setS 60 ((m.extractLsb' 0 32).zeroExtend 64)).setS 61 ((m.extractLsb' 32 32).zeroExtend 64)).setS 62
      ((m.extractLsb' 64 32).zeroExtend 64)).sreg }

/-- v[r]. -/
def Group.v (g : Group) (r : Nat) : VReg := g.vreg[r]?.getD VReg.zero

/-- Writes the lanes `m` of v[r]. -/
def Group.setV (g : Group) (r : Nat) (m : Mask) (f : Nat → Word) : Group :=
  { g with vreg := g.vreg.setIfInBounds r ((g.v r).upd m f) }

/-- p[r]: p0 reads all ones (R33). -/
def Group.p (g : Group) (r : Nat) : Mask := if r = 0 then Mask.all else g.preg[r]?.getD 0

/-- Writes p[r]: p0 ignores it (R33). -/
def Group.setP (g : Group) (r : Nat) (m : Mask) : Group :=
  { g with preg := if r = 0 then g.preg else g.preg.setIfInBounds r m }

/-- The outstanding count of a flag. -/
def Group.flagCount (g : Group) (n : Nat) : Nat := (g.flag[n]?.getD 0).toNat

/-- Sets the outstanding count of a flag. -/
def Group.setFlag (g : Group) (n : Nat) (k : Nat) : Group :=
  { g with flag := g.flag.setIfInBounds n (BitVec.ofNat 6 k) }

/-- %flags (R89). -/
def Group.flags (g : Group) : DWord :=
  (List.range 12).foldl (fun x n => if g.flagCount n = 0 then x else x ||| (1#64 <<< n)) 0#64

/-- The lanes a guard selects, whatever the activity mask: p[PG] xor PN (R66). -/
def Group.guard (g : Group) (pg : BitVec 3) (pn : BitVec 1) : Mask :=
  if pn = 1 then ~~~(g.p pg.toNat) else g.p pg.toNat

/-- Sel(L): the lanes that execute (R66, R162). -/
def Group.sel (g : Group) (f : FmtBR) : Mask := g.mask &&& g.guard f.pg f.pn

/-- A register value with its `k`-th 32-bit element replaced. -/
def setWord {w : Nat} (x : BitVec w) (k : Nat) (v : Word) : BitVec w :=
  (x &&& ~~~((BitVec.allOnes 32).zeroExtend w <<< (32 * k))) ||| (v.zeroExtend w <<< (32 * k))

/-- Applies what an instruction writes at its completion point. -/
def Group.apply (g : Group) (w : RegWrite) : Group :=
  match w with
  | .v r l x => { g with vreg := g.vreg.setIfInBounds r ((g.v r).setIfInBounds l x) }
  | .s r x => g.setS r x
  | .p r m => g.setP r m
  | .sWord r k x => g.setS r (setWord (g.s r) k x)
  | .pWord r k x => g.setP r (setWord (g.p r) k x)

/-- The 32-bit elements of a register write (R80). -/
def RegWrite.elements : RegWrite → List RegWrite
  | .s r x => [.sWord r 0 (x.extractLsb' 0 32), .sWord r 1 (x.extractLsb' 32 32)]
  | .p r m => [.pWord r 0 (m.extractLsb' 0 32), .pWord r 1 (m.extractLsb' 32 32), .pWord r 2 (m.extractLsb' 64 32)]
  | w => [w]

/-- Applies a list of writes in order. -/
def Group.applyAll (g : Group) (ws : List RegWrite) : Group := ws.foldl Group.apply g

/-! ### The machine's teams and groups -/

/-- The team of a key. -/
def State.team? (s : State) (k : Nat) : Option Team := s.teams.get? k

/-- A group. -/
def State.group? (s : State) (r : GRef) : Option Group :=
  match s.team? r.team with
  | some t => t.groups[r.grp]?
  | none => none

/-- Stores a team. -/
def State.putTeam (s : State) (k : Nat) (t : Team) : State := { s with teams := s.teams.put k t }

/-- Changes a team. -/
def State.updTeam (s : State) (k : Nat) (f : Team → Team) : State := { s with teams := s.teams.upd k f }

/-- Changes a group. -/
def State.updGroup (s : State) (r : GRef) (f : Group → Group) : State :=
  s.updTeam r.team fun t => { t with groups := listUpd t.groups r.grp f }

/-- Stores a group. -/
def State.putGroup (s : State) (r : GRef) (g : Group) : State := s.updGroup r fun _ => g

/-- A context. -/
def State.ctx? (s : State) (c : Nat) : Option Ctx := s.ctxs.get? c

/-- Changes a context. -/
def State.updCtx (s : State) (c : Nat) (f : Ctx → Ctx) : State := { s with ctxs := s.ctxs.upd c f }

/-- The partition state of a core's partition. -/
def State.part (s : State) (core p : Nat) : Part := (s.parts.get? (core * 8 + p)).getD ⟨none, none, [], 0, 0⟩

/-- Stores a partition's state. -/
def State.putPart (s : State) (core p : Nat) (x : Part) : State := { s with parts := s.parts.put (core * 8 + p) x }

/-- The core of a team: its own while it is resident. -/
def Team.coreN (t : Team) : Nat := t.core.getD 0

/-- The partition of group `i` of a team (R13). -/
def Team.partOf (t : Team) (i : Nat) : Nat := (t.part + i) % 8

/-- The cluster of a core and its C-die (R10). -/
def clusterOf (core : Nat) : Nat := core / 8
/-- The C-die of a core (R10). -/
def dieOf (core : Nat) : Nat := core / 64

/-- A fresh number for an outstanding thing. -/
def State.fresh (s : State) : Nat × State := (s.nextId, { s with nextId := s.nextId + 1 })

/-- Draws a free value. -/
def State.drawFree (s : State) : BitVec 128 × State := (Config.freeValue s.free, { s with free := s.free + 1 })

end Sys2Proof.Machine
end

