-- ==== Sys2Proof/Machine/CollDesc.lean ====
section
/-! DEFINITION. The descriptor of a collective (10_fabric.md R316, R317): its fields, its elements and its buffers. -/
namespace Sys2Proof.Machine
open Sys2Proof

/-- The fields of a descriptor (R317). -/
structure CollDesc where
  slot : Nat
  op : Nat
  ty : Nat
  red : Nat
  n : Nat
  src : DWord
  dst : DWord
  first : Nat
  parts : Nat
  stride : Nat
  root : Nat
  counter : DWord
  zeros : Bool
  deriving DecidableEq, Repr

/-- The fields of 128 descriptor bytes. -/
def CollDesc.parse (b : List Byte) : CollDesc :=
  let n (o k : Nat) := bytesNum b o k
  { slot := n 2 1, op := n 3 1, ty := n 4 1, red := n 5 1, n := n 8 8, src := BitVec.ofNat 64 (n 0x10 8),
    dst := BitVec.ofNat 64 (n 0x18 8), first := n 0x20 4, parts := n 0x24 4, stride := n 0x28 4, root := n 0x2C 4,
    counter := BitVec.ofNat 64 (n 0x30 8), zeros := n 0 2 = 1 && n 6 2 = 0 && n 0x78 8 = 0 }

/-- The bytes that every participant must share: +0x00 to +0x0F and +0x20 to +0x2B (R316). -/
def sharedBytes (b : List Byte) : List Byte := b.take 16 ++ (b.drop 32).take 12

/-- Bytes of an element. -/
def CollDesc.esize (d : CollDesc) : Nat := match d.ty with | 0 => 4 | 1 => 2 | 2 => 4 | _ => 8

/-- Bytes of an element buffer of `k` times N elements. -/
def CollDesc.bytes (d : CollDesc) (k : Nat) : Nat := d.n * k * d.esize

/-- Bytes of the source. -/
def CollDesc.srcBytes (d : CollDesc) : Nat := d.bytes 1

/-- Bytes of the destination: an all-gather receives N elements from each participant. -/
def CollDesc.dstBytes (d : CollDesc) : Nat := d.bytes (if d.op = 2 then d.parts else 1)

end Sys2Proof.Machine
end

