-- ==== Sys2Proof/Machine/L1.lean ====
section
/-! DEFINITION. What the homes and the L1s of the cores hold of a word beside memory: update-only partials and words changed under a lock
(07_load_store.md R201, R216, R225), and the bytes that a reader at the home finds. -/
namespace Sys2Proof.Machine
open Sys2Proof

/-! ### Integer operations of ATOM and RED (R213, R215) -/

/-- The signed value of a `bits`-wide number. -/
def signedOf (bits x : Nat) : Int := if x < 2 ^ (bits - 1) then (x : Int) else (x : Int) - 2 ^ bits

/-- The smaller of two `bits`-wide numbers, signed or natural. -/
def minOf (bits : Nat) (nat : Bool) (a b : Nat) : Nat :=
  if nat then min a b else if signedOf bits a ≤ signedOf bits b then a else b

/-- The larger of two `bits`-wide numbers, signed or natural. -/
def maxOf (bits : Nat) (nat : Bool) (a b : Nat) : Nat :=
  if nat then max a b else if signedOf bits a ≤ signedOf bits b then b else a

/-- RED SUB 0 to 5 on numbers of `bytes` bytes (R215): add, min, max, and, or, xor. -/
def redOp (sub : Nat) (nat : Bool) (bytes : Nat) (a b : Nat) : Nat :=
  let bits := 8 * bytes
  match sub with
  | 0 => (a + b) % 2 ^ bits
  | 1 => minOf bits nat a b
  | 2 => maxOf bits nat a b
  | 3 => a &&& b
  | 4 => a ||| b
  | _ => a ^^^ b

/-- The identity of a RED operation (R216). -/
def redIdentity (sub : Nat) (nat : Bool) (bytes : Nat) : Nat :=
  let bits := 8 * bytes
  match sub with
  | 1 => if nat then 2 ^ bits - 1 else 2 ^ (bits - 1) - 1
  | 2 => if nat then 0 else 2 ^ (bits - 1)
  | 3 => 2 ^ bits - 1
  | _ => 0

/-! ### The capacity-tier cache (R399 to R401) -/

/-- Sets of the capacity-tier cache (R399). -/
def Stacks.sets (m : Stacks) : Nat := 2 ^ 29 * m.cache

/-- Sets of the capacity-tier cache (R399). -/
def State.cacheSets (s : State) : Nat := s.stk.sets

/-- A capacity-tier access passes through the cache (R400): the set takes the line, dirty after a write; the dirty hint is set before that, and
cleared once an evicted line has been written back (R401). The data of a line is
the same wherever it stands, so memory holds it once, under its capacity-tier address. -/
def Stacks.touch (m : Stacks) (write : Bool) (pa : Nat) : Stacks :=
  if pa < 2 ^ 40 || m.cache = 0 || m.bypass then m
  else
    let c := (pa - 2 ^ 40) / 128
    let set := c % m.sets
    let tag := c / m.sets
    let old := m.lines.get? set
    let line : CacheLine := match old with
      | some l => if l.tag = tag then ⟨tag, l.dirty || write⟩ else ⟨tag, write⟩
      | none => ⟨tag, write⟩
    let kept := match old with
      | some l => if l.tag ≠ tag && l.dirty then m.hints.del (l.tag * m.sets + set) else m.hints
      | none => m.hints
    { m with lines := m.lines.put set line, hints := if write then kept.put c 7 else kept }

/-- One access of the machine to capacity-tier memory (R400). -/
def State.cacheTouch (s : State) (pa : Nat) (write : Bool) : State := { s with stk := s.stk.touch write pa }

/-! ### Partials (R201, R216) -/

/-- Two byte ranges overlap. -/
def overlaps (a n b m : Nat) : Bool := a < b + m && b < a + n

/-- The home combines every registered partial that the range touches into its unit, a write of the unit, and clears the registrations. -/
def State.combinePartials (s : State) (pa n : Nat) : State :=
  let hit := s.partials.filter fun p => overlaps p.addr p.bytes pa n
  let mem := hit.foldl (fun m p =>
    m.writeN p.addr (leBytes p.bytes (redOp p.sub p.nat p.bytes (m.num p.addr p.bytes) p.value))) s.mem
  { s with mem := mem, stk := (hit.map (·.addr)).foldl (fun m a => m.touch true a) s.stk,
           partials := s.partials.filter fun p => !overlaps p.addr p.bytes pa n }

/-- The partials that satisfy a condition are combined into their units. -/
def State.flushPartials (s : State) (p : Partial → Bool) : State :=
  (s.partials.filter p).foldl (fun s x => s.combinePartials x.addr x.bytes) s

/-! ### L1 words (R201) -/

/-- Key of an L1 word: its core and its physical word address. -/
def l1Key (core pa : Nat) : Nat := 2 ^ 40 * core + pa / 4

/-- The word addresses that a range touches. -/
def wordsOf (pa n : Nat) : List Nat := (List.range ((pa + n + 3) / 4 - pa / 4)).map (pa / 4 + ·)

/-- A core's L1 state of the word at a physical address. -/
def State.l1At (s : State) (core pa : Nat) : Option L1Word := s.l1.get? (l1Key core pa)

/-- Words of a range that their owner has changed under a lock are written back; the owner keeps them (R225). -/
def State.flushOwner (s : State) (pa n : Nat) : State :=
  (wordsOf pa n).foldl (fun s w =>
    match s.wordOwner.get? w with
    | none => s
    | some c =>
      match s.l1.get? (l1Key c (4 * w)) with
      | some (.d x) =>
        { s with mem := s.mem.writeN (4 * w) (leBytes 4 x.toNat), stk := s.stk.touch true (4 * w), l1 := s.l1.put (l1Key c (4 * w)) .o }
      | _ => s) s

/-- What the home does before it serves a range: changed words come back, and partials are combined. -/
def State.combine (s : State) (pa n : Nat) : State := (s.flushOwner pa n).combinePartials pa n

/-- The bytes of a range at the home. -/
def State.homeBytes (s : State) (pa n : Nat) : List Byte := (s.combine pa n).mem.readN pa n

/-- A little-endian number at the home: what an engine that reads memory finds (R102). -/
def State.homeNum (s : State) (pa n : Nat) : Nat := leNat (s.homeBytes pa n)

end Sys2Proof.Machine
end

