-- ==== Sys2Proof/Machine/Xlate.lean ====
section
/-! DEFINITION. From an address to the bytes: the address forms of 01_machine.md R26 to R29, translation (07_load_store.md R202
to R205), the checks of R196 and the firewall (14_security.md R408 to R411). -/
namespace Sys2Proof.Machine
open Sys2Proof

/-- What an access does, for the permission checks. -/
inductive Acc where
  | read | write | fetch
  deriving DecidableEq, Repr

/-- Why an access cannot be made: a fault with the level of R204 (0 where there is none), or a page that is not present. -/
inductive MemErr where
  | fault (c : FaultCode) (level : Nat)
  | missing
  deriving DecidableEq, Repr

/-! ### Physical memory (R205, R386, R396, R399) -/

/-- What stands at a physical address. -/
inductive PhysKind where
  | hbm | retired | cacheHeld | cap | none
  deriving DecidableEq, Repr

/-- HBM4 below MEMCAP that the cache does not hold (R399). While a retirement flushes the cache, MEMCAP has dropped already and
CACHE has not (R392, R403). -/
def Stacks.flat (m : Stacks) : Nat := m.memcap - 2 ^ 36 * (if m.flushing then m.cache - 1 else m.cache)

/-- The map of R205, with the retired range of R396. -/
def State.physKind (s : State) (pa : Nat) : PhysKind :=
  if pa < s.stk.flat then .hbm
  else if pa < s.stk.memcap then .cacheHeld
  else if pa < 0xC000000000 then (if s.stk.retired then .retired else .none)
  else if pa / 2 ^ 40 = 1 then .cap
  else .none

/-- The 2 MiB frame of a physical address, numbered as FRAMEQ numbers them (R387). -/
def frameOf (pa : Nat) : Nat := if pa < 2 ^ 40 then pa / 2 ^ 21 else 0x80000 + (pa - 2 ^ 40) / 2 ^ 21

/-- The owner world of a physical address (R408). -/
def State.ownerWorld (s : State) (pa : Nat) : Nat := (s.sec.owner.get? (frameOf pa)).getD 1

/-- World of a context: 0 where there is none (R408). -/
def State.ctxWorld (s : State) (ctx : Nat) : Nat := ((s.ctx? ctx).map (·.world)).getD 0

/-- The firewall permits world `a` a target of world `b` (R410). -/
def State.permits (s : State) (a b : Nat) : Bool := (s.sec.fwmat[a]?.getD 0).getLsbD b

/-- The line is lost, or its frame is fenced (R386). -/
def State.isLost (s : State) (pa : Nat) : Bool :=
  s.stk.lost.any (fun l => l.line = pa / 128 * 128) || s.stk.fenced.contains (frameOf pa)

/-! ### The page walk (R203, R204) -/

/-- What an access leaves behind it: an entry for a TLB (R202), or a line of the capacity tier that has passed through the cache (R400). -/
inductive Found where
  | entry (e : TlbEntry)
  | line (pa : Nat)
  deriving DecidableEq, Repr

/-- A read of capacity-tier memory, as it will pass through the cache (R400). -/
def State.readLine (s : State) (pa : Nat) : List Found := if pa < 2 ^ 40 || s.stk.cache = 0 then [] else [.line pa]

/-- A leaf that a walk found. -/
structure Leaf where
  va : Nat
  size : Nat
  phys : Nat
  nc : Bool
  eo : Bool
  x : Bool
  w : Bool
  level : Nat
  deriving DecidableEq, Repr

/-- The index bits of a level: low bit and count (R204). -/
def levelBits : Nat → Nat × Nat
  | 4 => (48, 8)
  | 3 => (39, 9)
  | 2 => (30, 9)
  | 1 => (21, 9)
  | _ => (16, 5)

/-- Entry of a level of the walk: a leaf, or the table of the next level (R204). -/
def State.walkEntry (s : State) (va tbl lv : Nat) (last : Bool) : Except MemErr (Sum Leaf Nat) :=
  let (lo, n) := levelBits lv
  let ea := tbl + 8 * (va / 2 ^ lo % 2 ^ n)
  match s.physKind ea with
  | .retired => .error (.fault .addrRetired 0)
  | .cacheHeld | .none => .error (.fault .pageProt lv)
  | _ =>
    if s.isLost ea then .error (.fault .dataLost 0)
    else
      let e := s.homeNum ea 8
      if !bitAt e 0 then .error .missing
      else
        let leaf := bitAt e 1
        let w := bitAt e 2
        let x := bitAt e 3
        let eo := bitAt e 4
        let nc := bitAt e 5
        let addr := e / 2 ^ 12 % 2 ^ 36 * 2 ^ 12
        if bitsOf e 11 6 ≠ 0 || bitsOf e 63 48 ≠ 0 then .error (.fault .pageProt lv)
        else if leaf then
          if 3 ≤ lv || addr % 2 ^ lo ≠ 0 then .error (.fault .pageProt lv)
          else .ok (.inl { va := va / 2 ^ lo * 2 ^ lo, size := 2 ^ lo, phys := addr, nc := nc, eo := eo, x := x, w := w, level := lv })
        else if nc || eo || x || w || last then .error (.fault .pageProt lv)
        else .ok (.inr addr)

/-- A walk from a table, through the levels given, in world 0 (R204, R408). DESIGN CHOICE (log entry 97): no rule says what a walk does whose table
entry stands in no memory, or in HBM4 that the cache holds; it raises PAGE_PROT with that level. -/
def State.walk (s : State) (va tbl : Nat) : List Nat → Except MemErr Leaf
  | [] => .error (.fault .pageProt 0)
  | lv :: rest =>
    match s.walkEntry va tbl lv rest.isEmpty with
    | .error e => .error e
    | .ok (.inl l) => .ok l
    | .ok (.inr next) => State.walk s va next rest

/-- The table entries that a walk read in the capacity tier (R204, R400). -/
def State.walkLines (s : State) (va tbl : Nat) : List Nat → List Found
  | [] => []
  | lv :: rest =>
    let ea := tbl + 8 * (va / 2 ^ (levelBits lv).1 % 2 ^ (levelBits lv).2)
    let e := s.homeNum ea 8
    s.readLine ea ++ if bitAt e 0 && !bitAt e 1 then State.walkLines s va (e / 2 ^ 12 % 2 ^ 36 * 2 ^ 12) rest else []

/-- The code-seal rules on a leaf found for a protected context: the leaf must be the recorded one, with EO (R423). -/
def State.codeSealBad (s : State) (ctx va : Nat) (l : Leaf) : Bool :=
  s.sec.codeSeals.any fun c =>
    c.ctx = ctx && c.base ≤ va && va < c.base + c.bytes
    && (!l.eo || c.pages[(va - c.base) / 2 ^ 16]? ≠ some (l.phys + (va - l.va) / 2 ^ 16 * 2 ^ 16))

/-- A TLB entry of a place for a page (R202). -/
def tlbHit (tlb : List TlbEntry) (loc ctx va : Nat) : Option TlbEntry :=
  tlb.find? fun e => e.loc = loc && e.ctx = ctx && e.va ≤ va && va < e.va + e.size

/-- Translation: core TLB, cluster TLB, walk (R202). `core` none is the engine that walks on its own. Answers the leaf and what it leaves. -/
def State.findLeaf (s : State) (core : Option Nat) (ctx va : Nat) : Except MemErr (Leaf × List Found) :=
  let toLeaf (e : TlbEntry) : Leaf := ⟨e.va, e.size, e.phys, e.nc, e.eo, e.x, e.w, e.level⟩
  let toEntry (l : Leaf) (loc : Nat) : TlbEntry := ⟨loc, ctx, l.va, l.size, l.phys, l.nc, l.eo, l.x, l.w, l.level⟩
  let lines : List Found :=
    if s.stk.cache = 0 then [] else match s.ctx? ctx with
    | some c => s.walkLines va c.root [4, 3, 2, 1, 0]
    | none => []
  let walkIt : Except MemErr Leaf :=
    match s.ctx? ctx with
    | none => .error (.fault .pageProt 0)
    | some c =>
      match s.walk va c.root [4, 3, 2, 1, 0] with
      | .error e => .error e
      | .ok l => if s.codeSealBad ctx va l then .error (.fault .pageProt l.level) else .ok l
  match core with
  | none => walkIt.map fun l => (l, lines)
  | some k =>
    match tlbHit s.tlb k ctx va with
    | some e => .ok (toLeaf e, [])
    | none =>
      match tlbHit s.tlb (128 + clusterOf k) ctx va with
      | some e => .ok (toLeaf e, [.entry { e with loc := k }])
      | none => walkIt.map fun l => (l, .entry (toEntry l k) :: .entry (toEntry l (128 + clusterOf k)) :: lines)

/-- Keeps at most `n` entries of a place, dropping the oldest (R202). -/
def tlbTrim (n loc : Nat) : List TlbEntry → List TlbEntry
  | [] => []
  | e :: t =>
    if e.loc = loc then (if n = 0 then tlbTrim 0 loc t else e :: tlbTrim (n - 1) loc t) else e :: tlbTrim n loc t

/-- The TLB entries, newest first, after one more: 2,048 for a core and 16,384 for a cluster (R202). -/
def tlbAdd (tlb : List TlbEntry) : Found → List TlbEntry
  | .entry e => if tlb.contains e then tlb else tlbTrim (if e.loc < 128 then 2048 else 16384) e.loc (e :: tlb)
  | .line _ => tlb

/-- The memory stacks after a read of the capacity tier (R400). -/
def Stacks.found (m : Stacks) : Found → Stacks
  | .entry _ => m
  | .line pa => m.touch false pa

/-- Takes in what accesses have left: TLB entries and lines of the capacity-tier cache (R202, R400). -/
def State.addTlb (s : State) (es : List Found) : State :=
  { s with tlb := es.foldl tlbAdd s.tlb, stk := es.foldl Stacks.found s.stk }

/-- A translated unit of local memory. -/
structure Phys where
  pa : Nat
  nc : Bool
  level : Nat
  tlb : List Found
  deriving DecidableEq, Repr

/-- The sealed ranges that a physical write would touch (R309), and the sealed code pages (R423). -/
def State.sealedAt (s : State) (pa : Nat) : Bool := s.fab.seals.any fun x => x.pages.contains (pa / 2 ^ 16)

/-- Physical pages of sealed code (R423). -/
def State.codeSealedAt (s : State) (pa : Nat) : Bool :=
  s.sec.codeSeals.any fun x => x.pages.contains (pa / 2 ^ 16 * 2 ^ 16)

/-- Steps 6 and 7 of R196 for a local virtual address: page protection, firewall, seals, then MEMCAP. `target` is the target
world when it is not the frame's owner (R409). -/
def State.xlate (s : State) (core : Option Nat) (ctx world va : Nat) (acc : Acc) (target : Option Nat := none) :
    Except MemErr Phys :=
  match s.findLeaf core ctx va with
  | .error e => .error e
  | .ok (l, es) =>
    let pa := l.phys + (va - l.va)
    let k := s.physKind pa
    let sealedFetch := acc = .fetch && s.sec.codeSeals.any (·.ctx = ctx)
      && !(s.sec.codeSeals.any fun c => c.ctx = ctx && c.base ≤ va && va < c.base + c.bytes)
    if (acc = .write && !l.w) || (acc = .fetch && !l.x) || (acc ≠ .fetch && l.eo) || sealedFetch
        || k = .none || k = .cacheHeld then
      .error (.fault .pageProt l.level)
    else if acc = .write && s.codeSealedAt pa then .error (.fault .pageProt 0)
    else if !s.permits world (target.getD (s.ownerWorld pa)) then .error (.fault .world 0)
    else if acc = .write && s.sealedAt pa then .error (.fault .sealed 0)
    else if k = .retired then .error (.fault .addrRetired 0)
    else .ok ⟨pa, l.nc, l.level, es⟩

/-! ### Address forms (R26 to R29, R191, R293, R294) -/

/-- Where an address leads. -/
inductive Where where
  /-- Local virtual, with the region of a global address that names the own rank. -/
  | virt (va : Nat) (region : Option Nat)
  | spad (core off : Nat)
  /-- Another rank, and where it is reached. -/
  | far (rank region off : Nat) (route : Route)
  /-- An offset beyond the region's size on the own rank (R28). -/
  | beyond
  deriving DecidableEq, Repr

/-- Rank and pod of the installed chart. -/
def State.rank (s : State) : Nat := match s.fab.chart with | some c => c.rank | none => 0
/-- %nrank. -/
def State.nrank (s : State) : Nat := match s.fab.chart with | some c => c.nrank | none => 0

/-- Torus coordinates of a position in the own pod (R291). -/
def Chart.placement (c : Chart) (pos : Nat) : Option (Nat × Nat × Nat) :=
  if c.lin then
    let (dx, dy, dz) := c.dim
    if pos < dx * dy * dz then some (pos % dx, pos / dx % dy, pos / (dx * dy)) else none
  else (c.place[pos]?).join

/-- The run that holds a rank (R290). -/
def Chart.runOf (c : Chart) (rank : Nat) : Option Run :=
  c.runs.find? fun r => r.first ≤ rank && rank < r.first + r.count

/-- The entry of a pod in the endpoint table; its fields are little-endian, the address included (R2, R292). One that does not keep the layout (another pod's number, more than 128 entropy values, a zero
field that is not zero) is taken as a pod that cannot be reached (DESIGN CHOICE, log entry 88). -/
def State.endEntry (s : State) (c : Chart) (pod : Nat) : Endpoint :=
  let b := s.mem.readN (c.endTable + 32 * pod) 32
  let n (o k : Nat) := leNat ((b.drop o).take k)
  let good := n 0 2 = pod && n 2 1 ≤ 128 && n 3 1 < 16 && n 4 4 = 0 && n 24 8 = 0
  { pod := pod, entropy := if good then n 2 1 else 0, ports := BitVec.ofNat 4 (n 3 1),
    addr := BitVec.ofNat 128 (leNat ((b.drop 8).take 16)) }

/-- The entry of a pod that an X-die's cache holds (R288). -/
def Chart.heldBy (c : Chart) (die pod : Nat) : Option Endpoint := c.cached.find? fun e => e.pod = pod && e.die = die

/-- The endpoint entry of a pod as an X-die finds it: cached, else read from memory (R288, R292). -/
def State.endpoint (s : State) (c : Chart) (die pod : Nat) : Endpoint := (c.heldBy die pod).getD (s.endEntry c pod)

/-- The address of the device at a position of the pod: the position is added to the low 32 bits (R292). -/
def Endpoint.device (e : Endpoint) (pos : Nat) : BitVec 128 :=
  e.addr.extractLsb' 32 96 ++ (e.addr.extractLsb' 0 32 + BitVec.ofNat 32 pos)

/-- Where another rank of the job is reached, from an X-die: its torus coordinates, or its device address, ports and entropy values; none where it has no
placement or endpoint (R294). -/
def State.routeOf (s : State) (c : Chart) (die rank : Nat) : Option Route :=
  match c.runOf rank with
  | none => none
  | some run =>
    let pos := run.pos + (rank - run.first)
    if run.pod = c.pod then (c.placement pos).map fun (x, y, z) => .torus x y z
    else
      let e := s.endpoint c die run.pod
      if c.endpoints ≤ run.pod || e.entropy = 0 then none else some (.ether run.pod (e.device pos) e.ports e.entropy)

/-- Resolves a global address, at an X-die (R294, R28). -/
def State.resolve (s : State) (die : Nat) (addr : DWord) (n : Nat) : Except FaultCode Where :=
  let a := addr.toNat
  let rank := bitsOf a 61 45
  let reg := bitsOf a 44 40
  let off := bitsOf a 39 0
  match s.fab.chart with
  | none => .error .illAddr
  | some c =>
    let r := c.regions[reg]?.getD ⟨0, 0, 0, false, false⟩
    if r.kind = 0 then .error .illAddr
    else if c.nrank ≤ rank then .error .rank
    else if rank = c.rank then
      if off + n ≤ r.units * 2 ^ 16 then .ok (.virt (r.base + off) (some reg)) else .ok .beyond
    else
      match s.routeOf c die rank with
      | none => .error .rank
      | some route => .ok (.far rank reg off route)

/-- The forms of R26 and R27, for an access of `n` bytes by core `core`. -/
def State.where_ (s : State) (core : Nat) (addr : DWord) (n : Nat) : Except FaultCode Where :=
  let a := addr.toNat
  match bitsOf a 63 62 with
  | 0 => if bitsOf a 61 56 = 0 then .ok (.virt (bitsOf a 55 0) none) else .error .illAddr
  | 1 =>
    if bitsOf a 59 28 ≠ 0 then .error .illAddr
    else
      let off := bitsOf a 20 0
      match bitsOf a 61 60 with
      | 0 => if bitsOf a 27 21 = 0 then .ok (.spad core off) else .error .illAddr
      | 1 => if bitsOf a 27 24 = 0 then .ok (.spad (core / 8 * 8 + bitsOf a 23 21) off) else .error .illAddr
      | 2 => if bitsOf a 27 27 = 0 then .ok (.spad (core / 64 * 64 + bitsOf a 26 21) off) else .error .illAddr
      | _ => .error .illAddr
  | 2 => s.resolve (dieOf core) addr n
  | _ => .error .illAddr

/-- The own-core window address of team-memory byte `x` (R191, R254). -/
def Team.window (t : Team) (x : Nat) : DWord := (1#64 <<< 62) ||| BitVec.ofNat 64 (t.base + x)

/-- The bytes [off, off + n) of a core's scratchpad are allocated to a team of the context (R27). -/
def State.spadTeam (s : State) (ctx core off n : Nat) : Bool :=
  s.teams.any fun (_, t) =>
    t.ctx = ctx && t.core = some core && t.base ≤ off && off + n ≤ t.base + t.shape.mem

/-- Every byte of a scratchpad range is allocated to the context (R24, R268): it may cross from one team's memory to another's. -/
def State.spadOwned (s : State) (ctx core off n : Nat) : Bool :=
  s.spadTeam ctx core off n || (List.range n).all fun i => s.spadTeam ctx core (off + i) 1

/-- Base of group `i`'s spill stack (R350). -/
def Ctx.spillOf (c : Ctx) (frameSlot i : Nat) : Nat := c.spillBase + c.spillBytes * (32 * frameSlot + i)

/-- Step 1 of R196: the address of a space from the exact integer `x`, or its refusal (R191). -/
def State.space (s : State) (t : Team) (grp : Nat) (mod : Nat) (x : Int) : Except FaultCode DWord :=
  match mod with
  | 0 => .ok (BitVec.ofInt 64 x)
  | 1 => if x < 0 || (t.shape.mem : Int) ≤ x then .error .pageProt else .ok (t.window x.toNat)
  | 2 =>
    if x < 0 || (2 ^ 30 : Int) ≤ x then .error .illAddr
    else .ok (BitVec.ofNat 64 (2 ^ 62 + bitsOf x.toNat 29 28 * 2 ^ 60 + bitsOf x.toNat 27 0))
  | _ =>
    match s.ctx? t.ctx with
    | none => .error .pageProt
    | some c =>
      if x < 0x1400 || (c.spillBytes : Int) ≤ x then .error .pageProt
      else .ok (BitVec.ofNat 64 (c.spillOf t.frameSlot grp + x.toNat))

/-- What an instruction is allowed to do, for R196. -/
structure AccKind where
  /-- It writes: a store, an atomic or a reduction. -/
  write : Bool
  /-- A read-modify-write that returns a value (ATOM). -/
  atom : Bool := false
  /-- RED: pod and remote addresses raise TIER (R115). -/
  red : Bool := false
  /-- A sequenced contribution: scratchpad addresses raise TIER (R217). -/
  seq : Bool := false
  deriving DecidableEq, Repr

/-- A unit that passed R196. -/
inductive Unit_ where
  | phys (p : Phys) (region : Option Nat) (va : Nat)
  | spad (addr : Nat)
  | far (rank region off : Nat) (route : Route)
  deriving DecidableEq, Repr

/-- Why a unit fails R196, and the address that goes to the fault record. -/
inductive UnitErr where
  | fault (c : FaultCode) (level : Nat) (addr : DWord)
  | missing (va : Nat)
  deriving DecidableEq, Repr

/-- Step 6 for a region, by the own chart, whichever rank it names (R198, R293): counters take b64 loads and atomics only. Region 1 is a target of the world
of the job context (R409). -/
def State.regionCheck (s : State) (region : Option Nat) (n : Nat) (k : AccKind) : Bool :=
  match region with
  | some r =>
    match (s.fab.chart.bind fun c => c.regions[r]?) with
    | some x => x.kind ≠ 2 || (!k.write || (k.atom && n = 8))
    | none => true
  | none => true

/-- The target world of an access to the own rank (R409): that of the job context for a signal counter. -/
def State.targetWorld (s : State) (region : Option Nat) : Option Nat :=
  match region with
  | some r =>
    match s.fab.chart with
    | some c => if (c.regions[r]?.map (·.kind)) = some 2 then (s.ctx? c.jobCtx).map (·.world) else none
    | none => none
  | none => none

/-- Steps 2 to 7 of R196 for one unit of `n` bytes at an address. -/
def State.checkUnit (s : State) (t : Team) (n : Nat) (k : AccKind) (addr : DWord) : Except UnitErr Unit_ :=
  let core := t.coreN
  let world := s.ctxWorld t.ctx
  let fabricOk := ((s.ctx? t.ctx).map (·.fabric)).getD true
  match s.where_ core addr n with
  | .error c => .error (.fault c 0 addr)
  | .ok w =>
    if addr.toNat % n ≠ 0 then .error (.fault .align 0 addr)
    else
      match w with
      | .beyond => .error (.fault .pageProt 0 addr)
      | .spad c off =>
        if k.seq then .error (.fault .tier 0 addr)
        else if s.spadOwned t.ctx c off n then .ok (.spad (c * 2 ^ 21 + off)) else .error (.fault .pageProt 0 addr)
      | .far rank reg off route =>
        if k.red || !fabricOk then .error (.fault .tier 0 addr)
        else if !s.regionCheck (some reg) n k then .error (.fault .pageProt 0 addr)
        else .ok (.far rank reg off route)
      | .virt va region =>
        if !s.regionCheck region n k then .error (.fault .pageProt 0 addr)
        else
          match s.xlate (some core) t.ctx world va (if k.write then .write else .read) (s.targetWorld region) with
          | .ok p => .ok (.phys p region va)
          | .error .missing => .error (.missing va)
          | .error (.fault c l) => .error (.fault c l addr)

end Sys2Proof.Machine
end

