-- ==== Sys2Proof/Machine/Home.lean ====
section
/-! DEFINITION. What a home does with an access: reads, writes, ownership of words, update-only partials and the words held
under a lock (04_ordering.md R107 to R110; 07_load_store.md R201, R216, R225). -/
namespace Sys2Proof.Machine
open Sys2Proof

/-! ### The compass (R388, R389, R454) -/

/-- Mix32 (R62), as the compass and VHASH use it. -/
def mix32 (x : Word) : Word :=
  let x := x ^^^ (x >>> 16)
  let x := x * 0x2C1B3C6D
  let x := x ^^^ (x >>> 12)
  let x := x * 0x297A2D39
  x ^^^ (x >>> 15)

/-- The stacks of a mask, ascending. -/
def stacksOf (active : BitVec 12) : List Nat := (List.range 12).filter active.getLsbD

/-- Compass (R388): the stack and home slice of an HBM4 address under a mapping. -/
def compassOf (active : BitVec 12) (seed : Word) (pa : Nat) : Nat × Nat :=
  let list := stacksOf active
  let n := list.length
  let f := pa / 2 ^ 21
  let k := pa / 512 % 4096
  let rot := (f + (mix32 (BitVec.ofNat 32 (f / n) ^^^ seed)).toNat) % n
  let st := list[(k + rot) % n]?.getD 0
  (st, 4 * st + k % 4)

/-- The home slice of a physical address: by the compass, or by the fixed map of the capacity tier (R389, R454). A frame that
has not reached NEW in a migration is at its old home. -/
def State.sliceOf (s : State) (pa : Nat) : Nat :=
  if pa < 2 ^ 40 then
    let old := s.stk.migrating && (s.stk.mig.get? (frameOf pa)).getD .old ≠ .new
    (compassOf (if old then s.stk.oldActive else s.stk.active) s.stk.seed pa).2
  else
    let u := (pa - 2 ^ 40) / 512
    24 * (u % 16 / 8) + u / 16 % 24

/-! ### L1 words (R201) -/

/-- The other word of the 8-byte unit of a word. -/
def partner (w : Nat) : Nat := if w % 2 = 0 then w + 1 else w - 1

/-- A copy of the other word of the unit leaves a core's L1: a unit is never put together from copies of different ages (R102, R106). -/
def State.dropPartner (s : State) (core w : Nat) : State :=
  match s.l1.get? (l1Key core (4 * partner w)) with
  | some (.v _) => { s with l1 := s.l1.del (l1Key core (4 * partner w)) }
  | _ => s

/-- Registers a core as owner of a word and revokes the owner before it (R107, R201). -/
def State.ownWord (s : State) (core : Option Nat) (nc : Bool) (w : Nat) : State :=
  let l1 :=
    match s.wordOwner.get? w with
    | some old => if some old = core then s.l1 else
        match s.l1.get? (l1Key old (4 * w)) with
        | some (.v _) => s.l1
        | _ => s.l1.del (l1Key old (4 * w))
    | none => s.l1
  match core with
  | none => { s with l1 := l1, wordOwner := s.wordOwner.del w }
  | some c =>
    { s with l1 := if nc then l1.del (l1Key c (4 * w)) else l1.put (l1Key c (4 * w)) .o,
             wordOwner := s.wordOwner.put w c }.dropPartner c w

/-! ### The capacity of L1 (R201) -/

/-- The lines that a core's L1 holds words or partials of. -/
def State.l1Lines (s : State) (core : Nat) : List Nat :=
  ((s.l1.filter fun (x : Nat × L1Word) => x.1 / 2 ^ 40 = core).map (fun (x : Nat × L1Word) => x.1 % 2 ^ 40 / 32)
    ++ (s.partials.filter fun (p : Partial) => p.core = core).map fun (p : Partial) => p.addr / 128).eraseDups

/-- A line leaves a core's L1: changed words are written back, partials are sent to the home (R201). -/
def State.evictLine (s : State) (core line : Nat) : State :=
  let s := s.combine (128 * line) 128
  { s with l1 := s.l1.filter fun x => !(x.1 / 2 ^ 40 = core && x.1 % 2 ^ 40 / 32 = line) }

/-- An L1 of 256 KiB that has taken one line more than it holds drops another one; which one is open (R201, log entry 1). It is called
after every line that an L1 takes, so that no L1 holds more than it has room for. -/
def State.trimL1 (s : State) (core keep : Nat) : State :=
  let lines := s.l1Lines core
  if lines.length ≤ 2048 then s
  else
    let others := lines.filter (· ≠ keep)
    match others[Config.victim s.ref core % others.length]? with
    | some l => s.evictLine core l
    | none => s

/-- A write is performed at its home (R107). -/
def State.performWrite (s : State) (core : Option Nat) (nc : Bool) (pa : Nat) (bytes : List Byte) : State :=
  let s := (s.combine pa bytes.length).cacheTouch pa true
  let s := { s with mem := s.mem.writeN pa bytes }
  let s := (wordsOf pa bytes.length).foldl (fun s w => s.ownWord core nc w) s
  match core with
  | some c => s.trimL1 c (pa / 128)
  | none => s

/-- A word of L1 after a read at the home: O if the home records the core as owner, else V (R201). -/
def State.fillWord (s : State) (core : Nat) (w : Nat) : State :=
  let x : L1Word := if s.wordOwner.get? w = some core then .o else .v (BitVec.ofNat 32 (s.mem.num (4 * w) 4))
  { s with l1 := s.l1.put (l1Key core (4 * w)) x }

/-- The bytes from `pa` on, widened to whole units of 8 bytes: their first byte and length. -/
def unitSpan (pa n : Nat) : Nat × Nat := (pa / 8 * 8, (pa + n + 7) / 8 * 8 - pa / 8 * 8)

/-- A read is performed at its home, and the words of the units read are held in the reader's L1 unless the page is NC (R102, R201,
R203). -/
def State.performRead (s : State) (core : Option Nat) (nc : Bool) (pa n : Nat) : List Byte × State :=
  let (a, m) := unitSpan pa n
  let s := (s.combine a m).cacheTouch pa false
  (s.mem.readN pa n,
    match core with
    | some c => if nc then s else ((wordsOf a m).foldl (fun s w => s.fillWord c w) s).trimL1 c (pa / 128)
    | none => s)

/-- The word that a core's L1 holds, if it holds one: a hit (R201). -/
def State.l1Hit (s : State) (core pa : Nat) : Option Word :=
  match s.l1At core pa with
  | some (.v w) => some w
  | some (.d w) => some w
  | some .o => some (BitVec.ofNat 32 (s.mem.num (pa / 4 * 4) 4))
  | none => none

/-- A unit that hits in L1 in all its words: its bytes (R201). -/
def State.l1Read (s : State) (core pa n : Nat) : Option (List Byte) :=
  if s.partials.any (fun p => overlaps p.addr p.bytes pa n) then none
  else if (wordsOf pa n).all (fun w => (s.l1Hit core (4 * w)).isSome) then
    some ((List.range n).map fun i =>
      let a := pa + i
      (((s.l1Hit core a).getD 0) >>> (8 * (a % 4))).truncate 8)
  else none

/-- A core owns every word of a range (R201): what it holds is the newest performed value. -/
def State.l1Owns (s : State) (core pa n : Nat) : Bool :=
  (wordsOf pa n).all fun w => match s.l1At core (4 * w) with
    | some (.v _) | none => false
    | _ => true

/-- An acquire by a group of a core (R108): every word the core does not own leaves its L1. -/
def State.acquireCore (s : State) (core : Nat) : State :=
  { s with l1 := s.l1.filter fun (k, w) => k / 2 ^ 40 ≠ core || (match w with | .v _ => false | _ => true) }

/-- A group's own part of an acquire: it reads sealed pages under the version it finds next (R117). -/
def Group.acquired (g : Group) : Group := { g with seals := [], acqs := g.acqs + 1 }

/-- An acquire by a group (R103, R108, R117). -/
def State.acquire (s : State) (r : GRef) : State :=
  match s.team? r.team with
  | none => s
  | some t => (s.acquireCore t.coreN).updGroup r Group.acquired

/-! ### Guarded words (R110, R225) -/

/-- The words of a core in physical ranges that are changed under a lock (R225). -/
def State.changedWords (s : State) (core : Nat) (ranges : List (Nat × Nat)) : List Nat :=
  s.l1.filterMap fun (k, w) =>
    let pa := 4 * (k % 2 ^ 40)
    match w with
    | .d _ => if k / 2 ^ 40 = core && ranges.any (fun (a, n) => a ≤ pa && pa < a + n) then some pa else none
    | _ => none

/-- Writes back the words of a core that are changed under a lock, in the physical ranges given; they stay owned. -/
def State.writeBack (s : State) (core : Nat) (ranges : List (Nat × Nat)) : State :=
  s.l1.foldl (fun s (k, w) =>
    let pa := 4 * (k % 2 ^ 40)
    match w with
    | .d x =>
      if k / 2 ^ 40 = core && ranges.any (fun (a, n) => a ≤ pa && pa < a + n) then
        s.performWrite (some core) false pa (leBytes 4 x.toNat)
      else s
    | _ => s) s

/-! ### Outstanding things of a group (R111) -/

/-- The copy of a group adds floating-point contributions (R124, R248): its descriptor, once read or as it stands in team memory. -/
def State.copyReduces (s : State) (c : Copy) : Bool :=
  let b : Nat :=
    match c.desc with
    | some d => leNat ((d.drop 0x19).take 1)
    | none => match s.team? c.team with
      | some t => leNat (s.spad.readN (t.coreN * 2 ^ 21 + t.base + c.descAt + 0x19) 1)
      | none => 0
  !c.committed && b / 4 % 4 = 1

/-- Numbers of the things that a release of the group to local memory waits for (R111, R23): requests, contributions, its own and those of
its reducing copies (R124), and drains to an address. -/
def State.outstandingLocal (s : State) (r : GRef) : List Nat :=
  (s.reqs.filter fun (_, q) => q.owner = some r).map (·.1)
  ++ (s.contribs.filter fun (_, c) => c.owner = some r || c.issuer = some r).map (·.1)
  ++ (s.copies.filter fun (_, c) => c.team = r.team && c.grp = r.grp && s.copyReduces c).map (·.1)
  ++ (s.drains.filter fun (_, d) => d.team = r.team && d.grp = r.grp && d.dest = .mem).map (·.1)

/-- Numbers of the things an owner has outstanding that a release waits for (R111): local ones, messages, and seals. -/
def State.outstanding (s : State) (r : GRef) : List Nat :=
  s.outstandingLocal r
  ++ (s.msgs.filter fun (_, m) => m.owner = some r && !m.inbound).map (·.1)
  ++ (s.ops.filter fun (_, o) => o.owner = r && (match o.kind with | .seal _ _ _ _ _ => true | _ => false)).map (·.1)

/-- The request acts at a scratchpad. -/
def Req.atSpad (q : Req) : Bool :=
  match q.kind with
  | .spadRead _ | .spadWrite _ | .spadAtom _ _ _ _ _ | .spadRed _ _ _ _ => true
  | _ => false

/-- An acquiring access of the group is outstanding: later memory accesses are held (R115, R197). -/
def State.acqHeld (s : State) (r : GRef) : Bool := s.ops.any fun (_, o) => o.owner = r && o.acq

/-- An earlier access of the group to a scratchpad is not yet performed. -/
def State.spadOut (s : State) (r : GRef) : Bool := s.reqs.any fun (_, q) => q.owner = some r && q.atSpad

/-- The pieces of a local range: whether each lies in a scratchpad, its first byte there or in memory, and its bytes. -/
def State.bufferPieces (s : State) (t : Team) (a : DWord) (n : Nat) : List (Bool × Nat × Nat) :=
  match s.where_ t.coreN a 1 with
  | .ok (.spad c off) => [(true, c * 2 ^ 21 + off, n)]
  | .ok (.virt va _) =>
    (List.range (n / 2 ^ 16 + 2)).filterMap fun i =>
      let lo := max va ((va / 2 ^ 16 + i) * 2 ^ 16)
      let hi := min (va + n) ((va / 2 ^ 16 + i + 1) * 2 ^ 16)
      if hi ≤ lo then none
      else match s.xlate (some t.coreN) t.ctx (s.ctxWorld t.ctx) lo .read with
        | .ok p => some (false, p.pa, hi - lo)
        | .error _ => none
  | _ => []

/-- The descriptor of a collective: as its lead pilot accepted it, or as it stands in memory before that (R316). -/
def State.collBytes (s : State) (t : Team) (c : Coll) : List Byte :=
  if !c.desc.isEmpty then c.desc
  else (s.bufferPieces t c.addr 128).flatMap fun x => if x.1 then s.spad.readN x.2.1 x.2.2 else s.homeBytes x.2.1 x.2.2

/-- The destination of the collective that a COLLWAIT waits for, which it will acquire: none when nothing has been started on the id, or when
it has been halted (R125, R318). -/
def State.collwaitDest (s : State) (o : Op) : List (Bool × Nat × Nat) :=
  match o.kind, s.team? o.owner.team with
  | .collwait (some k) _, some t =>
    match s.fab.colls.get? k with
    | some c =>
      if c.status.any fun st => st.toNat % 256 ≠ 0 then []
      else
        let d := CollDesc.parse (s.collBytes t c)
        s.bufferPieces t d.dst d.dstBytes
    | none => []
  | _, _ => []

/-- The destinations of the COLLWAITs of a group that are outstanding and older than number `id`. -/
def State.collPieces (s : State) (r : GRef) (id : Nat) : List (Bool × Nat × Nat) :=
  s.ops.flatMap fun (k, o) => if o.owner = r && k < id then s.collwaitDest o else []

/-- A later access of the group to one of these pieces is held: an outstanding COLLWAIT has still to acquire it (R103, R125). -/
def State.collHolds (s : State) (r : GRef) (id : Nat) (pieces : List (Bool × Nat × Nat)) : Bool :=
  (s.collPieces r id).any fun x => pieces.any fun y => x.1 = y.1 && overlaps x.2.1 x.2.2 y.2.1 y.2.2

/-- An instruction whose engine reads scratchpads is held: an acquire of the group is outstanding, or an earlier scratchpad access of the
group is not yet performed (R103, R109, R125). -/
def State.engineHeld (s : State) (r : GRef) : Bool := s.acqHeld r || s.spadOut r || (s.collPieces r s.nextId).any (·.1)

/-- A number still stands for something outstanding. -/
def State.isPending (s : State) (n : Nat) : Bool :=
  (s.reqs.get? n).isSome || (s.msgs.get? n).isSome || (s.contribs.get? n).isSome || (s.ops.get? n).isSome
  || (s.copies.get? n).isSome || (s.tileOps.get? n).isSome || (s.drains.get? n).isSome

/-- None of the numbers stands for anything outstanding. -/
def State.allDone (s : State) (ids : List Nat) : Bool := ids.all fun n => !s.isPending n

end Sys2Proof.Machine
end

