-- ==== Sys2Proof/Machine/Ops.lean ====
section
/-! DEFINITION. The shared operations of the group sequencer: the divergence stack and Settle (05_sequencer.md R135 to R138),
taking an exception and returning from one (R154 to R157), and how an instruction of a group starts, ends, waits, is withdrawn
or raises a fault (03_encoding.md R78 to R82; 07_load_store.md R208). -/
namespace Sys2Proof.Machine
open Sys2Proof

/-! ### The divergence stack (R135, R136) -/

/-- The kind of an entry as the spill stack holds it (R136). -/
def EntryKind.code : EntryKind → Nat
  | .path => 0 | .join => 1 | .call => 2

/-- The kind of an entry from the spill stack. -/
def EntryKind.ofCode (n : Nat) : EntryKind := if n = 0 then .path else if n = 1 then .join else .call

/-- The 20 bytes of an entry (R136). -/
def DivEntry.bytes (e : DivEntry) : List Byte :=
  leBytes 8 (e.pc.toNat / 4 * 4 + e.kind.code) ++ leBytes 8 (e.mask.extractLsb' 0 64).toNat
    ++ leBytes 4 (e.mask.extractLsb' 64 32).toNat

/-- An entry from its 20 bytes (R136). -/
def DivEntry.ofBytes (b : List Byte) : DivEntry :=
  let w := leNat (b.take 8)
  { pc := BitVec.ofNat 64 (w / 4 * 4), kind := EntryKind.ofCode (w % 4),
    mask := BitVec.ofNat 96 (leNat ((b.drop 8).take 12)) }

/-- The reconvergence point: the PC of the nearest JOIN or CALL from the top (R135). -/
def rpc : List DivEntry → Option DWord
  | [] => none
  | e :: st => if e.kind = .path then rpc st else some e.pc

/-- Settle on a stack, top first (R137). None: every lane of the group exits. -/
def settlePath : List DivEntry → DWord → Mask → Option (List DivEntry × DWord × Mask)
  | [], pc, m => if m = 0 then none else some ([], pc, m)
  | e :: st, pc, m =>
    if m = 0 ∨ rpc (e :: st) = some pc then settlePath st e.pc e.mask else some (e :: st, pc, m)

/-- Diverge (R138): the new stack, PC and mask before Settle; none where the stack would pass 256 entries. -/
def divergePath (st : List DivEntry) (t f : Mask) (tpc fpc r : DWord) (takenFirst : Bool) :
    Option (List DivEntry × DWord × Mask) :=
  let (m1, pc1, m2, pc2) := if takenFirst then (t, tpc, f, fpc) else (f, fpc, t, tpc)
  let reuse : Bool := match st with
    | [] => false
    | e :: _ => e.kind = .join && e.pc = r
  let need := (if reuse then 0 else 1) + (if pc2 = r then 0 else 1)
  if 256 < st.length + need then none
  else
    let st := if reuse then st else ⟨r, t ||| f, .join⟩ :: st
    let st := if pc2 = r then st else ⟨pc2, m2, .path⟩ :: st
    some (st, pc1, m1)

/-- Return (R138): the stack with the returning lanes parked in the nearest CALL entry; none where there is no CALL entry. -/
def returnPath (m : Mask) : List DivEntry → Option (List DivEntry)
  | [] => none
  | e :: st =>
    if e.kind = .call then some (e :: st)
    else (returnPath m st).map fun st => { e with mask := e.mask &&& ~~~m } :: st

/-- The virtual address of the entry at a position of a group's spill stack (R136, R350). -/
def spillEntryVa (c : Ctx) (t : Team) (grp pos : Nat) : Nat := c.spillOf t.frameSlot grp + 20 * pos

/-- Physical addresses of the bytes of a local virtual range, or the first error with its address. -/
def State.xlateRange (s : State) (core : Option Nat) (ctx world va : Nat) (acc : Acc) :
    Nat → Except (MemErr × Nat) (List Nat × List Found)
  | 0 => .ok ([], [])
  | n + 1 =>
    match s.xlate core ctx world va acc with
    | .error e => .error (e, va)
    | .ok p =>
      match State.xlateRange s core ctx world (va + 1) acc n with
      | .error e => .error e
      | .ok (ps, es) => .ok (p.pa :: ps, p.tlb ++ es)

/-- A range of local virtual addresses is read: its translations are learnt, and its lines pass through the capacity-tier cache (R202,
R400). -/
def State.passRead (s : State) (core : Option Nat) (ctx world va : Nat) (acc : Acc) (n : Nat) : State :=
  match s.xlateRange core ctx world va acc n with
  | .ok (ps, es) => s.addTlb (es ++ ps.flatMap s.readLine)
  | .error _ => s

/-- Reads the entry at a position; an address that cannot be read gives zeros, and is refused where the entry is needed. -/
def State.spillRead (s : State) (c : Ctx) (t : Team) (grp pos : Nat) : DivEntry :=
  match s.xlateRange t.core t.ctx c.world (spillEntryVa c t grp pos) .read 20 with
  | .ok (ps, _) => DivEntry.ofBytes (ps.map s.mem.read)
  | .error _ => DivEntry.ofBytes []

/-- The whole stack, top first: lanes that have exited are in no entry (R138). -/
def State.stack (s : State) (t : Team) (grp : Nat) (g : Group) : List DivEntry :=
  g.divTop ++
    match s.ctx? t.ctx with
    | none => []
    | some c => (List.range g.divSpilled).reverse.map fun n =>
        let e := s.spillRead c t grp n
        { e with mask := e.mask &&& ~~~g.exited }

/-- %divdepth (R135). -/
def Group.depth (g : Group) : Nat := g.divTop.length + g.divSpilled

/-- What storing a stack needs of memory: a page that is missing (1 for a spill, 0 for a refill, with its address), or a
refusal. -/
inductive StackErr where
  | missing (kind va : Nat)
  | fault (c : FaultCode) (level : Nat) (va : Nat)
  deriving DecidableEq, Repr

/-- Writes bytes at physical addresses, one by one. -/
def State.writeBytes (s : State) (core : Option Nat) : List Nat → List Byte → State
  | p :: ps, b :: bs => State.writeBytes (s.performWrite core false p [b]) core ps bs
  | _, _ => s

/-- Spills the entry at a position (R136). -/
def State.spillWrite (s : State) (c : Ctx) (t : Team) (grp pos : Nat) (e : DivEntry) : Except StackErr State :=
  match s.xlateRange t.core t.ctx c.world (spillEntryVa c t grp pos) .write 20 with
  | .ok (ps, es) =>
    if ps.any s.isLost then .error (.fault .dataLost 0 (spillEntryVa c t grp pos))
    else .ok ((s.addTlb es).writeBytes t.core ps e.bytes)
  | .error (.missing, va) => .error (.missing 1 va)
  | .error (.fault f l, va) => .error (.fault f l va)

/-- Spills the entries of a list of (position, entry) pairs. -/
def State.spillAll (s : State) (c : Ctx) (t : Team) (grp : Nat) : List (Nat × DivEntry) → Except StackErr State
  | [] => .ok s
  | (n, e) :: rest =>
    match s.spillWrite c t grp n e with
    | .ok s => State.spillAll s c t grp rest
    | .error x => .error x

/-- The first refusal among the entries that return to the sequencer: a page, or a line that is lost (R136, R386). -/
def State.refillErr (s : State) (c : Ctx) (t : Team) (grp : Nat) : List Nat → Option StackErr
  | [] => none
  | n :: rest =>
    match s.xlateRange t.core t.ctx c.world (spillEntryVa c t grp n) .read 20 with
    | .ok (ps, _) =>
      if ps.any s.isLost then some (.fault .dataLost 0 (spillEntryVa c t grp n)) else State.refillErr s c t grp rest
    | .error (.missing, va) => some (.missing 0 va)
    | .error (.fault f l, va) => some (.fault f l va)

/-- Makes `new` the group's stack, top first: the top 16 entries stay in the sequencer, the others stand in the spill stack
(R136). -/
def State.storeStack (s : State) (t : Team) (grp : Nat) (g : Group) (new : List DivEntry) :
    Except StackErr (State × Group) :=
  if new.length ≤ 16 ∧ g.divSpilled = 0 then .ok (s, { g with divTop := new, divSpilled := 0 })
  else
    match s.ctx? t.ctx with
    | none => .ok (s, { g with divTop := new.take 16, divSpilled := 0 })
    | some c =>
      let low := (new.drop 16).reverse
      let refill := (List.range g.divSpilled).filter fun n => low.length ≤ n && n < new.length
      match s.refillErr c t grp refill with
      | some e => .error e
      | none =>
        let s := refill.foldl (fun s n => s.passRead t.core t.ctx c.world (spillEntryVa c t grp n) .read 20) s
        let spill := ((List.range low.length).zip low).filter fun (n, e) => g.divSpilled ≤ n || s.spillRead c t grp n ≠ e
        match s.spillAll c t grp spill with
        | .error e => .error e
        | .ok s => .ok (s, { g with divTop := new.take 16, divSpilled := low.length })

/-! ### Clocks (R90, R451) -/

/-- The island that serves a core (R451). -/
def islandOf (core : Nat) : Nat := 2 * clusterOf core + core % 8 / 4

/-- %clk of a core. -/
def State.clk (s : State) (core : Nat) : Nat := ((s.islands.get? (islandOf core)).map fun i => i.acc / 1900).getD 0

/-- %time, in nanoseconds: reference cycles at 1.9 GHz. -/
def State.time (s : State) : Nat := s.ref * 10 / 19

/-! ### Faults (R82, R154, R157) -/

/-- DETAIL of a fault of R196: the lane and the level of R204; of SEALED the cause, 0 for a write to a sealed range (R309; DEDUCED, log
entry 100: R309's own table goes before R196). -/
def accDetail (c : FaultCode) (lane level : Nat) : Nat := if c = .sealed then 0 else level * 256 + lane

/-- A fault as an instruction raises it. -/
structure FaultInfo where
  code : FaultCode
  /-- %trapinfo.DETAIL. -/
  detail : Nat := 0
  /-- %trapinfo.WORD and SLOT, when they are not those of R82. -/
  word : Nat := 0
  slot : Option Nat := none
  /-- Faulting address, +0x20 of the record. -/
  addr : DWord := 0
  /-- The 64 detail bytes of the record; empty for zeros. -/
  bytes : List Byte := []
  /-- The header reported, when it is not the group's. -/
  hdr : Option DWord := none
  deriving DecidableEq, Repr

/-- The slot that the group is at: 0xFF outside a clause (R81, R82). -/
def Group.slot (g : Group) : Nat := match g.clause with | some c => c.slot | none => 0xFF

/-- A %trapinfo value (R148). -/
def trapInfo (detail resume word slot : Nat) : DWord :=
  BitVec.ofNat 64 (detail % 2 ^ 32 * 2 ^ 32 + resume % 256 * 2 ^ 16 + word % 256 * 2 ^ 8 + slot % 256)

/-- The team belongs to the context. -/
def State.teamOf (s : State) (ctx team : Nat) : Bool := (s.team? team).any fun (t : Team) => t.ctx = ctx

/-- Operations of a context that have not started are cancelled (R157): tile operations, drains and copies that wait for their
turn, messages that have not left, and requests that wait for a release. -/
def State.cancelOps (s : State) (ctx : Nat) : State :=
  { s with
    tileOps := s.tileOps.filter fun (_, o) => !s.teamOf ctx o.team,
    drains := s.drains.filter fun (_, d) => d.started || !s.teamOf ctx d.team,
    copies := s.copies.filter fun (_, c) => c.started || !s.teamOf ctx c.team,
    msgs := s.msgs.filter fun (_, m) => m.inbound || m.state ≠ .queued || m.ctx ≠ ctx,
    reqs := s.reqs.filter fun (_, q) => q.ctx ≠ ctx || s.allDone q.after }

/-- Raises a fault that ends a context (R157): the faults are kept in order, up to eight, until CONTEXT_END posts them; the teams stop
at once at the first, because no group of a context with a pending fault is ready. -/
def State.fatalCtx (s : State) (ctx : Nat) (f : FaultRec) : State :=
  match s.ctx? ctx with
  | none => s
  | some c =>
    if c.state ≠ .live then s
    else if c.pending.isNone then (s.updCtx ctx fun c => { c with pending := some f }).cancelOps ctx
    else if c.later.length < 7 then s.updCtx ctx fun c => { c with later := c.later ++ [f] }
    else s

/-- A fault of a group that ends its context, of kind 0, 1 or 2 (R157). -/
def State.fatalGroup (s : State) (r : GRef) (kind : Nat) (f : FaultInfo) (resume : Nat := 0) : State :=
  match s.team? r.team with
  | none => s
  | some t =>
    match t.groups[r.grp]? with
    | none => s
    | some g =>
      s.fatalCtx t.ctx
        { code := f.code, kind := kind, core := t.coreN, grp := r.grp, team := t.index, grid := t.gridIdx,
          pc := f.hdr.getD g.pc, info := trapInfo f.detail resume f.word (f.slot.getD g.slot), addr := f.addr,
          clk := s.clk t.coreN, detail := f.bytes }

/-- A fault that is not delivered to a handler (R157): kind 2 while the group is in its handler, else 0. -/
def State.fatal (s : State) (r : GRef) (f : FaultInfo) : State :=
  let inHandler := ((s.group? r).map (·.intrap)).getD false
  s.fatalGroup r (if inHandler then 2 else 0) f

/-- The bytes at an address as the team would read them, for a fault record: none where it could not (R373). -/
def State.peek (s : State) (t : Team) (a : DWord) (n : Nat) : List Byte :=
  match s.checkUnit t n { write := false } a with
  | .ok (.spad x) => s.spad.readN x n
  | .ok (.phys p _ _) => if s.isLost p.pa then [] else s.mem.readN p.pa n
  | _ => []

/-! ### Suspension (R208) -/

/-- A page by its 64 KiB address (R209). -/
def MissPage.aligned (p : MissPage) : MissPage := ⟨p.kind, p.va / 2 ^ 16 * 2 ^ 16⟩

/-- The distinct missing pages of two lists, by address (R208). DESIGN CHOICE (log entry 94): a page missed by accesses of several kinds is
requested once, under the kind that missed it first. -/
def joinPages (old new : List MissPage) : List MissPage :=
  (new.map MissPage.aligned).foldl (fun l p => if l.any (·.va = p.va) then l else l ++ [p]) old

/-- Notes missing pages of a team and stops its groups at their next clause boundary (R208). The first that missed one, at the clause
header `hdr` or its own, is the group withdrawn first; DESIGN CHOICE (log entry 95): it is named (R226) where no instruction was withdrawn too, at a fetch or
a refill. -/
def State.suspend (s : State) (r : GRef) (pages : List MissPage) (hdr : Option DWord := none) : State :=
  s.updTeam r.team fun t =>
    let at_ : DWord × Nat := (t.groups[r.grp]?.map fun g => (hdr.getD g.pc, g.slot)).getD (0, 0xFF)
    { t with stopping := some (t.stopping.getD .page), missing := (joinPages t.missing pages).take 32,
             first := if t.first = 0xFF then r.grp else t.first,
             missFrom := some (t.missFrom.getD (r.grp, at_)) }

/-! ### The end of a group (R17) -/

/-- Leaves the trap slot, and drops a place in its queue. -/
def State.leaveTrapSlot (s : State) (core p : Nat) (r : GRef) : State :=
  let x := s.part core p
  s.putPart core p { x with trapOwner := if x.trapOwner = some r then none else x.trapOwner,
                            trapQueue := x.trapQueue.filter (· ≠ r) }

/-- A group that retires releases its locks as REL does (R224, R225). -/
def State.dropLocks (s : State) (r : GRef) : State :=
  { s with locks := s.locks.map fun (k, l) =>
      (k, if l.holder = some r then { l with pushing := true, ids := s.outstanding r } else l) }

/-- A group that has retired: no lane is left, no divergence entry, no clause and no place (R17, R130). -/
def Group.retire (g : Group) : Group :=
  { (({ g with exited := Mask.all }).setMask 0) with
    retired := true, clause := none, divTop := [], divSpilled := 0, place := .gone, waiting := false,
    withdrawn := false, intrap := false, sleepUntil := none, lastHdr := if g.clause.isSome then g.pc else g.lastHdr }

/-- Once its last group has retired, a running team joins its children, or gives way to the successor that is fixed: it is not saved any
more for a page or for another team (R17, R376). -/
def Team.ended (t : Team) : Team :=
  if t.state = .running && t.groups.all (·.retired) then
    { t with state := if t.successor.isSome then .succeeding else .joining, succ := t.successor.isSome, missing := [], missFrom := none,
             stopping := t.stopping.filter (· = .debug) }
  else t

/-- The group retires: its pending divergence entries are discarded and it leaves the active set at once (R17, R130). -/
def State.retireGroup (s : State) (r : GRef) : State :=
  match s.team? r.team with
  | none => s
  | some t =>
    (((s.leaveTrapSlot t.coreN (t.partOf r.grp) r).dropLocks r).updGroup r Group.retire).updTeam r.team Team.ended

/-! ### Settle (R137) -/

/-- At a clause boundary the next clause counts as ready from now, or from the cycle after a YIELD (R131, R132). -/
def Group.atBoundary (g : Group) (ref : Nat) : Group :=
  if g.clause.isNone then { g with readySince := max ref g.yieldAt } else g

/-- Settles a group whose PC, mask and clause are up to date, and stores it (R137). A refill that meets a missing page stops
the group before its next clause; a refused page ends the context, at the clause about to be fetched (R136). -/
def State.settle (s : State) (r : GRef) (t : Team) (g : Group) : State :=
  let st := s.stack t r.grp g
  if g.mask ≠ 0 ∧ (g.clause.isSome ∨ rpc st ≠ some g.pc) then s.putGroup r g
  else
    let hdr := if g.clause.isSome then g.pc else g.lastHdr
    match settlePath st g.pc g.mask with
    | none => (s.putGroup r { g with lastHdr := hdr }).retireGroup r
    | some (st, pc, m) =>
      match s.storeStack t r.grp g st with
      | .ok (s, g) =>
        s.putGroup r (({ (g.setMask m) with pc := pc, clause := none, resume := none, lastHdr := hdr } : Group).atBoundary s.ref)
      | .error (.missing k va) =>
        (s.putGroup r { g with clause := none, lastHdr := hdr }).suspend r [⟨k, va⟩] (some pc)
      | .error (.fault c l va) =>
        (s.putGroup r { g with clause := none, lastHdr := hdr }).fatal r
          { code := c, detail := accDetail c 0xFF l, slot := some 0xFF, addr := BitVec.ofNat 64 va, hdr := some pc }

/-! ### Taking a trap and returning from it (R154 to R156) -/

/-- TakeTrap (R154): delivers a trap-class fault to the group's handler, or makes it fatal. The group's PC, mask and stack are
those that the fault leaves. -/
def State.takeTrap (s : State) (r : GRef) (t : Team) (g : Group) (f : FaultInfo) (resumePc : DWord) (resume : Nat) : State :=
  if g.intrap || g.trapvec = 0 then (s.putGroup r g).fatalGroup r (if g.intrap then 2 else 1) f resume
  else
    let core := t.coreN
    let p := t.partOf r.grp
    let x := s.part core p
    let free := x.trapOwner.isNone && x.trapQueue.isEmpty
    let s := s.putPart core p
      (if free then { x with trapOwner := some r } else { x with trapQueue := x.trapQueue ++ [r] })
    let g := { g with
      trapmask := g.mask, trapdepth := g.depth, trapcode := f.code.code, trappc := resumePc,
      trapinfo := trapInfo f.detail resume 0 (f.slot.getD g.slot), intrap := true, trapAt := s.ref, readySince := s.ref,
      place := if free then .trapSlot else g.place,
      lastHdr := g.pc, pc := g.trapvec, clause := none, resume := none }
    s.settle r t g

/-- The return from a handler (R156), before the clause is re-entered: stack, mask, place and PC. -/
def State.leaveTrap (s : State) (r : GRef) (t : Team) (g : Group) : Except StackErr (State × Group) :=
  let st := s.stack t r.grp g
  match s.storeStack t r.grp g (st.drop (st.length - g.trapdepth)) with
  | .error e => .error e
  | .ok (s, g) =>
    let core := t.coreN
    let p := t.partOf r.grp
    let x := s.part core p
    let s := (s.leaveTrapSlot core p r).putPart core p
      { (s.leaveTrapSlot core p r).part core p with order := x.order + 1 }
    .ok (s, { (g.setMask g.trapmask) with
      intrap := false, place := .active, entered := x.order, lastHdr := g.pc, pc := g.trappc, clause := none,
      resume := (let n := bitsOf g.trapinfo.toNat 23 16; if n = 0 then none else some n) })

/-! ### An instruction of a group -/

/-- How an instruction of a group ends. -/
inductive Res where
  /-- It took effect; the group goes on to the next slot. -/
  | done (s : State) (g : Group)
  /-- It transferred control: PC, mask and stack are set, the clause is closed. -/
  | jump (s : State) (g : Group)
  /-- It stays at its slot, and is looked at again. -/
  | stay (s : State) (g : Group)
  /-- It raises a fault that ends the context, with no effect (R82). -/
  | fault (f : FaultInfo)
  /-- It raises a trap-class fault (R154). -/
  | trap (s : State) (g : Group) (f : FaultInfo) (resumePc : DWord) (resume : Nat)
  /-- It is withdrawn for missing pages (R208). -/
  | withdraw (pages : List MissPage)

/-- Words of an instruction. -/
def FmtBR.len (f : FmtBR) : Nat := 1 + f.tail.words.length

/-- Moves a group past an instruction of `n` words: to the next slot, or, at the last slot, to the word after the clause. -/
def Group.advance (g : Group) (n : Nat) : Group :=
  match g.clause with
  | none => g
  | some c =>
    if c.slot + 1 < c.count then { g with clause := some { c with slot := c.slot + 1, off := c.off + n } }
    else { g with clause := none, lastHdr := g.pc, pc := g.pc + BitVec.ofNat 64 (4 * (1 + c.off + n)) }

/-- Closes the clause and sets the PC of the current path: a control transfer. -/
def Group.goto (g : Group) (pc : DWord) : Group := { g with clause := none, resume := none, lastHdr := g.pc, pc := pc }

/-- The address of the instruction the group is at. -/
def Group.here (g : Group) : DWord :=
  match g.clause with
  | some c => g.pc + BitVec.ofNat 64 (4 * (1 + c.off))
  | none => g.pc

/-- Clears the marks of a wait and of a withdrawal; a group that was held up is ready again from now (R131). -/
def Group.unblock (g : Group) (ref : Nat) : Group :=
  { g with waiting := false, held := false, woken := false, withdrawn := false, waitIds := [], eligible := false,
           readySince := if g.waiting || g.held || g.withdrawn then ref else g.readySince }

/-- A group that stays at its slot, not in a wait of its instruction, is held there: it is not ready (R131). `before` is the group as
it was. -/
def Group.stayed (g : Group) (before : Option Group) : Group :=
  if g.clause.isSome && !g.waiting && before.map (·.clause) = some g.clause then { g with held := true } else g

/-- Stores the outcome of an instruction of `n` words by a group. -/
def State.finish (s : State) (r : GRef) (t : Team) (n : Nat) (res : Res) : State :=
  match res with
  | .done s g => s.settle r t (((g.unblock s.ref).advance n).atBoundary s.ref)
  | .jump s g => s.settle r t ((g.unblock s.ref).atBoundary s.ref)
  | .stay s g => s.putGroup r (g.stayed t.groups[r.grp]?)
  | .fault f => s.fatal r f
  | .trap s g f pc resume => s.takeTrap r t (g.unblock s.ref) f pc resume
  | .withdraw pages => (s.updGroup r fun g => { g with withdrawn := true }).suspend r pages

/-- The team and group that an instruction acts on. -/
def State.current (s : State) : Option (GRef × Team × Group) :=
  match s.cur with
  | none => none
  | some r =>
    match s.team? r.team with
    | none => none
    | some t =>
      match t.groups[r.grp]? with
      | none => none
      | some g => some (r, t, g)

/-- An instruction of the issuing group: `body` gives its effect, `n` its words. -/
def State.issue (s : State) (n : Nat) (body : GRef → Team → Group → Res) : Host.Outcome State Fault Refusal :=
  match s.current with
  | none => .fault .noIssuingGroup
  | some (r, t, g) => .next (s.finish r t n (body r t g))

/-! ### Long-latency instructions (R78, R79) -/

/-- The flag a long-latency instruction selects: SETA, or SETB with FS (R78). -/
def Group.flagOf (g : Group) (fs : Bool) : Option Nat :=
  match g.clause with
  | none => none
  | some c =>
    let x := if fs then c.setb else c.seta
    if x = 0xF then none else some x.toNat

/-- The selected flag has a count of 63: the instruction stalls (R78). -/
def Group.flagFull (g : Group) (fs : Bool) : Bool :=
  match g.flagOf fs with
  | some n => g.flagCount n = 63
  | none => false

/-- Adds one to the count of the selected flag (R78). -/
def Group.raiseFlag (g : Group) (fs : Bool) : Group :=
  match g.flagOf fs with
  | some n => g.setFlag n (g.flagCount n + 1)
  | none => g

/-- Drops one from the count of a flag (R78). -/
def Group.dropFlag (g : Group) (n : Nat) : Group := g.setFlag n (g.flagCount n - 1)

/-- Records an outstanding long-latency instruction under number `id`. -/
def State.addOp (s : State) (id : Nat) (o : Op) : State := { s with ops := s.ops.put id o }

/-- An outstanding instruction of a group at its slot. -/
def mkOp (r : GRef) (g : Group) (fs : Bool) (kind : OpKind) : Op :=
  { owner := r, flag := g.flagOf fs, kind := kind, need := [], acq := false, writes := [], hdr := g.pc, slot := g.slot,
    far := false }

/-- A long-latency instruction whose effect on registers is `writes`, taken at its completion point. One with nothing to write
completes at once (R66). -/
def State.startWrites (s : State) (r : GRef) (g : Group) (fs : Bool) (writes : List RegWrite) : Res :=
  if g.flagFull fs then .stay s g
  else if writes.isEmpty then .done s g
  else
    let (id, s) := s.fresh
    .done (s.addOp id { mkOp r g fs .plain with writes := writes }) (g.raiseFlag fs)

end Sys2Proof.Machine
end

