-- ==== Sys2Proof/Machine/Pending.lean ====
section
/-! DEFINITION. Work that goes on by itself between instructions: messages that leave for other ranks when a link has room
(10_fabric.md R296 to R300), and ring slots that change state when a release completes (08_copy.md R252, R254). -/
namespace Sys2Proof.Machine
open Sys2Proof

/-! ### Ring slots (R252) -/

/-- A slot's state. -/
def Ring.at (x : Ring) (n : Nat) : SlotState := x.state[n]?.getD .f

/-- A slot's phase. -/
def Ring.phaseOf (x : Ring) (n : Nat) : Bool := x.phase[n]?.getD false

/-- Sets a slot's state. -/
def Ring.set (x : Ring) (n : Nat) (st : SlotState) : Ring := { x with state := x.state.set n st }

/-- A filled slot: it becomes L, or LF, and its phase flips (R252). -/
def Ring.fill (x : Ring) (n : Nat) (st : SlotState) : Ring :=
  { x with state := x.state.set n st, phase := x.phase.set n (!x.phaseOf n) }

/-- A claim at TAIL (R252): the slot and the ring after it; none when the TAIL slot is not F. -/
def Ring.claim (x : Ring) (st : SlotState) : Option (Nat × Ring) :=
  if x.at x.tail = .f then some (x.tail, { x.set x.tail st with tail := (x.tail + 1) % x.slots }) else none

/-- FREE of a slot (R252). -/
def Ring.release (x : Ring) (n : Nat) : Ring :=
  match x.at n with
  | .l => x.set n .f
  | .lf => x.set n .d
  | _ => x

/-- Changes a ring of a team. -/
def State.updRing (s : State) (team id : Nat) (f : Ring → Ring) : State :=
  s.updTeam team fun t => { t with rings := t.rings.upd id f }

/-- The instruction a group is at inside its open clause. -/
def Group.instr (g : Group) : Option Instr :=
  match g.clause with
  | none => none
  | some c =>
    match decodeRaw (c.words.drop c.off) with
    | .ok (i, _) => some i
    | .error _ => none

/-- The ring and slot that a group blocked in RING WAIT waits for, and the phase it expects (R254). -/
def Group.ringWaits (g : Group) : Option (Nat × Nat × Bool) :=
  if !g.waiting then none
  else
    match g.instr with
    | some (.ringWait f) =>
      let a := (g.s f.a.toNat).toNat
      some (f.w2.imm.toNat, a % 16, bitAt a 8)
    | _ => none

/-- Waiters for the phase that a slot has just taken resume (R252). -/
def Team.wake (t : Team) (ring slot : Nat) : Team :=
  match t.rings.get? ring with
  | none => t
  | some x =>
    { t with groups := t.groups.map fun g =>
        if g.ringWaits = some (ring, slot, x.phaseOf slot) then { g with woken := true } else g }

/-- A slot is filled: it becomes L, or LF, and waiters resume (R252). -/
def Team.fill (t : Team) (ring slot : Nat) (st : SlotState) : Team :=
  Team.wake { t with rings := t.rings.upd ring fun x => x.fill slot st } ring slot

/-- The release of a COMMIT or FREE takes effect. -/
def Team.ringRelease (t : Team) (r : RingRel) : Team :=
  if r.free then { t with rings := t.rings.upd r.ring fun x => x.release r.slot } else t.fill r.ring r.slot .l

/-- Commits and frees whose releases have completed take effect, frees first (R252). -/
def State.flushTeam (s : State) (t : Team) : Team :=
  let done := t.relq.filter fun r => s.allDone r.ids
  let t : Team := (done.filter (·.free) ++ done.filter (!·.free)).foldl Team.ringRelease t
  { t with relq := t.relq.filter fun r => !s.allDone r.ids }

/-- Every team's completed commits and frees take effect. -/
def State.flushRings (s : State) : State :=
  { s with teams := s.teams.map fun (k, t) => (k, if t.relq.isEmpty then t else s.flushTeam t) }

/-! ### Messages -/

/-- A port that carries traffic (R297, R303). -/
def Port.usable (p : Port) : Bool := p.state = 2 && !p.drain && p.enable

/-- Ports by number. -/
def State.portList (s : State) : List (Nat × Port) := (List.range s.fab.ports.length).zip s.fab.ports

/-- The sizes of the pod's torus: the linear box, or the smallest box that holds the placement table's coordinates (R291; DESIGN CHOICE, log
entry 89). -/
def Chart.torus (c : Chart) : List Nat :=
  if c.lin then (let (x, y, z) := c.dim; [x, y, z])
  else
    let ps := c.place.filterMap id
    let top (f : Nat × Nat × Nat → Nat) : Nat := ps.foldl (fun m p => max m (f p + 1)) 1
    [top (·.1), top (·.2.1), top (·.2.2)]

/-- The directions of a ring that lie on a minimal path: up the coordinate (false), down (true), or both when they are equally short
(R297). -/
def minimalWays (size a b : Nat) : List Bool :=
  let up := (b + size - a % size) % size
  if up = 0 then [] else if 2 * up < size then [false] else if size < 2 * up then [true] else [false, true]

/-- The own torus coordinates (R291). -/
def Chart.own (c : Chart) : Option (Nat × Nat × Nat) :=
  (c.runOf c.rank).bind fun r => c.placement (r.pos + (c.rank - r.first))

/-- The bundles on a minimal path to coordinates (R297): bundle 2d leads up dimension d and bundle 2d + 1 down it (DESIGN CHOICE, log entry
89). -/
def Chart.bundles (c : Chart) (x y z : Nat) : List Nat :=
  match c.own with
  | none => []
  | some (a, b, d) =>
    ((List.range 3).zip (c.torus.zip [(a, x), (b, y), (d, z)])).flatMap fun (i, size, p, q) =>
      (minimalWays size p q).map fun down => 2 * i + b2n down

/-- The bundle of a torus port: ports 6b to 6b + 5 (DESIGN CHOICE, log entry 89). -/
def bundleOf (port : Nat) : Nat := port / 6

/-- A retransmission window that holds `n` messages has room (R299). -/
def windowRoom (n : Nat) : Bool := n < Config.window + 1

/-- Messages in the retransmission window of a port of a pod (R299). -/
def Chart.outOf (c : Chart) (die pod port : Nat) : Nat := ((c.heldBy die pod).bind fun e => e.out.get? port).getD 0

/-- A port that can take a message now. On the torus, one of a bundle on a minimal path, with the most credit, whose window has room (R297,
R299, R300); on Ultra Ethernet, one of the endpoint's mask whose window has room (R298); which one of the mask is open, and the model takes
the lowest-numbered (DESIGN CHOICE, log entry 98). Ports that are down or drained are never chosen. -/
def State.linkFor (s : State) (m : Msg) : Option Nat :=
  match s.fab.chart with
  | none => none
  | some c =>
    match m.route with
    | .torus x y z =>
      let bs := (c.bundles x y z).filter fun b => windowRoom ((s.fab.windows.get? b).getD 0)
      let ports := s.portList.filter fun (n, p) => n < 36 && p.usable && p.credit ≠ 0 && bs.contains (bundleOf n)
      (ports.foldl (fun (best : Option (Nat × Port)) x =>
        match best with
        | some y => if y.2.credit < x.2.credit then some x else some y
        | none => some x) none).map (·.1)
    | .ether pod _ mask _ =>
      (s.portList.find? fun (n, p) => 36 ≤ n && p.usable && mask.getLsbD (n - 36) && windowRoom (c.outOf m.die pod n)).map (·.1)

/-- Takes one credit from a torus port. -/
def State.spendCredit (s : State) (port : Nat) : State :=
  if port < 36 then
    { s with fab := { s.fab with ports := listUpd s.fab.ports port fun p => { p with credit := p.credit - 1 } } }
  else s

/-- Changes the state that is kept for a cached pod (R299). -/
def State.updEndpoint (s : State) (die pod : Nat) (f : Endpoint → Endpoint) : State :=
  { s with fab := { s.fab with chart := s.fab.chart.map fun c =>
      { c with cached := c.cached.map fun e => if e.pod = pod && e.die = die then f e else e } } }

/-- Changes the number of messages in the window of a route and port (R299). -/
def State.updWindow (s : State) (m : Msg) (port : Nat) (f : Nat → Nat) : State :=
  match m.route with
  | .torus _ _ _ =>
    let b := bundleOf port
    { s with fab := { s.fab with windows := s.fab.windows.put b (f ((s.fab.windows.get? b).getD 0)) } }
  | .ether pod _ _ _ => s.updEndpoint m.die pod fun e => { e with out := e.out.put port (f ((e.out.get? port).getD 0)) }

/-- A message of an Ethernet route has been acknowledged, or is taken as lost: the congestion score of its entropy value follows (R299). -/
def State.scorePath (s : State) (m : Msg) (lost : Bool) : State :=
  match m.route with
  | .torus _ _ _ => s
  | .ether pod _ _ _ =>
    s.updEndpoint m.die pod fun e => { e with scores := e.scores.put m.entropy (Config.scoreNext ((e.scores.get? m.entropy).getD 0) lost) }

/-- A message leaves its retransmission window: it has been acknowledged, or is given up. -/
def State.windowBack (s : State) (id : Nat) (m : Msg) (lost : Bool) : State :=
  if m.inWindow then
    let s := (s.updWindow m m.port (· - 1)).scorePath m lost
    { s with msgs := s.msgs.upd id fun m => { m with inWindow := false } }
  else s

/-- A queued message waits only for its link (R300): what it follows is done and its bytes are read. A signal increment leaves
by its own event, and a message to the own rank never leaves. -/
def State.msgFree (s : State) (m : Msg) : Bool :=
  m.state = .queued && s.allDone m.after && m.src.isNone && !m.loc && m.token = 0
  && (match m.kind with | .signal _ => false | _ => true)

/-- A queued message may leave: it is the head of its team's send queue (R300). -/
def State.msgReady (s : State) (id : Nat) (m : Msg) : Bool :=
  s.msgFree m
  && (match m.team with
      | none => true
      | some t => !s.msgs.any fun (k, x) => k < id && x.team = some t && s.msgFree x)

/-- An Ethernet destination's endpoint entry enters an X-die's cache of 512 when it is used (R288, R295). Which entry leaves a full cache is
open; it is the oldest here (DESIGN CHOICE, log entry 99). -/
def State.cacheEndpoint (s : State) (die rank : Nat) : State :=
  match s.fab.chart with
  | none => s
  | some c =>
    match c.runOf rank with
    | none => s
    | some run =>
      if run.pod = c.pod || (c.heldBy die run.pod).isSome then s
      else
        let own := c.cached.filter (·.die = die)
        let kept := c.cached.filter (·.die ≠ die) ++ own.drop (own.length - 511)
        { s with fab := { s.fab with chart := some { c with cached := kept ++ [{ s.endEntry c run.pod with die := die }] } } }

/-- The entropy value that a message carries: the sender weighs the values of its endpoint against the congestion scores; how is open (R298,
R299). -/
def State.entropyFor (s : State) (m : Msg) : Nat × State :=
  match m.route with
  | .torus _ _ _ => (0, s)
  | .ether pod _ _ e =>
    let (v, s) := s.drawFree
    let scores := ((s.fab.chart.bind fun c => c.heldBy m.die pod).map (·.scores)).getD []
    (Config.entropyPick v scores % e, s)

/-- A sequenced contribution to a device that speaks extension version 1 only (R301). -/
def Msg.tooNew (m : Msg) : Bool := (match m.kind with | .contrib _ => true | _ => false) && !Config.speaks2 m.rank

/-- Sends a message by a port: it takes its credit, a place in the window, and an entropy value. -/
def State.sendOn (s : State) (id : Nat) (m : Msg) (p : Nat) : State :=
  let (e, s) := ((s.spendCredit p).updWindow m p (· + 1)).entropyFor m
  { s with msgs := s.msgs.put id { m with state := .sent, port := p, lastSent := s.ref, entropy := e, inWindow := true,
                                          reply := if m.tooNew then some ([], FaultCode.tier.code.toNat) else m.reply } }

/-- A message leaves by a link that has room. -/
def State.leave (s : State) (id : Nat) (m : Msg) : State :=
  match s.linkFor m with
  | none => s
  | some p => s.sendOn id { m with firstSent := s.ref } p

/-- Sends a queued message if a link has room. -/
def State.trySend (s : State) (id : Nat) : State :=
  match s.msgs.get? id with
  | none => s
  | some m => if s.msgReady id m then s.leave id m else s

/-- Every message that can leave does, in order of issue. -/
def State.pump (s : State) : State :=
  (s.msgs.filter fun (_, m) => m.state = .queued).foldl (fun s (id, _) => s.trySend id) s

/-- A new message of this rank. -/
def State.addMsg (s : State) (m : Msg) : Nat × State :=
  let (id, s) := (if m.loc then s else s.cacheEndpoint m.die m.rank).fresh
  let route := (s.fab.chart.bind fun c => s.routeOf c m.die m.rank).getD m.route
  let s := { s with msgs := s.msgs.put id { m with seq := s.fab.seq, route := route }, fab := { s.fab with seq := s.fab.seq + 1 } }
  (id, s.trySend id)

/-- A message of a group to a unit of another rank. -/
def mkMsg (r : GRef) (t : Team) (g : Group) (op : Option Nat) (rank region off lane : Nat) (va : DWord) (kind : MsgKind) : Msg :=
  { inbound := false, rank := rank, region := region, off := off, kind := kind, state := .queued, owner := some r,
    ctx := t.ctx, op := op, copy := none, team := some r.team, port := 0, seq := 0, resends := 0, firstSent := 0,
    lastSent := 0, after := [], va := va.toNat, lane := lane, hdr := g.pc, slot := g.slot, token := 0, reply := none, die := dieOf t.coreN }

/-- Instructions of a team in its fabric send queue (R300): those with a message that has not left, or that is to be sent again after a
retry-after delay, SIGWAITs not yet met, and FABRIC instructions on the own device until they complete (the last DEDUCED, log entry 90). -/
def State.sendQueue (s : State) (team : Nat) : Nat :=
  let waiting := (s.ops.filter fun (_, o) => o.owner.team = team
    && (o.fab || (match o.kind with | .sigwait _ _ _ _ met => !met | _ => false))).length
  let held (m : Msg) : Bool := match m.state with | .queued | .refused _ => true | _ => false
  let ops := ((s.msgs.filter fun (_, m) => m.team = some team && held m && !m.inbound).map fun (k, m) =>
    match m.op with | some o => o | none => k).filter fun k => !(s.ops.get? k).any (·.fab)
  waiting + ops.eraseDups.length

/-- The send queue of a team has no room (R300). -/
def State.sendFull (s : State) (team : Nat) : Bool := 8 ≤ s.sendQueue team

/-- The answer to another rank's message goes out (R296, R305): one that was not refused is noted, so that a duplicate is
discarded. -/
def State.answer (s : State) (id : Nat) (m : Msg) (data : List Byte) (status : Nat) : State :=
  { s with msgs := s.msgs.del id,
           fab := { s.fab with sent := s.fab.sent ++ [(m.rank, m.seq, data, status)],
                               seen := if status < 0x100 && !s.fab.seen.contains (m.rank, m.seq) then s.fab.seen ++ [(m.rank, m.seq)]
                                       else s.fab.seen } }

/-- Contributions of other ranks that have been applied, or refused, are answered (R124). -/
def State.flushAnswers (s : State) : State :=
  (s.msgs.filter fun (_, m) => m.inbound && m.state = .done && s.allDone m.after).foldl
    (fun s (id, m) => s.answer id m [] (match m.reply with | some (_, st) => st | none => 0)) s

/-- The condition of a SIGWAIT (R308). -/
def sigMet (eq : Bool) (v threshold : Nat) : Bool := if eq then v = threshold else threshold ≤ v

/-- The value of a counter at its home, by its address in a team's context; none when it cannot be read now. -/
def State.counterAt (s : State) (core ctx : Nat) (addr : DWord) : Option Nat :=
  match s.where_ core addr 8 with
  | .ok (.virt va region) =>
    match s.xlate none ctx (s.ctxWorld ctx) va .read (s.targetWorld region) with
    | .ok p => if s.isLost p.pa then none else some (leNat (s.homeBytes p.pa 8))
    | .error _ => none
  | .ok (.spad c off) => some (s.spad.num (c * 2 ^ 21 + off) 8)
  | _ => none

/-- The line of a counter is lost (R386). -/
def State.counterLost (s : State) (core ctx : Nat) (addr : DWord) : Bool :=
  match s.where_ core addr 8 with
  | .ok (.virt va region) =>
    (match s.xlate none ctx (s.ctxWorld ctx) va .read (s.targetWorld region) with
    | .ok p => s.isLost p.pa
    | .error _ => false)
  | _ => false

/-- Every SIGWAIT is checked against the value its counter has now (R308). -/
def State.watchSignals (s : State) : State :=
  { s with ops := s.ops.map fun (k, o) =>
      match o.kind, s.team? o.owner.team with
      | .sigwait a v eq d false, some t =>
        (match s.counterAt t.coreN t.ctx a with
          | some x => if sigMet eq x v.toNat then
              (k, { o with kind := .sigwait a v eq d true, writes := if d = 63 then [] else [.s d (BitVec.ofNat 64 x)] })
            else (k, o)
          | none => (k, o))
      | _, _ => (k, o) }

/-- The SIGWAITs of pilot commands likewise (R314). -/
def State.watchPilots (s : State) : State :=
  let step (x : PilotCmd) : PilotCmd :=
    match x.wait, x.result, s.fab.colls.get? x.coll with
    | some (a, n, eq), none, some c =>
      (match s.counterAt 0 c.ctx a with
      | some v => if sigMet eq v n then { x with result := some v } else x
      | none => x)
    | _, _, _ => x
  { s with fab := { s.fab with pilotCmds := s.fab.pilotCmds.map fun (k, x) => (k, step x) } }

/-- A port changes state: CHG is set. -/
def Port.become (p : Port) (st : Nat) : Port := if p.state = st then p else { p with state := st, chg := true }

/-- Messages that were sent on a port and are not acknowledged. -/
def State.portBusy (s : State) (port : Nat) : Bool := s.msgs.any fun (_, m) => !m.inbound && m.port = port && m.state = .sent

/-- A drained port whose last message has completed is in state 3 (R303). -/
def State.settlePorts (s : State) : State :=
  { s with fab := { s.fab with ports := s.portList.map fun (n, p) =>
      if p.drain && p.state = 2 && !s.portBusy n then p.become 3 else p } }

/-- The team waits to return to a core (R378): saved, or its pages are there; its context is not halted. -/
def State.waitsReturn (s : State) (t : Team) : Bool :=
  t.core.isNone && t.ioToken = 0 && !t.groups.isEmpty
  && (t.state = .saved || (t.state = .suspended && t.answered))
  && (match s.ctx? t.ctx with | some c => c.state = .live && c.pending.isNone && !c.halting && !c.halted | none => false)

/-- The retirement of a cluster ends once its teams have left it, and those that wait to return are restored on others (R452): CLFAIL and its
islands say so. -/
def State.settleCluster (s : State) : State :=
  match s.hst.retiring with
  | none => s
  | some c =>
    if s.teams.any fun x => x.2.core.any (fun k => clusterOf k = c) || (s.waitsReturn x.2 && x.2.cluster = c) then s
    else
      let bit : BitVec 16 := 1#16 <<< c
      let islands : Tbl Island := s.islands.map fun x => (x.1, if x.1 / 2 = c then { x.2 with state := 3, mhz := 0 } else x.2)
      { s with islands := islands,
               hst := { s.hst with retiring := none, clfail := s.hst.clfail ||| bit, retiredCl := s.hst.retiredCl ||| bit } }

/-- What goes on by itself. -/
def State.background (s : State) : State := s.flushRings.flushAnswers.watchSignals.watchPilots.settlePorts.settleCluster.pump

end Sys2Proof.Machine
end

