-- ==== Sys2Proof/Machine/Fetch.lean ====
section
/-! DEFINITION. Fetching (03_encoding.md R63, R75 to R77, R81), which group issues (05_sequencer.md R131), and what a step does
before it runs an instruction: the schedule of the model and the clocks. -/
namespace Sys2Proof.Machine
open Sys2Proof

/-! ### Fetch -/

/-- The world of a team's context. -/
def State.worldOf (s : State) (t : Team) : Nat := s.ctxWorld t.ctx

/-- One word of code at a local virtual address (R63). -/
def State.fetchWord (s : State) (t : Team) (pc : Nat) : Except MemErr (Word × List Found) :=
  match s.xlate t.core t.ctx (s.worldOf t) pc .fetch with
  | .error e => .error e
  | .ok p => if s.isLost p.pa then .error (.fault .dataLost 0) else .ok (BitVec.ofNat 32 (s.homeNum p.pa 4), p.tlb ++ s.readLine p.pa)

/-- `n` words of code from an address upward, or the first error with its address. -/
def State.fetchWords (s : State) (t : Team) (pc : Nat) : Nat → Except (MemErr × Nat) (List Word × List Found)
  | 0 => .ok ([], [])
  | n + 1 =>
    match s.fetchWord t pc with
    | .error e => .error (e, pc)
    | .ok (w, es) =>
      match State.fetchWords s t (pc + 4) n with
      | .error e => .error e
      | .ok (ws, fs) => .ok (w :: ws, es ++ fs)

/-- The word is a CLAUSE header: OP 0x01 with LEN 00 (R64, R75). -/
def isHeader (w : Word) : Bool := w.extractLsb' 0 9 = 4

/-- Why a clause is not opened. -/
inductive ClauseErr where
  | mem (e : MemErr) (va : Nat)
  | bad (c : FaultCode) (slot word : Nat)
  deriving DecidableEq, Repr

/-- Reads and checks the instructions of a clause from `pc`, the one in `slot` first (R81). DEDUCED (log entry 77): the words are read
slot by slot, so that the encoding fault of an earlier slot goes before a missing or refused page of a later one. -/
def State.readClause (s : State) (t : Team) (v role count pc slot : Nat) :
    Nat → Except ClauseErr (List Word × List Found)
  | 0 => .ok ([], [])
  | n + 1 =>
    match s.fetchWord t pc with
    | .error e => .error (.mem e pc)
    | .ok (w, es) =>
      let len := lenWords (w.extractLsb' 0 2)
      match s.fetchWords t (pc + 4) (len - 1) with
      | .error (e, va) => .error (.mem e va)
      | .ok (ws, fs) =>
        match decodeRaw (w :: ws) with
        | .error .truncated => .error (.bad .illOp slot 0)
        | .error (.bad c word) => .error (.bad c slot word)
        | .ok (i, _) =>
          match firstBad (slotChecks i v role (slot + 1 = count)) with
          | some (c, word) => .error (.bad c slot word)
          | none =>
            match State.readClause s t v role count (pc + 4 * len) (slot + 1) n with
            | .error e => .error e
            | .ok (rest, gs) => .ok (w :: ws ++ rest, es ++ fs ++ gs)

/-- The role of a group (R133). -/
def Shape.roleOf (x : Shape) (i : Nat) : Nat := x.roles / 4 ^ i % 4

/-- A fetch that cannot be made, at a landing point or a fall-through (R63). -/
def State.fetchFault (s : State) (r : GRef) (e : MemErr) (va : Nat) (hdr : DWord) : State :=
  match e with
  | .missing => s.suspend r [⟨2, va⟩]
  | .fault c l => s.fatal r { code := c, detail := l * 256 + 0xFF, slot := some 0xFF, addr := BitVec.ofNat 64 va, hdr := some hdr }

/-- The clause that a fall-through or a control transfer to the group's PC is reported at (R76): the branch's, where the landing point could not
be read when the branch issued (R142); else the clause left last. -/
def Group.cameFrom (g : Group) : DWord := ((g.landings.find? fun x => x.1 = g.pc).map (·.2)).getD g.lastHdr

/-- The group has found a header at its PC. -/
def Group.landed (g : Group) : Group := { g with landings := g.landings.filter fun x => x.1 ≠ g.pc }

/-- What a group does next: the state before, and the instruction, if one issues. At a clause boundary the group settles
(R137), and the word at its PC must be a CLAUSE header (R76). -/
def State.groupNext (s : State) (r : GRef) : State × Option Instr :=
  let s := { s with cur := some r }
  match s.current with
  | none => (s, none)
  | some (_, t, g) =>
    if g.retired then (s, none)
    else
      match g.clause with
      | some _ => (s, g.instr)
      | none =>
        let s := s.settle r t g
        match s.current with
        | none => (s, none)
        | some (_, t, g) =>
          if g.retired || t.stopping.isSome then (s, none)
          else
            match s.fetchWord t g.pc.toNat with
            | .error e => (s.fetchFault r e g.pc.toNat g.pc, none)
            | .ok (w, es) =>
              let s := s.addTlb es
              if isHeader w then (s.updGroup r fun g => g.landed, some (.clause (FmtBC.unpack w)))
              else (s.fatal r { code := .clause, slot := some 0xFF, hdr := some g.cameFrom }, none)

/-! ### Which group issues (R131) -/

/-- Nothing stops the groups of the team: it is running, and its context neither ended nor halted (R157, R160). -/
def State.teamLive (s : State) (t : Team) : Bool :=
  t.state = .running && t.core.isSome
  && (match s.ctx? t.ctx with
      | some c => c.pending.isNone && !c.halted && c.state = .live
      | none => false)

/-- The flags that the header at the group's PC waits on are all zero (R77). -/
def State.waitMet (s : State) (t : Team) (g : Group) : Bool :=
  g.resume.isSome ||
  match s.fetchWord t g.pc.toNat with
  | .error _ => true
  | .ok (w, _) =>
    !isHeader w || (List.range 12).all fun n => !(FmtBC.unpack w).wait.getLsbD n || g.flagCount n = 0

/-- The group's next clause waits on a flag (R77). -/
def State.flagHeld (s : State) (r : GRef) : Bool :=
  match s.team? r.team, s.group? r with
  | some t, some g => g.clause.isNone && !s.waitMet t g
  | _, _ => false

/-- A group whose wait on a flag has ended became ready now, or in the cycle after a YIELD (R131, R132). -/
def State.noteReady (s : State) (r : GRef) (held : Bool) : State :=
  if held && !s.flagHeld r then s.updGroup r fun g => { g with readySince := max s.ref g.yieldAt } else s

/-- The group may issue (R131): nothing holds it. -/
def State.ready (s : State) (t : Team) (i : Nat) (g : Group) : Bool :=
  let r : GRef := ⟨0, i⟩
  s.teamLive t && !g.retired && !g.withdrawn && !g.waiting && !g.held && g.sleepUntil.isNone
  && (g.place = .trapSlot || (g.place = .active && !g.intrap))
  && (match (s.part t.coreN (t.partOf r.grp)).swap with
      | some x => !(x.incoming.grp = i && (s.team? x.incoming.team).map (·.slot) = some t.slot)
          && !(x.outgoing.any fun o => o.grp = i && (s.team? o.team).map (·.slot) = some t.slot)
      | none => true)
  && (g.clause.isSome || (t.stopping.isNone && s.waitMet t g))

/-- The groups on a partition: team slot, group, key. -/
def State.onPart (s : State) (core p : Nat) : List (GRef × Team × Group) :=
  s.teams.flatMap fun (k, t) =>
    if t.core = some core then
      ((List.range t.groups.length).zip t.groups).filterMap fun (i, g) =>
        if t.partOf i = p then some (⟨k, i⟩, t, g) else none
    else []

/-- A group comes before another in the issue order: ready earlier; in the same cycle, one that has not just yielded first (R132), then
nearer after the slot that issued last (R131). DESIGN CHOICE (log entry 76): the spec does not define the partition slot number of the
round-robin; it is team slot * 32 + group index here. -/
def issueBefore (last : Nat) (a b : GRef × Team × Group) : Bool :=
  let slot (x : GRef × Team × Group) : Nat := (x.2.1.slot * 32 + x.1.grp + 192 * 32 - (last + 1)) % (192 * 32)
  let yielded (x : GRef × Team × Group) : Bool := x.2.2.yieldAt ≠ 0 && x.2.2.yieldAt = x.2.2.readySince
  a.2.2.readySince < b.2.2.readySince
  || (a.2.2.readySince = b.2.2.readySince && ((!yielded a && yielded b) || (yielded a == yielded b && slot a < slot b)))

/-- The group that a partition issues next (R131): the trap slot first, then the ready active group that became ready
earliest. -/
def State.pick (s : State) (core p : Nat) : Option (GRef × Team × Group) :=
  let cand := (s.onPart core p).filter fun (r, t, g) => s.ready t r.grp g
  match cand.find? fun x => x.2.2.place = .trapSlot with
  | some x => some x
  | none =>
    cand.foldl (fun best x =>
      match best with
      | none => some x
      | some b => if issueBefore (s.part core p).last x b then some x else some b) none

/-- The trap slot of a partition is free, and the group whose trap was raised first takes it, once it is in the active set (R155). -/
def State.grantTrap (s : State) (core part : Nat) : State :=
  let q := s.part core part
  match q.trapOwner, q.trapQueue with
  | none, r :: rest =>
    match s.group? r with
    | some g =>
      if g.place = .active then
        (s.putPart core part { q with trapOwner := some r, trapQueue := rest }).updGroup r fun g =>
          { g with place := .trapSlot, readySince := s.ref }
      else s
    | none => s.putPart core part { q with trapQueue := rest }
  | _, _ => s

/-! ### Time -/

/-- A member of the barrier waits on its current phase, and no team that holds members is saved, or belongs to a context that is halted or
halting (R153, R160). -/
def State.lookoutRuns (s : State) (b : Barrier) : Bool :=
  (b.waiters.any fun w => w.2 = b.phase)
  && b.members.all fun m =>
    match s.team? m.who.team with
    | some t => (t.core.isSome || t.state = .joining) && !(((s.ctx? t.ctx).map fun c => c.halted || c.halting).getD false)
    | none => true

/-- Reference cycles pass: the clocks and the running lookouts count (R90, R153). -/
def State.tick (s : State) (dt : Nat) : State :=
  if dt = 0 then s
  else
    { s with ref := s.ref + dt
             islands := s.islands.map fun (k, i) => (k, { i with acc := i.acc + dt * i.mhz })
             bars := s.bars.map fun (k, b) => (k, if s.lookoutRuns b then { b with lookout := b.lookout + dt } else b) }

/-! ### A new group (R357) -/

/-- One advance of a stochastic-rounding lane state (R45). -/
def srStep (x : Word) : Word :=
  let x := x ^^^ (x <<< 13)
  let x := x ^^^ (x >>> 17)
  x ^^^ (x <<< 5)

/-- `n` advances of a lane state. -/
def srSteps (x : Word) : Nat → Word
  | 0 => x
  | n + 1 => srSteps (srStep x) n

/-- SRInit (R45): the lane states of a %srseed value. -/
def srInit (seed : DWord) : VReg :=
  VReg.build fun l =>
    let x := seed.extractLsb' 32 32 ^^^ BitVec.ofNat 32 ((l + 1) * 0x9E3779B9)
    srSteps (if x = 0 then 0x6A09E667 else x) (seed.extractLsb' 0 32).toNat

/-- Every group of a newly placed team starts so (R357). -/
def Shape.startGroup (x : Shape) (entry arg s1 seed : DWord) (place : Place) : Group :=
  let g : Group :=
    { sreg := Vector.replicate 64 0, vreg := Vector.replicate 64 VReg.zero, preg := Vector.replicate 8 0,
      flag := Vector.replicate 12 0, pc := entry, clause := none, resume := none, lastHdr := entry, divTop := [], divSpilled := 0,
      exited := 0, cvm := x.cvm, srseed := seed, sr := srInit seed, trapvec := x.trapvec, trapcode := 0, trappc := 0,
      trapinfo := 0, cfg := x.cfg, intrap := false, trapmask := 0, trapdepth := 0, retired := false, withdrawn := false,
      waiting := false, woken := false, waitIds := [], waitPhase := 0, waitFrom := 0, place := place, entered := 0, readySince := 0,
      eligible := false, sleepUntil := none, seals := [] }
  ((g.setMask Mask.all).setS 0 arg).setS 1 s1

/-! ### A program in place (log entry 5) -/

/-- The pages of the placed program: virtual 0x40_0000 is a writable and executable 2 MiB page at physical 0x40_0000; the
tables stand from physical 0x1_0000 (R203, R204). -/
def progTables (m : Memory) : Memory :=
  let m := m.writeN 0x10000 (leBytes 8 0x11001)
  let m := m.writeN 0x11000 (leBytes 8 0x12001)
  let m := m.writeN 0x12000 (leBytes 8 0x13001)
  m.writeN 0x13010 (leBytes 8 0x40000F)

/-- The words of a program in memory. -/
def placeWords (m : Memory) (a : Nat) : List Word → Memory
  | [] => m
  | w :: ws => placeWords (m.writeN a (leBytes 4 w.toNat)) (a + 4) ws

/-- The shape of the team that runs it: one general group with every vector register. -/
def progShape : Shape := ⟨1, 64, 0, 0, 1024, 0, 0, 0, []⟩

/-- The team that runs it: one group on core 0, partition 0. -/
def progTeam (g : Group) : Team :=
  { ctx := 1, grid := none, index := 0, depth := 0, gridIdx := 0xFFFFFFFF, isTask := true, taskId := 0, arg := 0,
    entry := 0x400000, seed := 0, priority := 0, shape := progShape, state := .running, core := some 0, cluster := 0,
    slot := 0, part := 0, base := 0, phys := [], tileTy := [], groups := [g], frameSlot := 0, saves := 0, pfcount := 0,
    rings := [], logs := [], bars := [], locks := [], mcast := [], chains := [], bank0 := [], bank1 := [], cur := 0,
    unit := .idle, atq := [], tep := none, successor := none, children := [], joined := [], hamper := [],
    stopping := none, missing := [], token := 0, answered := false, first := 0xFF, order := 0, relq := [], voc := [], tokenAt := 0, succ := false }

/-- Its context: world 2, page table at physical 0x1_0000. -/
def progCtx : Ctx :=
  { world := 2, prot := false, fabric := true, codeMut := true, root := 0x10000, ringBase := 0, ringRecs := 8,
    frameBase := 0, slotBytes := 0x8000, spillBase := 0x10000, spillBytes := 0x2000, slots := 1, lookout := 2 ^ 26,
    tqMask := 0, state := .live, posted := 0, pending := none, heldRec := none, halting := false, halted := false,
    destroy := none }

/-- The machine with an instruction's words where the next step fetches them. No other team stays on core 0, so that the step issues this
one's group (R131). -/
def State.withProgram (s : State) (ws : List Word) : State :=
  let hdr := ws.headD 0
  let isHdr := isHeader hdr
  let g := progShape.startGroup 0x400000 0 0 0 .active
  let g := if isHdr then g else { g with clause := some ⟨0, 1, 1, 0, ws, 0⟩ }
  let code := if isHdr then ws else (FmtBC.word0 ⟨0, 1, 0, 0⟩) :: ws
  { s with cur := some ⟨0, 0⟩, sched := [],
           mem := placeWords (progTables s.mem) 0x400000 code,
           ctxs := s.ctxs.put 1 progCtx, teams := Tbl.put (s.teams.filter fun x => x.2.core ≠ some 0) 0 (progTeam g),
           parts := s.parts.filter fun x => x.1 / 8 ≠ 0,
           stk := { s.stk with ready := true, memcap := 0xC000000000 },
           sec := { s.sec with fwmat := List.replicate 16 (BitVec.allOnes 16) } }

end Sys2Proof.Machine
end

