-- ==== Sys2Proof/Machine/Flags.lean ====
section
/-! DEFINITION. Flags and conditions: the outstanding counts that WAIT and WAITF read (03_encoding.md R77, R78), the conditions
of SCMP, VCMP and VFCMP on integers (R85), and the legal values of the control registers (02_numbers.md R49; R148). -/
namespace Sys2Proof.Machine
open Sys2Proof

/-- Every flag of a mask has a count of zero (R77, R142). -/
def Group.flagsClear (g : Group) (m : BitVec 12) : Bool :=
  (List.range 12).all fun n => !m.getLsbD n || g.flagCount n = 0

/-- The conditions of SCMP and VCMP on two w-bit operands (R85). -/
def condOf {w : Nat} (c : Nat) (a b : BitVec w) : Bool :=
  match c with
  | 0 => a == b
  | 1 => a != b
  | 2 => a.slt b
  | 3 => a.sle b
  | 4 => b.slt a
  | 5 => b.sle a
  | 6 => a.ult b
  | 7 => a.ule b
  | 8 => b.ult a
  | _ => b.ule a

/-- The fields of %cvm: (bit of ROUND, bit of SAT) for each destination (R48). -/
def cvmFields : List (Nat × Nat) :=
  [(0, 3), (5, 8), (10, 13), (15, 18), (20, 23), (25, 28), (30, 33), (35, 38), (40, 43), (45, 48)]

/-- A value that SWR may write to %cvm (R49). -/
def cvmOk (x : DWord) : Bool :=
  bitsOf x.toNat 63 50 = 0 && cvmFields.all fun (r, t) => bitsOf x.toNat (r + 2) r < 6 && bitsOf x.toNat (t + 1) t < 3

/-- A value that SWR may write to %cfg (R148). -/
def cfgOk (x : DWord) : Bool := bitsOf x.toNat 63 2 = 0

/-- A value that SWR may write to %trapvec and %trappc (R148). -/
def codeAddrOk (x : DWord) : Bool := bitsOf x.toNat 63 56 = 0 && bitsOf x.toNat 1 0 = 0

end Sys2Proof.Machine
end

