-- ==== Sys2Proof/Machine/Operands.lean ====
section
/-! DEFINITION. Operand B in every form (03_encoding.md R67, R70, R71; 02_numbers.md R53, R54), and the packed elements of a lane
(R39, R68). The immediates of the float instructions stand with their formats, in Machine/VectorFloat.lean. -/
namespace Sys2Proof.Machine
open Sys2Proof

/-- Operand B of a scalar instruction (R53, R70, R144): the literal, IMM24 extended, or s[B]. -/
def Group.opS (g : Group) (f : FmtBR) (zero : Bool) : DWord :=
  match f.tail.lit? with
  | some l => l
  | none =>
    if f.immSel then (if zero then f.w2.imm.zeroExtend 64 else f.w2.imm.signExtend 64) else g.s f.b.toNat

/-- The element width of an integer TYPE (R68). -/
def elemBits (ty : Nat) : Nat := if ty ≤ 1 then 32 else if ty ≤ 3 then 16 else 8

/-- An integer TYPE is signed: i32, i16x2, i8x4 (R68). -/
def tySigned (ty : Nat) : Bool := ty % 2 = 0

/-- An immediate for a vector integer instruction: extended to 32 bits, or truncated to the element and replicated (R53,
R54). -/
def immVec (imm : BitVec 24) (ty : Nat) (zero : Bool) : Word :=
  if ty ≤ 1 then (if zero then imm.zeroExtend 32 else imm.signExtend 32)
  else if ty ≤ 3 then
    let e : BitVec 16 := imm.truncate 16
    e ++ e
  else
    let e : BitVec 8 := imm.truncate 8
    e ++ e ++ e ++ e

/-- Operand B of a vector integer instruction in lane `l` (R67, R70). -/
def Group.opV (g : Group) (f : FmtBR) (zero : Bool) (l : Nat) : Word :=
  match f.tail.lit? with
  | some x => x.extractLsb' 0 32
  | none =>
    if f.immSel then immVec f.w2.imm f.ty.toNat zero
    else if f.sb = 1 then (g.s f.b.toNat).extractLsb' 0 32
    else (g.v f.b.toNat).lane l

/-- Element `k` of width `w` of a lane (R39). -/
def elem (w k : Nat) (x : Word) : BitVec w := x.extractLsb' (w * k) w

/-- An operation on elements: given whether the type is signed, and three source elements. -/
abbrev ElemOp := (w : Nat) → Bool → BitVec w → BitVec w → BitVec w → BitVec w

/-- Applies an operation to every element of a lane (R39, R162). -/
def mapElems (op : ElemOp) (ty : Nat) (a b c : Word) : Word :=
  let sg := tySigned ty
  if ty ≤ 1 then op 32 sg a b c
  else if ty ≤ 3 then
    op 16 sg (elem 16 1 a) (elem 16 1 b) (elem 16 1 c) ++ op 16 sg (elem 16 0 a) (elem 16 0 b) (elem 16 0 c)
  else
    op 8 sg (elem 8 3 a) (elem 8 3 b) (elem 8 3 c) ++ op 8 sg (elem 8 2 a) (elem 8 2 b) (elem 8 2 c)
      ++ op 8 sg (elem 8 1 a) (elem 8 1 b) (elem 8 1 c) ++ op 8 sg (elem 8 0 a) (elem 8 0 b) (elem 8 0 c)

/-- What a vector instruction does to its group: it reads its sources from the first group and writes into the second, so that
the two operations of a pair read before either writes (R74, R163). -/
abbrev Eff := Group → Group → Group

/-- The effect of one vector instruction on its own. -/
def Eff.run (e : Eff) (s : State) (n : Nat) : Host.Outcome State Fault Refusal :=
  s.issue n fun _ _ g => .done s (e g g)

/-- An effect that writes the selected lanes of v[D]. -/
def lanesEff (f : FmtBR) (x : Group → Nat → Word) : Eff := fun g0 g => g.setV f.d.toNat (g0.sel f) (x g0)

/-- An effect that writes the selected bits of p[D]. -/
def predEff (f : FmtBR) (x : Group → Nat → Bool) : Eff := fun g0 g =>
  let m := g0.sel f
  g.setP f.d.toNat ((g.p f.d.toNat &&& ~~~m) ||| (m &&& Mask.build (x g0)))

/-- The number of leading zeros of a w-bit number. -/
def clzNat (w x : Nat) : Nat := if x % 2 ^ w = 0 then w else w - 1 - (x % 2 ^ w).log2

/-- The number of one bits among the low `w` bits. -/
def popNat (x : Nat) : Nat → Nat
  | 0 => 0
  | w + 1 => b2n (x.testBit w) + popNat x w

end Sys2Proof.Machine
end

