-- ==== Sys2Proof/Machine/Scalar.lean ====
section
/-! DEFINITION. The scalar instructions (05_sequencer.md R144 to R146) and the predicate instructions (R147). -/
namespace Sys2Proof.Machine
open Sys2Proof

/-- A scalar instruction that writes `x a b` to s[D] (R144). -/
def scalarOp (f : FmtBR) (zero : Bool) (x : DWord → DWord → DWord) (s : State) : Host.Outcome State Fault Refusal :=
  s.issue f.len fun _ _ g => .done s (g.setS f.d.toNat (x (g.s f.a.toNat) (g.opS f zero)))

/-- SADD (R144). -/
def execSadd (f : FmtBR) (s : State) : Host.Outcome State Fault Refusal := scalarOp f false (· + ·) s
/-- SSUB (R144). -/
def execSsub (f : FmtBR) (s : State) : Host.Outcome State Fault Refusal := scalarOp f false (· - ·) s
/-- SMUL (R144). -/
def execSmul (f : FmtBR) (s : State) : Host.Outcome State Fault Refusal := scalarOp f false (· * ·) s

/-- The high 64 bits of a product, signed or natural (R144). -/
def mulHigh (nat : Bool) (a b : DWord) : DWord :=
  if nat then BitVec.ofNat 64 (a.toNat * b.toNat / 2 ^ 64) else BitVec.ofInt 64 (a.toInt * b.toInt / 2 ^ 64)

/-- SMULH (R144). -/
def execSmulh (f : FmtBR) (s : State) : Host.Outcome State Fault Refusal := scalarOp f false (mulHigh (f.sub = 1)) s
/-- SAND (R144). -/
def execSand (f : FmtBR) (s : State) : Host.Outcome State Fault Refusal := scalarOp f true (· &&& ·) s
/-- SOR (R144). -/
def execSor (f : FmtBR) (s : State) : Host.Outcome State Fault Refusal := scalarOp f true (· ||| ·) s
/-- SXOR (R144). -/
def execSxor (f : FmtBR) (s : State) : Host.Outcome State Fault Refusal := scalarOp f true (· ^^^ ·) s
/-- SANDN (R144). -/
def execSandn (f : FmtBR) (s : State) : Host.Outcome State Fault Refusal :=
  scalarOp f false (fun a b => a &&& ~~~b) s

/-- Shift left by a natural count: 0 from the width on (R144, R166). -/
def shlBy {w : Nat} (a : BitVec w) (n : Nat) : BitVec w := if w ≤ n then 0 else a <<< n
/-- Logical shift right: 0 from the width on. -/
def shrBy {w : Nat} (a : BitVec w) (n : Nat) : BitVec w := if w ≤ n then 0 else a >>> n
/-- Arithmetic shift right: 0 or all ones by the sign from the width on. -/
def sraBy {w : Nat} (a : BitVec w) (n : Nat) : BitVec w :=
  if w ≤ n then (if a.msb then BitVec.allOnes w else 0) else a.sshiftRight n

/-- SSHL (R144). -/
def execSshl (f : FmtBR) (s : State) : Host.Outcome State Fault Refusal :=
  scalarOp f true (fun a b => shlBy a b.toNat) s
/-- SSHR (R144). -/
def execSshr (f : FmtBR) (s : State) : Host.Outcome State Fault Refusal :=
  scalarOp f true (fun a b => shrBy a b.toNat) s
/-- SSRA (R144). -/
def execSsra (f : FmtBR) (s : State) : Host.Outcome State Fault Refusal :=
  scalarOp f true (fun a b => sraBy a b.toNat) s

/-- The smaller of two, signed or natural. -/
def minBV {w : Nat} (nat : Bool) (a b : BitVec w) : BitVec w :=
  if nat then (if a.ule b then a else b) else (if a.sle b then a else b)
/-- The larger of two, signed or natural. -/
def maxBV {w : Nat} (nat : Bool) (a b : BitVec w) : BitVec w :=
  if nat then (if a.ule b then b else a) else (if a.sle b then b else a)

/-- SMIN (R144). -/
def execSmin (f : FmtBR) (s : State) : Host.Outcome State Fault Refusal := scalarOp f false (minBV (f.sub = 1)) s
/-- SMAX (R144). -/
def execSmax (f : FmtBR) (s : State) : Host.Outcome State Fault Refusal := scalarOp f false (maxBV (f.sub = 1)) s

/-- SCMP (R146): all 96 bits of p[D] take the condition. -/
def execScmp (f : FmtBR) (s : State) : Host.Outcome State Fault Refusal :=
  s.issue f.len fun _ _ g =>
    .done s (g.setP f.d.toNat (if condOf f.sub.toNat (g.s f.a.toNat) (g.opS f false) then Mask.all else 0))

/-- SSEL (R144). -/
def execSsel (f : FmtBR) (s : State) : Host.Outcome State Fault Refusal :=
  s.issue f.len fun _ _ g =>
    .done s (g.setS f.d.toNat (if (g.p f.c.toNat).bit 0 then g.s f.a.toNat else g.opS f false))

/-- SMOV (R144). -/
def execSmov (f : FmtBR) (s : State) : Host.Outcome State Fault Refusal := scalarOp f false (fun _ b => b) s
/-- SPOPC (R144). -/
def execSpopc (f : FmtBR) (s : State) : Host.Outcome State Fault Refusal :=
  scalarOp f false (fun a _ => BitVec.ofNat 64 (popNat a.toNat 64)) s
/-- SCLZ (R144). -/
def execSclz (f : FmtBR) (s : State) : Host.Outcome State Fault Refusal :=
  scalarOp f false (fun a _ => BitVec.ofNat 64 (clzNat 64 a.toNat)) s

/-- SBFE (R144): the field of `a` that b[5:0] and b[14:8] name. -/
def sbfeVal (a b : DWord) : DWord :=
  BitVec.ofNat 64 (a.toNat / 2 ^ bitsOf b.toNat 5 0 % 2 ^ min (bitsOf b.toNat 14 8) 64)

/-- SBFI (R144): `d` with the field replaced by the low bits of `a`. -/
def sbfiVal (d a b : DWord) : DWord :=
  let pos := bitsOf b.toNat 5 0
  let m : DWord := BitVec.ofNat 64 ((2 ^ min (bitsOf b.toNat 14 8) 64 - 1) * 2 ^ pos)
  (d &&& ~~~m) ||| (shlBy a pos &&& m)

/-- SBFE (R144). -/
def execSbfe (f : FmtBR) (s : State) : Host.Outcome State Fault Refusal := scalarOp f true sbfeVal s
/-- SBFI (R144). -/
def execSbfi (f : FmtBR) (s : State) : Host.Outcome State Fault Refusal :=
  s.issue f.len fun _ _ g =>
    .done s (g.setS f.d.toNat (sbfiVal (g.s f.d.toNat) (g.s f.a.toNat) (g.opS f true)))

/-- The quotient of SDIV (R145). -/
def divVal (nat : Bool) (a b : DWord) : DWord :=
  if b = 0 then BitVec.allOnes 64
  else if nat then BitVec.ofNat 64 (a.toNat / b.toNat) else BitVec.ofInt 64 (a.toInt.tdiv b.toInt)

/-- The remainder of SREM (R145). -/
def remVal (nat : Bool) (a b : DWord) : DWord :=
  if b = 0 then a
  else if nat then BitVec.ofNat 64 (a.toNat % b.toNat) else BitVec.ofInt 64 (a.toInt.tmod b.toInt)

/-- SDIV and SREM (R145, R154): the result is written; then a zero divisor raises ARITH where %cfg.DZT is set. -/
def divide (f : FmtBR) (x : DWord → DWord → DWord) (detail : Nat) (s : State) : Host.Outcome State Fault Refusal :=
  s.issue f.len fun _ _ g =>
    let b := g.opS f false
    let g' := g.setS f.d.toNat (x (g.s f.a.toNat) b)
    if b = 0 ∧ g.cfg.getLsbD 1 then
      match g.clause with
      | some c =>
        if c.slot + 1 < c.count then .trap s g' { code := .arith, detail := detail } g.pc (c.slot + 1)
        else .trap s g' { code := .arith, detail := detail } (g.here + BitVec.ofNat 64 (4 * f.len)) 0
      | none => .trap s g' { code := .arith, detail := detail } g.pc 0
    else .done s g'

/-- SDIV (R145). -/
def execSdiv (f : FmtBR) (s : State) : Host.Outcome State Fault Refusal := divide f (divVal (f.sub = 1)) 0 s
/-- SREM (R145). -/
def execSrem (f : FmtBR) (s : State) : Host.Outcome State Fault Refusal := divide f (remVal (f.sub = 1)) 1 s
/-- SADDR (R144). -/
def execSaddr (f : FmtBR) (s : State) : Host.Outcome State Fault Refusal :=
  scalarOp f false (fun a b => a + (b <<< f.mod.toNat)) s

/-! ### Predicates (R147) -/

/-- A predicate instruction that writes every bit of p[D]. -/
def predOp (f : FmtBR) (x : Mask → Mask → Mask) (s : State) : Host.Outcome State Fault Refusal :=
  s.issue f.len fun _ _ g => .done s (g.setP f.d.toNat (x (g.p f.a.toNat) (g.p f.b.toNat)))

/-- PAND (R147). -/
def execPand (f : FmtBR) (s : State) : Host.Outcome State Fault Refusal := predOp f (· &&& ·) s
/-- POR (R147). -/
def execPor (f : FmtBR) (s : State) : Host.Outcome State Fault Refusal := predOp f (· ||| ·) s
/-- PXOR (R147). -/
def execPxor (f : FmtBR) (s : State) : Host.Outcome State Fault Refusal := predOp f (· ^^^ ·) s
/-- PANDN (R147). -/
def execPandn (f : FmtBR) (s : State) : Host.Outcome State Fault Refusal := predOp f (fun a b => a &&& ~~~b) s
/-- PNOT (R147). -/
def execPnot (f : FmtBR) (s : State) : Host.Outcome State Fault Refusal := predOp f (fun a _ => ~~~a) s

/-- PMOV, predicate to scalars (R147). -/
def execPmovToScalar (f : FmtBR) (s : State) : Host.Outcome State Fault Refusal :=
  s.issue f.len fun _ _ g =>
    let p := g.p f.a.toNat
    let d := f.d.toNat
    .done s (((g.setS d ((p.extractLsb' 0 32).zeroExtend 64)).setS (d + 1) ((p.extractLsb' 32 32).zeroExtend 64)).setS
      (d + 2) ((p.extractLsb' 64 32).zeroExtend 64))

/-- PMOV, scalars to predicate (R147). -/
def execPmovToPredicate (f : FmtBR) (s : State) : Host.Outcome State Fault Refusal :=
  s.issue f.len fun _ _ g =>
    let a := f.a.toNat
    .done s (g.setP f.d.toNat
      ((g.s (a + 2)).extractLsb' 0 32 ++ (g.s (a + 1)).extractLsb' 0 32 ++ (g.s a).extractLsb' 0 32))

/-- p[A] and Act (R147). -/
def Group.actPred (g : Group) (f : FmtBR) : Mask := g.p f.a.toNat &&& g.mask

/-- BALLOT (R147). -/
def execBallot (f : FmtBR) (s : State) : Host.Outcome State Fault Refusal :=
  s.issue f.len fun _ _ g =>
    let x := g.actPred f
    .done s ((g.setS f.d.toNat (x.extractLsb' 0 64)).setS (f.d.toNat + 1) ((x.extractLsb' 64 32).zeroExtend 64))

/-- PPOPC (R147). -/
def execPpopc (f : FmtBR) (s : State) : Host.Outcome State Fault Refusal :=
  s.issue f.len fun _ _ g => .done s (g.setS f.d.toNat (BitVec.ofNat 64 (g.actPred f).count))

/-- PFIRST (R147). -/
def execPfirst (f : FmtBR) (s : State) : Host.Outcome State Fault Refusal :=
  s.issue f.len fun _ _ g => .done s (g.setS f.d.toNat (BitVec.ofNat 64 ((g.actPred f).lanes.headD 96)))

/-- PTEST (R147). -/
def execPtest (f : FmtBR) (s : State) : Host.Outcome State Fault Refusal :=
  s.issue f.len fun _ _ g =>
    let x := g.actPred f
    let b : Bool := if f.sub = 0 then x ≠ 0 else if f.sub = 1 then x = g.mask else x = 0
    .done s (g.setP f.d.toNat (if b then Mask.all else 0))

end Sys2Proof.Machine
end

