-- ==== Sys2Proof/Machine/VectorInt.lean ====
section
/-! DEFINITION. The vector integer instructions (06_vector.md R165 to R169); Mix32 (R62) stands in Machine/Home.lean. -/
namespace Sys2Proof.Machine
open Sys2Proof

/-- An effect that applies an element operation to v[A], operand B and v[C] (R166). -/
def intEff (f : FmtBR) (zero : Bool) (op : ElemOp) : Eff :=
  lanesEff f fun g l => mapElems op f.ty.toNat ((g.v f.a.toNat).lane l) (g.opV f zero l) ((g.v f.c.toNat).lane l)

/-- An exact result clamped to the range of a type (R166). -/
def clampTo (w : Nat) (sg : Bool) (x : Int) : BitVec w :=
  if sg then BitVec.ofInt w (max (-(2 ^ (w - 1))) (min x (2 ^ (w - 1) - 1)))
  else BitVec.ofInt w (max 0 (min x (2 ^ w - 1)))

/-- The number an element stands for. -/
def valOf {w : Nat} (sg : Bool) (x : BitVec w) : Int := if sg then x.toInt else x.toNat

/-- VADD (R166). -/
def effVadd (f : FmtBR) : Eff := intEff f false fun w sg a b _ =>
  if f.w1.sat = 1 then clampTo w sg (valOf sg a + valOf sg b) else a + b
/-- VSUB (R166). -/
def effVsub (f : FmtBR) : Eff := intEff f false fun w sg a b _ =>
  if f.w1.sat = 1 then clampTo w sg (valOf sg a - valOf sg b) else a - b
/-- VMUL (R166). -/
def effVmul (f : FmtBR) : Eff := intEff f false fun _ _ a b _ => a * b
/-- VMULH (R166). -/
def effVmulh (f : FmtBR) : Eff := intEff f false fun w sg a b _ => BitVec.ofInt w (valOf sg a * valOf sg b / 2 ^ w)
/-- VMAD (R166). -/
def effVmad (f : FmtBR) : Eff := intEff f false fun _ _ a b c => a * b + c
/-- VAND (R166). -/
def effVand (f : FmtBR) : Eff := intEff f false fun _ _ a b _ => a &&& b
/-- VOR (R166). -/
def effVor (f : FmtBR) : Eff := intEff f false fun _ _ a b _ => a ||| b
/-- VXOR (R166). -/
def effVxor (f : FmtBR) : Eff := intEff f false fun _ _ a b _ => a ^^^ b
/-- VANDN (R166). -/
def effVandn (f : FmtBR) : Eff := intEff f false fun _ _ a b _ => a &&& ~~~b
/-- VSHL (R166). -/
def effVshl (f : FmtBR) : Eff := intEff f true fun _ _ a b _ => shlBy a b.toNat
/-- VSHR (R166). -/
def effVshr (f : FmtBR) : Eff := intEff f true fun _ _ a b _ => shrBy a b.toNat
/-- VSRA (R166). -/
def effVsra (f : FmtBR) : Eff := intEff f true fun _ _ a b _ => sraBy a b.toNat
/-- VMIN (R166). -/
def effVmin (f : FmtBR) : Eff := intEff f false fun _ sg a b _ => minBV (!sg) a b
/-- VMAX (R166). -/
def effVmax (f : FmtBR) : Eff := intEff f false fun _ sg a b _ => maxBV (!sg) a b
/-- VABS (R166). -/
def effVabs (f : FmtBR) : Eff := intEff f false fun w sg a _ _ =>
  if !sg || !a.msb then a
  else if f.w1.sat = 1 then clampTo w true (-a.toInt) else -a
/-- VNEG (R166). -/
def effVneg (f : FmtBR) : Eff := intEff f false fun w sg a _ _ =>
  if f.w1.sat = 1 then clampTo w sg (-(valOf sg a)) else -a
/-- VPOPC (R166). -/
def effVpopc (f : FmtBR) : Eff := intEff f false fun w _ a _ _ => BitVec.ofNat w (popNat a.toNat w)
/-- VCLZ (R166). -/
def effVclz (f : FmtBR) : Eff := intEff f false fun w _ a _ _ => BitVec.ofNat w (clzNat w a.toNat)

/-- VCMP (R167). -/
def effVcmp (f : FmtBR) : Eff := predEff f fun g l =>
  condOf f.sub.toNat ((g.v f.a.toNat).lane l) (g.opV f false l)
/-- VSEL (R168). -/
def effVsel (f : FmtBR) : Eff := lanesEff f fun g l =>
  if (g.p f.c.toNat).bit l then (g.v f.a.toNat).lane l else g.opV f false l
/-- VMOV (R168). -/
def effVmov (f : FmtBR) : Eff := lanesEff f fun g l => g.opV f false l

/-- VBFE on one lane (R169). -/
def vbfeVal (sg : Bool) (a b : Word) : Word :=
  let pos := bitsOf b.toNat 4 0
  let len := min (bitsOf b.toNat 13 8) 32
  let x := a.toNat / 2 ^ pos % 2 ^ len
  if len = 0 then 0
  else if sg && x.testBit (len - 1) then BitVec.ofInt 32 ((x : Int) - 2 ^ len) else BitVec.ofNat 32 x
/-- VBFI on one lane (R169). -/
def vbfiVal (c a b : Word) : Word :=
  let pos := bitsOf b.toNat 4 0
  let m : Word := BitVec.ofNat 32 ((2 ^ min (bitsOf b.toNat 13 8) 32 - 1) * 2 ^ pos)
  (c &&& ~~~m) ||| (shlBy a pos &&& m)

/-- VBFE (R169). -/
def effVbfe (f : FmtBR) : Eff := lanesEff f fun g l => vbfeVal (f.ty = 0) ((g.v f.a.toNat).lane l) (g.opV f true l)
/-- VBFI (R169). -/
def effVbfi (f : FmtBR) : Eff := lanesEff f fun g l =>
  vbfiVal ((g.v f.c.toNat).lane l) ((g.v f.a.toNat).lane l) (g.opV f true l)

/-- VHASH (R166). -/
def effVhash (f : FmtBR) : Eff := lanesEff f fun g l => mix32 ((g.v f.a.toNat).lane l)

/-! ### The instructions -/

/-- VADD (R166). -/
def execVadd (f : FmtBR) (s : State) : Host.Outcome State Fault Refusal := (effVadd f).run s f.len
/-- VSUB (R166). -/
def execVsub (f : FmtBR) (s : State) : Host.Outcome State Fault Refusal := (effVsub f).run s f.len
/-- VMUL (R166). -/
def execVmul (f : FmtBR) (s : State) : Host.Outcome State Fault Refusal := (effVmul f).run s f.len
/-- VMULH (R166). -/
def execVmulh (f : FmtBR) (s : State) : Host.Outcome State Fault Refusal := (effVmulh f).run s f.len
/-- VMAD (R166). -/
def execVmad (f : FmtBR) (s : State) : Host.Outcome State Fault Refusal := (effVmad f).run s f.len
/-- VAND (R166). -/
def execVand (f : FmtBR) (s : State) : Host.Outcome State Fault Refusal := (effVand f).run s f.len
/-- VOR (R166). -/
def execVor (f : FmtBR) (s : State) : Host.Outcome State Fault Refusal := (effVor f).run s f.len
/-- VXOR (R166). -/
def execVxor (f : FmtBR) (s : State) : Host.Outcome State Fault Refusal := (effVxor f).run s f.len
/-- VANDN (R166). -/
def execVandn (f : FmtBR) (s : State) : Host.Outcome State Fault Refusal := (effVandn f).run s f.len
/-- VSHL (R166). -/
def execVshl (f : FmtBR) (s : State) : Host.Outcome State Fault Refusal := (effVshl f).run s f.len
/-- VSHR (R166). -/
def execVshr (f : FmtBR) (s : State) : Host.Outcome State Fault Refusal := (effVshr f).run s f.len
/-- VSRA (R166). -/
def execVsra (f : FmtBR) (s : State) : Host.Outcome State Fault Refusal := (effVsra f).run s f.len
/-- VMIN (R166). -/
def execVmin (f : FmtBR) (s : State) : Host.Outcome State Fault Refusal := (effVmin f).run s f.len
/-- VMAX (R166). -/
def execVmax (f : FmtBR) (s : State) : Host.Outcome State Fault Refusal := (effVmax f).run s f.len
/-- VABS (R166). -/
def execVabs (f : FmtBR) (s : State) : Host.Outcome State Fault Refusal := (effVabs f).run s f.len
/-- VNEG (R166). -/
def execVneg (f : FmtBR) (s : State) : Host.Outcome State Fault Refusal := (effVneg f).run s f.len
/-- VPOPC (R166). -/
def execVpopc (f : FmtBR) (s : State) : Host.Outcome State Fault Refusal := (effVpopc f).run s f.len
/-- VCLZ (R166). -/
def execVclz (f : FmtBR) (s : State) : Host.Outcome State Fault Refusal := (effVclz f).run s f.len
/-- VCMP (R167). -/
def execVcmp (f : FmtBR) (s : State) : Host.Outcome State Fault Refusal := (effVcmp f).run s f.len
/-- VSEL (R168). -/
def execVsel (f : FmtBR) (s : State) : Host.Outcome State Fault Refusal := (effVsel f).run s f.len
/-- VMOV (R168). -/
def execVmov (f : FmtBR) (s : State) : Host.Outcome State Fault Refusal := (effVmov f).run s f.len
/-- VBFE (R169). -/
def execVbfe (f : FmtBR) (s : State) : Host.Outcome State Fault Refusal := (effVbfe f).run s f.len
/-- VBFI (R169). -/
def execVbfi (f : FmtBR) (s : State) : Host.Outcome State Fault Refusal := (effVbfi f).run s f.len
/-- VHASH (R166). -/
def execVhash (f : FmtBR) (s : State) : Host.Outcome State Fault Refusal := (effVhash f).run s f.len

end Sys2Proof.Machine
end

