-- ==== Sys2Proof/Machine/Num.lean ====
section
/-! DEFINITION. The number formats, roundings and conversions of 02_numbers.md (R36 to R61), on bit patterns as natural
numbers. A finite value is a sign, a natural significand and a power of two: nothing is approximated before the one rounding
that the manual asks for. -/
namespace Sys2Proof.Machine
open Sys2Proof

/-! ### Formats (R36) -/

/-- How a format uses its top exponent code (R36): with infinities and NaNs, as E4M3, or with finite values only. -/
inductive Special where
  | ieee | e4m3 | finite
  deriving DecidableEq, Repr

/-- A floating-point format (R36). -/
structure Fmt where
  bits : Nat
  mbits : Nat
  bias : Nat
  special : Special
  /-- The largest finite magnitude, as a pattern. -/
  maxPat : Nat
  deriving DecidableEq, Repr

/-- FP32. -/
def Fmt.fp32 : Fmt := ⟨32, 23, 127, .ieee, 0x7F7FFFFF⟩
/-- BF16. -/
def Fmt.bf16 : Fmt := ⟨16, 7, 127, .ieee, 0x7F7F⟩
/-- FP16. -/
def Fmt.fp16 : Fmt := ⟨16, 10, 15, .ieee, 0x7BFF⟩
/-- E4M3. -/
def Fmt.e4m3 : Fmt := ⟨8, 3, 7, .e4m3, 0x7E⟩
/-- E5M2. -/
def Fmt.e5m2 : Fmt := ⟨8, 2, 15, .ieee, 0x7B⟩
/-- E3M2. -/
def Fmt.e3m2 : Fmt := ⟨6, 2, 3, .finite, 0x1F⟩
/-- E2M3. -/
def Fmt.e2m3 : Fmt := ⟨6, 3, 1, .finite, 0x1F⟩
/-- E2M1. -/
def Fmt.e2m1 : Fmt := ⟨4, 1, 1, .finite, 0x7⟩

/-- A value: NaN, an infinity, or (-1)^neg * m * 2^e (R36). -/
inductive FVal where
  | nan
  | inf (neg : Bool)
  | fin (neg : Bool) (m : Nat) (e : Int)
  deriving DecidableEq, Repr

/-- The sign bit of a pattern. -/
def Fmt.sign (f : Fmt) (neg : Bool) : Nat := if neg then 2 ^ (f.bits - 1) else 0

/-- The canonical NaN (R40). -/
def Fmt.canon (f : Fmt) : Nat :=
  match f.special with
  | .ieee => (2 ^ (f.bits - 1 - f.mbits) - 1) * 2 ^ f.mbits + 2 ^ (f.mbits - 1)
  | .e4m3 => 0x7F
  | .finite => 0

/-- The pattern of an infinity. -/
def Fmt.infPat (f : Fmt) (neg : Bool) : Nat := f.sign neg + (2 ^ (f.bits - 1 - f.mbits) - 1) * 2 ^ f.mbits

/-- The value of a pattern (R36). -/
def Fmt.unpack (f : Fmt) (x : Nat) : FVal :=
  let m := x % 2 ^ f.mbits
  let ebits := f.bits - 1 - f.mbits
  let e := x / 2 ^ f.mbits % 2 ^ ebits
  let neg := bitAt x (f.bits - 1)
  let top := e = 2 ^ ebits - 1
  match f.special with
  | .ieee =>
    if top then (if m = 0 then .inf neg else .nan)
    else if e = 0 then .fin neg m (1 - f.bias - f.mbits) else .fin neg (m + 2 ^ f.mbits) ((e : Int) - f.bias - f.mbits)
  | .e4m3 =>
    if top && m = 7 then .nan
    else if e = 0 then .fin neg m (1 - f.bias - f.mbits) else .fin neg (m + 2 ^ f.mbits) ((e : Int) - f.bias - f.mbits)
  | .finite =>
    if e = 0 then .fin neg m (1 - f.bias - f.mbits) else .fin neg (m + 2 ^ f.mbits) ((e : Int) - f.bias - f.mbits)

/-! ### Rounding (R42 to R46) -/

/-- The rounding modes (R42); stochastic carries its 32-bit random value (R46). -/
inductive RMode where
  | rne | rtz | rdn | rup | rna | stoch (x : Word)
  deriving DecidableEq, Repr

/-- Whether a magnitude q + r / 2^sh, 0 <= r < 2^sh, rounds away from zero (R42, R46). -/
def roundsUp (mode : RMode) (neg : Bool) (q r sh : Nat) : Bool :=
  if r = 0 then false
  else
    match mode with
    | .rne => 2 ^ sh < 2 * r || (2 * r = 2 ^ sh && q % 2 = 1)
    | .rtz => false
    | .rdn => neg
    | .rup => !neg
    | .rna => 2 ^ sh ≤ 2 * r
    | .stoch x => 2 ^ 32 ≤ r * 2 ^ 32 / 2 ^ sh + x.toNat

/-- The result of an overflow (R44). -/
def Fmt.overflow (f : Fmt) (mode : RMode) (neg : Bool) (sat : Nat) : Nat :=
  let toInf : Bool := match mode with | .rtz => false | .rdn => neg | .rup => !neg | _ => true
  if sat ≠ 0 || !toInf then f.sign neg + f.maxPat
  else
    match f.special with
    | .ieee => f.infPat neg
    | .e4m3 => f.canon
    | .finite => f.sign neg + f.maxPat

/-- The number of bits of a natural number. -/
def bitLen (m : Nat) : Nat := if m = 0 then 0 else m.log2 + 1

/-- Rounds (-1)^neg * m * 2^e (R44): over an unbounded exponent range, then overflow, then the pattern. -/
def Fmt.round (f : Fmt) (mode : RMode) (sat : Nat) (neg : Bool) (m : Nat) (e : Int) : Nat :=
  if m = 0 then f.sign neg
  else
    let emin : Int := 1 - f.bias
    let top : Int := (m.log2 : Int) + e
    let ulp : Int := max top emin - f.mbits
    let sh := ulp - e
    let q := if sh ≤ 0 then m * 2 ^ (-sh).toNat else m / 2 ^ sh.toNat
    let r := if sh ≤ 0 then 0 else m % 2 ^ sh.toNat
    let q := if roundsUp mode neg q r sh.toNat then q + 1 else q
    let (q, ulp) := if q = 2 ^ (f.mbits + 1) then (q / 2, ulp + 1) else (q, ulp)
    let pat : Int := if q < 2 ^ f.mbits then q else (ulp + f.mbits + f.bias) * 2 ^ f.mbits + (q - 2 ^ f.mbits : Nat)
    if f.maxPat < pat then f.overflow mode neg sat else f.sign neg + pat.toNat

/-- Round with a result that may be infinite or NaN (R40, R44). -/
def Fmt.pack (f : Fmt) (mode : RMode) (sat : Nat) (v : FVal) : Nat :=
  match v with
  | .nan => if sat = 2 then 0 else f.canon
  | .inf neg =>
    if sat ≠ 0 then f.sign neg + f.maxPat
    else match f.special with
      | .ieee => f.infPat neg
      | .e4m3 => f.canon
      | .finite => f.sign neg + f.maxPat
  | .fin neg m e => f.round mode sat neg m e

/-- A conversion between FP formats (R50). -/
def convFF (src dst : Fmt) (mode : RMode) (sat : Nat) (x : Nat) : Nat := dst.pack mode sat (src.unpack x)

/-- An exact value rounded to an integer (R51). -/
def toInteger (mode : RMode) (neg : Bool) (m : Nat) (e : Int) : Int :=
  let q := if 0 ≤ e then m * 2 ^ e.toNat else m / 2 ^ (-e).toNat
  let r := if 0 ≤ e then 0 else m % 2 ^ (-e).toNat
  let q := if roundsUp mode neg q r (-e).toNat then q + 1 else q
  if neg then -(q : Int) else q

/-- The least and greatest values of an integer type. -/
def intRange (bits : Nat) (sg : Bool) : Int × Int :=
  if sg then (-(2 ^ (bits - 1) : Nat), (2 ^ (bits - 1) : Nat) - 1) else (0, (2 ^ bits : Nat) - 1)

/-- An exact integer to an integer type: wrap or saturate (R51). -/
def intToInt (bits : Nat) (sg : Bool) (sat : Nat) (x : Int) : Nat :=
  let (lo, hi) := intRange bits sg
  if sat = 0 then (x % (2 ^ bits : Nat)).toNat else (max lo (min hi x) % (2 ^ bits : Nat)).toNat

/-- A conversion from FP to an integer type (R51). -/
def convFI (bits : Nat) (sg : Bool) (mode : RMode) (sat : Nat) (v : FVal) : Nat :=
  let (lo, _) := intRange bits sg
  match v with
  | .nan => if sat = 2 then intToInt bits sg 0 lo else 0
  | .inf neg => if sat = 0 then 0 else intToInt bits sg 1 (if neg then -(2 ^ 80 : Nat) else (2 ^ 80 : Nat))
  | .fin neg m e => intToInt bits sg sat (toInteger mode neg m e)

/-- A conversion from an exact integer to FP (R51). -/
def convIF (dst : Fmt) (mode : RMode) (sat : Nat) (x : Int) : Nat := dst.round mode sat (x < 0) x.natAbs 0

/-! ### Exact sums and products (R40, R41) -/

/-- The negation of a value. -/
def FVal.neg : FVal → FVal
  | .nan => .nan
  | .inf n => .inf !n
  | .fin n m e => .fin (!n) m e

/-- The absolute value of a value. -/
def FVal.abs : FVal → FVal
  | .nan => .nan
  | .inf _ => .inf false
  | .fin _ m e => .fin false m e

/-- The exact product (R40, R41): inf * 0 is NaN. -/
def FVal.mul : FVal → FVal → FVal
  | .nan, _ => .nan
  | _, .nan => .nan
  | .inf a, .inf b => .inf (a != b)
  | .inf a, .fin b m _ => if m = 0 then .nan else .inf (a != b)
  | .fin a m _, .inf b => if m = 0 then .nan else .inf (a != b)
  | .fin a m e, .fin b n d => .fin (a != b) (m * n) (e + d)

/-- A value times a power of two. -/
def FVal.scale (v : FVal) (k : Int) : FVal :=
  match v with
  | .fin n m e => .fin n m (e + k)
  | v => v

/-- The exact sum of values (R41). A zero sum of mixed signs is -0 only under RDN. -/
def sumExact (rdn : Bool) (vs : List FVal) : FVal :=
  if vs.any fun v => v = .nan then .nan
  else
    let pos := vs.any fun v => v = .inf false
    let neg := vs.any fun v => v = .inf true
    if pos && neg then .nan
    else if pos then .inf false
    else if neg then .inf true
    else
      let low : Int := vs.foldl (fun k v => match v with | .fin _ m e => if m = 0 then k else min k e | _ => k) 4096
      let total : Int := vs.foldl (fun t v => match v with
        | .fin n m e => if m = 0 then t else if n then t - (m : Int) * (2 ^ (e - low).toNat : Nat) else t + (m : Int) * (2 ^ (e - low).toNat : Nat)
        | _ => t) 0
      if total = 0 then
        let allNeg := vs.all fun v => match v with | .fin n _ _ => n | _ => false
        let allPos := vs.all fun v => match v with | .fin n _ _ => !n | _ => false
        .fin (if allNeg then true else if allPos then false else rdn) 0 0
      else .fin (total < 0) total.natAbs low

/-! ### Comparing (R60, R85) -/

/-- A value as an integer that orders finite values of one format together with another: m * 2^(e + 400), signed. -/
def FVal.key : FVal → Int
  | .nan => 0
  | .inf n => if n then -(2 ^ 1000 : Nat) else (2 ^ 1000 : Nat)
  | .fin n m e => if n then -((m * 2 ^ (e + 400).toNat : Nat) : Int) else ((m * 2 ^ (e + 400).toNat : Nat) : Int)

/-- The sign of a value. -/
def FVal.isNeg : FVal → Bool
  | .nan => false
  | .inf n => n
  | .fin n _ _ => n

/-- Numeric order of two values that are not NaN. -/
def FVal.lt (a b : FVal) : Bool := a.key < b.key
/-- Numeric equality of two values that are not NaN: -0 equals +0. -/
def FVal.eqv (a b : FVal) : Bool := a.key = b.key

/-- FMin (R60) on patterns. -/
def Fmt.min (f : Fmt) (x y : Nat) : Nat :=
  let a := f.unpack x
  let b := f.unpack y
  if a = .nan || b = .nan then f.canon
  else if a.lt b then x else if b.lt a then y else if a.isNeg then x else y

/-- FMax (R60) on patterns. -/
def Fmt.max (f : Fmt) (x y : Nat) : Nat :=
  let a := f.unpack x
  let b := f.unpack y
  if a = .nan || b = .nan then f.canon
  else if a.lt b then y else if b.lt a then x else if a.isNeg then y else x

/-! ### FP32 arithmetic on patterns, RNE -/

/-- The value of an FP32 pattern. -/
def f32v (x : Nat) : FVal := Fmt.fp32.unpack x
/-- A value rounded to FP32, RNE. -/
def f32r (v : FVal) : Nat := Fmt.fp32.pack .rne 0 v
/-- FP32 sum. -/
def f32add (x y : Nat) : Nat := f32r (sumExact false [f32v x, f32v y])
/-- FP32 product. -/
def f32mul (x y : Nat) : Nat := f32r ((f32v x).mul (f32v y))
/-- a * b + c, rounded once. -/
def f32fma (x y z : Nat) : Nat := f32r (sumExact false [(f32v x).mul (f32v y), f32v z])

/-! ### Fixed trees (R58) -/

/-- Combines neighbours once. -/
def treeLevel (op : Nat → Nat → Nat) : List Nat → List Nat
  | a :: b :: t => op a b :: treeLevel op t
  | l => l

/-- TreeSum of a list of 2^n entries (R58). -/
def treeSum (op : Nat → Nat → Nat) : Nat → List Nat → Nat
  | 0, l => l.headD 0
  | n + 1, l => treeSum op n (treeLevel op l)

/-- The operation of an FP reduction by SUB: add, min, max (R58, R85). -/
def treeOp (sub : Nat) : Nat → Nat → Nat := if sub = 0 then f32add else if sub = 1 then Fmt.fp32.min else Fmt.fp32.max

/-- The identity of an FP reduction (R58). -/
def treeId (sub : Nat) : Nat := if sub = 0 then 0x80000000 else if sub = 1 then 0x7F800000 else 0xFF800000

/-! ### Block quantisation (R52) -/

/-- The largest normal exponent of an element format. -/
def Fmt.emax (f : Fmt) : Int := ((f.maxPat / 2 ^ f.mbits : Nat) : Int) - f.bias

/-- MXQuant (R52): the scale byte and the elements; element k rounds under `mode k`. -/
def mxQuant (f : Fmt) (mode : Nat → RMode) (sat : Nat) (v : List Nat) : Nat × List Nat :=
  let vs := v.map fun x => if sat = 2 && f32v x = .nan then FVal.fin false 0 0 else f32v x
  let bad := vs.any fun x => x = .nan || (sat = 0 && (match x with | .inf _ => true | _ => false))
  if bad then (0xFF, vs.map fun _ => 0)
  else
    let clip (x : FVal) : FVal := match x with | .inf n => .fin n (2 ^ 24 - 1) 104 | x => x
    let lg := vs.foldl (fun (k : Option Int) x =>
      match clip x with
      | .fin _ m e => if m = 0 then k else
          let t : Int := (m.log2 : Int) + e
          match k with | none => some t | some u => some (Max.max t u)
      | _ => k) none
    let x : Int := match lg with | none => -127 | some t => Max.max (-127) (Min.min 127 (t - f.emax))
    ((x + 127).toNat,
      ((List.range vs.length).zip vs).map fun (k, u) =>
        match u with
        | .inf n => f.sign n + f.maxPat
        | .fin n m e => f.round (mode k) 1 n m (e - x)
        | .nan => 0)

/-! ### Matrix steps (R61) -/

/-- An E8M0 scale as a power of two (R37): 0xFF is handled by the caller. -/
def e8m0 (x : Nat) : Int := (x : Int) - 127

/-- KStep (R61) on FP32 patterns of the accumulator and values of the operands. -/
def kStep (c : Nat) (ab : List (FVal × FVal)) (sa sb : Nat) : Nat :=
  if sa = 0xFF || sb = 0xFF then Fmt.fp32.canon
  else f32r (sumExact false (f32v c :: ab.map fun (a, b) => (a.mul b).scale (e8m0 sa + e8m0 sb)))

/-- The integer k-step (R61): modulo 2^32. -/
def kStepInt (c : Nat) (ab : List (Int × Int)) : Nat :=
  (ab.foldl (fun (t : Int) (a, b) => t + a * b) (c : Int) % (2 ^ 32 : Nat)).toNat

/-! ### Correctly rounded functions (R57)

The algebraic ones are exact with a sticky bit. The others are bracketed in fixed point with 256 fractional bits; both ends
of the bracket round to the same pattern wherever the rounding is decided. -/

/-- Fractional bits of the fixed-point brackets. -/
def crBits : Nat := 256

/-- One over a value (R57). -/
def recipVal (neg : Bool) (m : Nat) (e : Int) : FVal :=
  let q := 2 ^ (bitLen m + 80) / m
  let s := if 2 ^ (bitLen m + 80) % m = 0 then 0 else 1
  .fin neg (2 * q + s) (-(e + (bitLen m + 81 : Nat)))

/-- The square root of m * 2^e. -/
def sqrtVal (m : Nat) (e : Int) : FVal :=
  let (m, e) := if e % 2 = 0 then (m, e) else (2 * m, e - 1)
  let n := m * 2 ^ 128
  let q := n.sqrt
  .fin false (2 * q + (if q * q = n then 0 else 1)) (e / 2 - 65)

/-- One over the square root of m * 2^e. -/
def rsqrtVal (m : Nat) (e : Int) : FVal :=
  let (m, e) := if e % 2 = 0 then (m, e) else (2 * m, e - 1)
  let k := 2 ^ (2 * (bitLen m + 80))
  let q := (k / m).sqrt
  .fin false (2 * q + (if q * q * m = k then 0 else 1)) (-(e / 2) - ((bitLen m + 81 : Nat) : Int))

/-- A bracket in fixed point: lo <= x * 2^256 <= hi. -/
structure Bracket where
  lo : Nat
  hi : Nat
  deriving DecidableEq, Repr

/-- floor(ln 2 * 2^256). -/
def ln2Fix : Nat := 0xb17217f7d1cf79abc9e3b39803f2f6af40f343267298b62d8a0d175b8baafa2b
/-- floor(pi * 2^400). -/
def piFix : Nat := 0x3243f6a8885a308d313198a2e03707344a4093822299f31d0082efa98ec4e6c89452821e638d01377be5466cf34e90c6cc0ac

/-- exp of a bracket that lies in [0, 1]: the series of R57's exact result, `n` terms. -/
def expBracket (t : Bracket) : Bracket :=
  let one := 2 ^ crBits
  let (lo, hi, _, _) := (List.range 60).foldl (fun (lo, hi, a, b) k =>
    let a := a * t.lo / 2 ^ crBits / (k + 1)
    let b := b * t.hi / 2 ^ crBits / (k + 1) + 2
    (lo + a, hi + b, a, b)) (one, one, one, one)
  ⟨lo, hi + 1⟩

/-- A rational n / 2^k, 0 <= n < 2^k, times ln 2. -/
def timesLn2 (n k : Nat) : Bracket := ⟨n * ln2Fix / 2 ^ k, n * (ln2Fix + 1) / 2 ^ k + 1⟩

/-- Sine and cosine of a bracket that lies in [0, pi/2]. -/
def sinCosBracket (r : Bracket) : Bracket × Bracket :=
  let one := 2 ^ crBits
  -- the k-th terms r^k / k! of both ends, k from 0
  let terms := ((List.range 80).foldl (fun (acc : List (Nat × Nat)) k =>
    match acc with
    | (a, b) :: _ => (a * r.lo / 2 ^ crBits / (k + 1), b * r.hi / 2 ^ crBits / (k + 1) + 1) :: acc
    | [] => []) [(one, one)]).reverse
  let pick (m : Nat) : Nat × Nat := ((List.range terms.length).zip terms).foldl (fun (lo, hi) (k, a, b) =>
    if k % 4 = m then (lo + a, hi + b) else (lo, hi)) (0, 0)
  let sp := pick 1
  let sn := pick 3
  let cp := pick 0
  let cn := pick 2
  (⟨sp.1 - sn.2 - 4, sp.2 - sn.1 + 4⟩, ⟨cp.1 - cn.2 - 4, cp.2 - cn.1 + 4⟩)

/-- The natural logarithm of n / d, 1 <= n / d < 2: 2 atanh((n - d) / (n + d)). -/
def lnBracket (n d : Nat) : Bracket :=
  let z : Bracket := ⟨(n - d) * 2 ^ crBits / (n + d), (n - d) * 2 ^ crBits / (n + d) + 1⟩
  let q : Bracket := ⟨z.lo * z.lo / 2 ^ crBits, z.hi * z.hi / 2 ^ crBits + 1⟩
  let (lo, hi, _, _) := (List.range 90).foldl (fun (lo, hi, a, b) k =>
    (lo + a / (2 * k + 1), hi + b / (2 * k + 1) + 1, a * q.lo / 2 ^ crBits, b * q.hi / 2 ^ crBits + 1)) (0, 0, z.lo, z.hi)
  ⟨2 * lo, 2 * hi + 2⟩

/-- The rounding of a bracketed value times 2^k: where the two ends round apart, a free value (log entry 6). -/
def Fmt.decide (f : Fmt) (op sat : Nat) (arg : Nat) (neg : Bool) (b : Bracket) (k : Int) : Nat :=
  let x := f.round .rne sat neg b.lo (k - crBits)
  let y := f.round .rne sat neg b.hi (k - crBits)
  if x = y then x else Config.sfuTie op f.bits arg

/-- exp2 of a finite value that is not zero. -/
def crExp2 (f : Fmt) (sat arg : Nat) (neg : Bool) (m : Nat) (e : Int) : Nat :=
  let top : Int := (bitLen m : Int) + e
  if 10 < top then f.round .rne sat false 1 (if neg then -2000 else 2000)
  else if top < -40 then f.round .rne sat false 1 0
  else
    -- x = (-1)^neg * m * 2^e, e > -200; as k + n / 2^s with 0 <= n < 2^s
    let s := (-e).toNat
    let whole : Int := (m * 2 ^ e.toNat : Nat)
    let x : Int := if neg then -whole else whole
    let k : Int := x / (2 ^ s : Nat)
    let n := (x % (2 ^ s : Nat)).toNat
    if n = 0 then f.round .rne sat false 1 k
    else f.decide 3 sat arg false (expBracket (timesLn2 n s)) k

/-- log2 of a positive finite value. -/
def crLog2 (f : Fmt) (sat arg : Nat) (m : Nat) (e : Int) : Nat :=
  let k : Int := (m.log2 : Int) + e
  let d := 2 ^ m.log2
  if m = d then convIF f .rne sat k
  else
    let l := lnBracket m d
    let y : Bracket := ⟨l.lo * 2 ^ crBits / (ln2Fix + 1), l.hi * 2 ^ crBits / ln2Fix + 1⟩
    let one : Int := (2 ^ crBits : Nat)
    if 0 ≤ k then f.decide 4 sat arg false ⟨(k * one).toNat + y.lo, (k * one).toNat + y.hi⟩ 0
    else f.decide 4 sat arg true ⟨(-k * one).toNat - y.hi, (-k * one).toNat - y.lo⟩ 0

/-- Sine (`cosine` false) or cosine of a finite value that is not zero. -/
def crTrig (f : Fmt) (cosine : Bool) (sat arg : Nat) (neg : Bool) (m : Nat) (e : Int) : Nat :=
  let top : Int := (bitLen m : Int) + e
  if top < -20 then (if cosine then f.round .rne sat false 1 0 else f.round .rne sat neg m e)
  else
    let x := m * 2 ^ (e + 400).toNat
    let n := 2 * x / piFix
    let lo := 2 * x - n * (piFix + 1)
    let hi := 2 * x - n * piFix
    if lo = 0 then Config.sfuTie (if cosine then 6 else 5) f.bits arg
    else
      let r : Bracket := ⟨lo / 2 ^ (401 - crBits), hi / 2 ^ (401 - crBits) + 1⟩
      let (sn, cs) := sinCosBracket r
      let q := n % 4
      let op := if cosine then 6 else 5
      let b := if (q % 2 = 0) = cosine then cs else sn
      let minus := if cosine then q = 1 || q = 2 else (2 ≤ q) != neg
      f.decide op sat arg minus b 0

/-- tanh of a finite value that is not zero. -/
def crTanh (f : Fmt) (sat arg : Nat) (neg : Bool) (m : Nat) (e : Int) : Nat :=
  let top : Int := (bitLen m : Int) + e
  if top < -20 then f.round .rne sat neg m e
  else if 5 < top then f.round .rne sat neg 1 0
  else
    -- exp(2x) = 2^n * exp(g)
    let t := m * 2 ^ (e + 1 + 256).toNat
    let n := t / (ln2Fix + 1)
    let g : Bracket := ⟨t - n * (ln2Fix + 1), t - n * ln2Fix⟩
    let x := expBracket g
    let one := 2 ^ crBits
    let a := x.lo * 2 ^ n
    let b := x.hi * 2 ^ n
    f.decide 7 sat arg neg ⟨(a - one) * one / (a + one), (b - one) * one / (b + one) + 1⟩ 0

/-- CR (R57) on a pattern: 0 rcp, 1 rsq, 2 sqrt, 3 exp2, 4 log2, 5 sin, 6 cos, 7 tanh. -/
def crFun (op : Nat) (f : Fmt) (sat x : Nat) : Nat :=
  let out := f.pack .rne sat
  let inf (neg : Bool) := out (.inf neg)
  let one (neg : Bool) := f.round .rne sat neg 1 0
  match f.unpack x with
  | .nan => f.canon
  | .inf neg =>
    match op with
    | 0 => f.sign neg
    | 1 => if neg then f.canon else 0
    | 2 | 4 => if neg then f.canon else inf false
    | 3 => if neg then 0 else inf false
    | 7 => one neg
    | _ => f.canon
  | .fin neg m e =>
    if m = 0 then
      match op with
      | 0 | 1 => inf neg
      | 3 | 6 => one false
      | 4 => inf true
      | _ => f.sign neg
    else
      match op with
      | 0 => out (recipVal neg m e)
      | 1 => if neg then f.canon else out (rsqrtVal m e)
      | 2 => if neg then f.canon else out (sqrtVal m e)
      | 3 => crExp2 f sat x neg m e
      | 4 => if neg then f.canon else crLog2 f sat x m e
      | 5 => crTrig f false sat x neg m e
      | 6 => crTrig f true sat x neg m e
      | _ => crTanh f sat x neg m e

end Sys2Proof.Machine
end

