-- ==== Sys2Proof/Machine/VectorFloat.lean ====
section
/-! DEFINITION. The vector float instructions (06_vector.md R170 to R174), their immediates (02_numbers.md R55, R56) and the
choice of mode and saturation (R43). -/
namespace Sys2Proof.Machine
open Sys2Proof

/-! ### Modes and operands -/

/-- The TYPE of a float instruction: f32 in a base word (R165). -/
def FmtBR.fty (f : FmtBR) : Nat := if f.tail.isExt then f.ty.toNat else 6

/-- The element format of a float TYPE (R68). -/
def tyFmt (ty : Nat) : Fmt := if ty = 7 then .fp16 else if ty = 8 then .bf16 else .fp32

/-- The mode of a ROUND code of %cvm (R42); `x` is the random value of a stochastic one. -/
def cvmMode (code : Nat) (x : Word) : RMode :=
  match code with
  | 0 => .rne | 1 => .rtz | 2 => .rdn | 3 => .rup | 4 => .rna | _ => .stoch x

/-- word1.RND, with zero for RNE (R42, R43). -/
def FmtBR.rmode (f : FmtBR) : RMode := cvmMode (f.w1.rnd.toNat - 1) 0

/-- word1.SAT as a SAT code. -/
def FmtBR.satCode (f : FmtBR) : Nat := f.w1.sat.toNat

/-- The low bit of a destination's field of %cvm (R48). -/
def cvmRound (cvm : DWord) (bit : Nat) : Nat := bitsOf cvm.toNat (bit + 2) bit
/-- The SAT code of a destination of %cvm (R48). -/
def cvmSat (cvm : DWord) (bit : Nat) : Nat := bitsOf cvm.toNat (bit + 4) (bit + 3)

/-- Two elements or one, as a lane. -/
def packLane (ty : Nat) (e : Nat → Nat) : Word :=
  if ty = 6 then BitVec.ofNat 32 (e 0) else BitVec.ofNat 32 (e 1 % 2 ^ 16 * 2 ^ 16 + e 0 % 2 ^ 16)

/-- Element `k` of a lane of a float TYPE. -/
def fElem (ty k : Nat) (x : Word) : Nat := if ty = 6 then x.toNat else x.toNat / 2 ^ (16 * k) % 2 ^ 16

/-- A literal with its NaNs canonical (R56). -/
def canonLane (ty : Nat) (x : Word) : Word :=
  packLane ty fun k => let e := fElem ty k x; if (tyFmt ty).unpack e = .nan then (tyFmt ty).canon else e

/-- An FP immediate: an FP16 value, in the operation's format (R56). BF16 is rounded under word1.RND, or, where that is 0, under %cvm's
BF16_RND, stochastic as RNE (R43, R56; DEDUCED, log entry 7). -/
def fpImm (ty rnd : Nat) (cvm : DWord) (imm : BitVec 24) : Word :=
  let h := bitsOf imm.toNat 15 0
  let code := if rnd ≠ 0 then rnd - 1 else cvmRound cvm 0
  let e := if ty = 6 then convFF .fp16 .fp32 .rne 0 h
    else if ty = 7 then (if Fmt.fp16.unpack h = .nan then Fmt.fp16.canon else h)
    else convFF .fp16 .bf16 (if code = 5 then .rne else cvmMode code 0) 0 h
  packLane ty fun _ => e

/-- Operand B of a float instruction in lane `l`, before ABSB and NEGB (R56, R67, R70). -/
def Group.opF (g : Group) (f : FmtBR) (l : Nat) : Word :=
  match f.tail.lit? with
  | some x => canonLane f.fty (x.extractLsb' 0 32)
  | none =>
    if f.immSel then fpImm f.fty f.w1.rnd.toNat g.cvm f.w2.imm
    else if f.sb = 1 then (g.s f.b.toNat).extractLsb' 0 32
    else (g.v f.b.toNat).lane l

/-- ABS, then NEG (R170). -/
def absNeg (ab ng : BitVec 1) (v : FVal) : FVal :=
  let v := if ab = 1 then v.abs else v
  if ng = 1 then v.neg else v

/-- Element `k` of operand A, with ABSA and NEGA. -/
def fopA (f : FmtBR) (g : Group) (l k : Nat) : FVal :=
  absNeg f.w1.absA f.w1.negA ((tyFmt f.fty).unpack (fElem f.fty k ((g.v f.a.toNat).lane l)))

/-- Element `k` of operand B, with ABSB and NEGB. -/
def fopB (f : FmtBR) (g : Group) (l k : Nat) : FVal :=
  absNeg f.w1.absB f.w1.negB ((tyFmt f.fty).unpack (fElem f.fty k (g.opF f l)))

/-- Element `k` of v[C], negated by MOD[0] (R170). -/
def fopC (f : FmtBR) (g : Group) (ty l k : Nat) : FVal :=
  let v := (tyFmt ty).unpack (fElem ty k ((g.v f.c.toNat).lane l))
  if f.mod.getLsbD 0 then v.neg else v

/-- The rounded result of a float instruction, element by element (R170). -/
def fpEff (f : FmtBR) (x : Group → Nat → Nat → FVal) : Eff :=
  lanesEff f fun g l => packLane f.fty fun k => (tyFmt f.fty).pack f.rmode f.satCode (x g l k)

/-- The sum of two values under the mode of the instruction (R41). -/
def FmtBR.fsum (f : FmtBR) (vs : List FVal) : FVal := sumExact (f.rmode = .rdn) vs

/-! ### Arithmetic (R170, R171) -/

/-- VFADD. -/
def effVfadd (f : FmtBR) : Eff := fpEff f fun g l k => f.fsum [fopA f g l k, fopB f g l k]
/-- VFSUB. -/
def effVfsub (f : FmtBR) : Eff := fpEff f fun g l k => f.fsum [fopA f g l k, (fopB f g l k).neg]
/-- VFMUL. -/
def effVfmul (f : FmtBR) : Eff := fpEff f fun g l k => (fopA f g l k).mul (fopB f g l k)
/-- VFMA: one rounding. -/
def effVfma (f : FmtBR) : Eff := fpEff f fun g l k => f.fsum [(fopA f g l k).mul (fopB f g l k), fopC f g f.fty l k]
/-- VFDOT2 (R171): two products and an FP32 addend, one rounding. -/
def effVfdot2 (f : FmtBR) : Eff := lanesEff f fun g l =>
  BitVec.ofNat 32 (Fmt.fp32.pack f.rmode f.satCode
    (f.fsum [(fopA f g l 0).mul (fopB f g l 0), (fopA f g l 1).mul (fopB f g l 1), fopC f g 6 l 0]))

/-- An exact value of a format as its pattern. -/
def repack (fm : Fmt) (v : FVal) : Nat := fm.pack .rne 0 v

/-- VFMIN and VFMAX (R60, R170). -/
def minMaxEff (f : FmtBR) (op : Fmt → Nat → Nat → Nat) : Eff := lanesEff f fun g l =>
  let fm := tyFmt f.fty
  packLane f.fty fun k =>
    fm.pack .rne f.satCode (fm.unpack (op fm (repack fm (fopA f g l k)) (repack fm (fopB f g l k))))

/-- VFMIN. -/
def effVfmin (f : FmtBR) : Eff := minMaxEff f Fmt.min
/-- VFMAX. -/
def effVfmax (f : FmtBR) : Eff := minMaxEff f Fmt.max

/-- The conditions of VFCMP (R85). -/
def fcond (c : Nat) (a b : FVal) : Bool :=
  let un := a = .nan || b = .nan
  match c with
  | 0 => !un && a.eqv b
  | 1 => un || !a.eqv b
  | 2 => !un && a.lt b
  | 3 => !un && !b.lt a
  | 4 => !un && b.lt a
  | 5 => !un && !a.lt b
  | 6 => un
  | _ => !un

/-- VFCMP (R172). -/
def effVfcmp (f : FmtBR) : Eff := predEff f fun g l => fcond f.sub.toNat (fopA f g l 0) (fopB f g l 0)

/-- The class mask of a pattern (R172). -/
def fclass (fm : Fmt) (x : Nat) : Nat :=
  let neg := bitAt x (fm.bits - 1)
  match fm.unpack x with
  | .nan => if bitAt x (fm.mbits - 1) then 2 ^ 9 else 2 ^ 8
  | .inf _ => if neg then 1 else 2 ^ 7
  | .fin _ m _ =>
    if m = 0 then (if neg then 2 ^ 3 else 2 ^ 4)
    else if m < 2 ^ fm.mbits then (if neg then 2 ^ 2 else 2 ^ 5)
    else (if neg then 2 else 2 ^ 6)

/-- VFCLASS (R172). -/
def effVfclass (f : FmtBR) : Eff := lanesEff f fun g l =>
  packLane f.fty fun k => fclass (tyFmt f.fty) (fElem f.fty k ((g.v f.a.toNat).lane l))

/-- Operand B of VFSCALE, an integer (R174). -/
def scaleB (f : FmtBR) (g : Group) (l k : Nat) : Int :=
  let x : Word :=
    match f.tail.lit? with
    | some x => x.extractLsb' 0 32
    | none =>
      if f.immSel then immVec f.w2.imm (if f.fty = 6 then 0 else 2) false
      else if f.sb = 1 then (g.s f.b.toNat).extractLsb' 0 32
      else (g.v f.b.toNat).lane l
  if f.fty = 6 then x.toInt else (elem 16 k x).toInt

/-- VFSCALE (R174). Beyond 2,000 the power of two changes no result of any format. -/
def effVfscale (f : FmtBR) : Eff := fpEff f fun g l k =>
  (absNeg 0 0 ((tyFmt f.fty).unpack (fElem f.fty k ((g.v f.a.toNat).lane l)))).scale (max (-2000) (min 2000 (scaleB f g l k)))

/-- VFRND (R174): rounds to an integral value. -/
def effVfrnd (f : FmtBR) : Eff := fpEff f fun g l k =>
  match (tyFmt f.fty).unpack (fElem f.fty k ((g.v f.a.toNat).lane l)) with
  | .fin n m e => .fin n (toInteger f.rmode n m e).natAbs 0
  | v => v

/-! ### The special function unit (R173) -/

/-- What an SFU instruction writes at its completion point. -/
def sfuWrites (op : Nat) (f : FmtBR) (g : Group) : List RegWrite :=
  (g.sel f).lanes.map fun l =>
    .v f.d.toNat l (packLane f.fty fun k => crFun op (tyFmt f.fty) f.satCode (fElem f.fty k ((g.v f.a.toNat).lane l)))

/-- An SFU instruction on its own: long-latency (R79, R173). -/
def sfu (op : Nat) (f : FmtBR) (s : State) : Host.Outcome State Fault Refusal :=
  s.issue f.len fun r _ g => s.startWrites r g (f.w1.fs = 1) (sfuWrites op f g)

/-! ### The instructions -/

/-- VFADD (R170). -/
def execVfadd (f : FmtBR) (s : State) : Host.Outcome State Fault Refusal := (effVfadd f).run s f.len
/-- VFSUB (R170). -/
def execVfsub (f : FmtBR) (s : State) : Host.Outcome State Fault Refusal := (effVfsub f).run s f.len
/-- VFMUL (R170). -/
def execVfmul (f : FmtBR) (s : State) : Host.Outcome State Fault Refusal := (effVfmul f).run s f.len
/-- VFMA (R170, R171). -/
def execVfma (f : FmtBR) (s : State) : Host.Outcome State Fault Refusal := (effVfma f).run s f.len
/-- VFDOT2 (R171). -/
def execVfdot2 (f : FmtBR) (s : State) : Host.Outcome State Fault Refusal := (effVfdot2 f).run s f.len
/-- VFMIN (R60, R170). -/
def execVfmin (f : FmtBR) (s : State) : Host.Outcome State Fault Refusal := (effVfmin f).run s f.len
/-- VFMAX (R60, R170). -/
def execVfmax (f : FmtBR) (s : State) : Host.Outcome State Fault Refusal := (effVfmax f).run s f.len
/-- VFCMP (R172). -/
def execVfcmp (f : FmtBR) (s : State) : Host.Outcome State Fault Refusal := (effVfcmp f).run s f.len
/-- VFCLASS (R172). -/
def execVfclass (f : FmtBR) (s : State) : Host.Outcome State Fault Refusal := (effVfclass f).run s f.len
/-- VFSCALE (R174). -/
def execVfscale (f : FmtBR) (s : State) : Host.Outcome State Fault Refusal := (effVfscale f).run s f.len
/-- VFRND (R174). -/
def execVfrnd (f : FmtBR) (s : State) : Host.Outcome State Fault Refusal := (effVfrnd f).run s f.len
/-- VFRCP (R57, R173). -/
def execVfrcp (f : FmtBR) (s : State) : Host.Outcome State Fault Refusal := sfu 0 f s
/-- VFRSQ (R57, R173). -/
def execVfrsq (f : FmtBR) (s : State) : Host.Outcome State Fault Refusal := sfu 1 f s
/-- VFSQRT (R57, R173). -/
def execVfsqrt (f : FmtBR) (s : State) : Host.Outcome State Fault Refusal := sfu 2 f s
/-- VFEXP2 (R57, R173). -/
def execVfexp2 (f : FmtBR) (s : State) : Host.Outcome State Fault Refusal := sfu 3 f s
/-- VFLOG2 (R57, R173). -/
def execVflog2 (f : FmtBR) (s : State) : Host.Outcome State Fault Refusal := sfu 4 f s
/-- VFSIN (R57, R173). -/
def execVfsin (f : FmtBR) (s : State) : Host.Outcome State Fault Refusal := sfu 5 f s
/-- VFCOS (R57, R173). -/
def execVfcos (f : FmtBR) (s : State) : Host.Outcome State Fault Refusal := sfu 6 f s
/-- VFTANH (R57, R173). -/
def execVftanh (f : FmtBR) (s : State) : Host.Outcome State Fault Refusal := sfu 7 f s

end Sys2Proof.Machine
end

