-- ==== Sys2Proof/Machine/Convert.lean ====
section
/-! DEFINITION. Conversion and packing (06_vector.md R175 to R179): VFCVT, VICVT and VFPACK, with stochastic rounding on the lane
states (02_numbers.md R45, R46). -/
namespace Sys2Proof.Machine
open Sys2Proof

/-- An element type of a conversion: an FP format, or an integer. The number is the low bit of its field of %cvm (R48); none for
those that word1 alone governs (R43). -/
inductive ElemTy where
  | fp (fm : Fmt) (cvm : Option Nat)
  | int (bits : Nat) (sg : Bool) (cvm : Option Nat)
  deriving DecidableEq, Repr

/-- Width in bits. -/
def ElemTy.bits : ElemTy → Nat
  | .fp fm _ => fm.bits
  | .int b _ _ => b

/-- The field of %cvm. -/
def ElemTy.cvm : ElemTy → Option Nat
  | .fp _ c => c
  | .int _ _ c => c

/-- FP32 as a source or destination. -/
def tyF32 : ElemTy := .fp .fp32 none
/-- BF16 (R48). -/
def tyBf16 : ElemTy := .fp .bf16 (some 0)
/-- FP16 (R48). -/
def tyFp16 : ElemTy := .fp .fp16 (some 5)
/-- E4M3 (R48). -/
def tyE4m3 : ElemTy := .fp .e4m3 (some 10)
/-- E5M2 (R48). -/
def tyE5m2 : ElemTy := .fp .e5m2 (some 15)
/-- i16 and n16 (R48). -/
def tyInt16 (sg : Bool) : ElemTy := .int 16 sg (some 35)
/-- i8 and n8 (R48). -/
def tyInt8 (sg : Bool) : ElemTy := .int 8 sg (some 40)
/-- i32 and n32. -/
def tyInt32 (sg : Bool) : ElemTy := .int 32 sg none

/-- The ROUND code of a destination: word1.RND, else the field of %cvm, else RNE (R43). -/
def roundCode (rnd : Nat) (cvm : DWord) (t : ElemTy) : Nat :=
  if rnd ≠ 0 then rnd - 1 else match t.cvm with | some b => cvmRound cvm b | none => 0

/-- The SAT code of a destination (R43). -/
def satCodeOf (sat : Nat) (cvm : DWord) (t : ElemTy) : Nat :=
  if sat ≠ 0 then 1 else match t.cvm with | some b => cvmSat cvm b | none => 0

/-- Convert (R50, R51) on patterns. -/
def convElem (src dst : ElemTy) (mode : RMode) (sat : Nat) (x : Nat) : Nat :=
  match src, dst with
  | .fp a _, .fp b _ => convFF a b mode sat x
  | .fp a _, .int w sg _ => convFI w sg mode sat (a.unpack x)
  | .int w sg _, .fp b _ => convIF b mode sat (valOf sg (BitVec.ofNat w x))
  | .int w sg _, .int v sh _ => intToInt v sh sat (valOf sg (BitVec.ofNat w x))

/-- SRAdvance `n` times (R45). -/
def Group.srAdvance (g : Group) (n : Nat) : Group :=
  let sr := VReg.build fun l => srSteps (g.sr.lane l) n
  { g with sr := sr
           srseed := g.srseed.extractLsb' 32 32 ++ (g.srseed.extractLsb' 0 32 + BitVec.ofNat 32 n) }

/-- The random value of lane `l` for the k-th element position converted (R46). -/
def Group.srRand (g : Group) (l k : Nat) : Word := srSteps (g.sr.lane l) (k + 1)

/-- Replaces element `k` of width `w` of a lane. -/
def putElem (w k : Nat) (x : Word) (e : Nat) : Word :=
  let m := (2 ^ w - 1) * 2 ^ (w * k)
  (x &&& ~~~(BitVec.ofNat 32 m)) ||| BitVec.ofNat 32 (e % 2 ^ w * 2 ^ (w * k))

/-- The element placement and conversion of VFCVT and VICVT (R175). A source of the same format is delivered unchanged but for
its NaNs, whatever the mode says (R176). -/
def convertEff (f : FmtBR) (src dst : ElemTy) : Eff := fun g0 g =>
  let ns := 32 / src.bits
  let nd := 32 / dst.bits
  let n := min ns nd
  let sel := f.mod.toNat / 8
  let code := roundCode f.w1.rnd.toNat g0.cvm dst
  let sat := satCodeOf f.w1.sat.toNat g0.cvm dst
  let (si, di) := if nd ≤ ns then (sel * n, 0) else (0, sel * n)
  let one (l i : Nat) : Nat :=
    let x := ((g0.v f.a.toNat).lane l).toNat / 2 ^ (src.bits * (si + i)) % 2 ^ src.bits
    match src, dst with
    | .fp a _, .fp b _ =>
      if a = b then (if a.unpack x = .nan then a.canon else x)
      else convElem src dst (cvmMode code (g0.srRand l i)) sat x
    | _, _ => convElem src dst (cvmMode code (g0.srRand l i)) sat x
  let g := g.setV f.d.toNat (g0.sel f) fun l =>
    (List.range n).foldl (fun w i => putElem dst.bits (di + i) w (one l i)) ((g.v f.d.toNat).lane l)
  if code = 5 then g.srAdvance n else g

/-- The source of VFCVT (R176). -/
def cvtSrc (ty : Nat) : ElemTy :=
  if ty = 7 then tyFp16 else if ty = 8 then tyBf16 else if ty = 4 then tyE4m3 else if ty = 5 then tyE5m2 else tyF32

/-- The destination of VFCVT (R176). -/
def cvtDst (m : Nat) : ElemTy :=
  match m with
  | 0 => tyF32 | 1 => tyFp16 | 2 => tyBf16 | 3 => tyE4m3 | _ => tyE5m2

/-- The source of VICVT (R177). -/
def icvtSrc (ty : Nat) : ElemTy :=
  if ty ≤ 1 then tyInt32 (tySigned ty) else if ty ≤ 3 then tyInt16 (tySigned ty) else if ty ≤ 5 then tyInt8 (tySigned ty)
  else if ty = 6 then tyF32 else if ty = 7 then tyFp16 else tyBf16

/-- The destination of VICVT (R177). -/
def icvtDst (m : Nat) : ElemTy :=
  match m with
  | 0 => tyInt32 true | 1 => tyInt32 false | 2 => tyInt16 true | 3 => tyInt16 false
  | 4 => tyInt8 true | 5 => tyInt8 false | 6 => tyF32 | _ => tyBf16

/-- VFCVT (R176). -/
def effVfcvt (f : FmtBR) : Eff := convertEff f (cvtSrc f.ty.toNat) (cvtDst (f.mod.toNat % 8))
/-- VICVT (R177). -/
def effVicvt (f : FmtBR) : Eff := convertEff f (icvtSrc f.ty.toNat) (icvtDst (f.mod.toNat % 8))

/-- VFPACK into two elements of a lane, the first at element `k` (R178). -/
def packTwo (f : FmtBR) (dst : ElemTy) (k : Nat) : Eff := fun g0 g =>
  let code := roundCode f.w1.rnd.toNat g0.cvm dst
  let sat := satCodeOf f.w1.sat.toNat g0.cvm dst
  let conv (l i : Nat) (x : Word) := convElem tyF32 dst (cvmMode code (g0.srRand l i)) sat x.toNat
  let g := g.setV f.d.toNat (g0.sel f) fun l =>
    let b : Word := if f.sb = 1 then (g0.s f.b.toNat).extractLsb' 0 32 else (g0.v f.b.toNat).lane l
    putElem dst.bits (k + 1) (putElem dst.bits k ((g.v f.d.toNat).lane l) (conv l 0 ((g0.v f.a.toNat).lane l))) (conv l 1 b)
  if code = 5 then g.srAdvance 2 else g

/-- The element format of an MX form, with its field of %cvm (R48, R178). -/
def mxForm (m : Nat) : ElemTy :=
  match m with
  | 3 => tyE4m3 | 4 => tyE5m2 | 5 => .fp .e3m2 (some 20) | 6 => .fp .e2m3 (some 25) | _ => .fp .e2m1 (some 30)

/-- The format of an element type; FP32 for an integer one. -/
def ElemTy.fmt : ElemTy → Fmt
  | .fp fm _ => fm
  | .int _ _ _ => .fp32

/-- Elements packed from the lowest up, `w` bits each (R38). -/
def packBits (w : Nat) : List Nat → Nat
  | [] => 0
  | e :: es => e % 2 ^ w + 2 ^ w * packBits w es

/-- VFPACK in an MX form: one block for each beat with a selected lane (R179). -/
def packMx (f : FmtBR) (dst : ElemTy) : Eff := fun g0 g =>
  let code := roundCode f.w1.rnd.toNat g0.cvm dst
  let sat := satCodeOf f.w1.sat.toNat g0.cvm dst
  let sel := g0.sel f
  let p := dst.bits
  let beat (g : Group) (b : Nat) : Group :=
    if (List.range 32).all (fun k => !sel.bit (32 * b + k)) then g
    else
      let v := (List.range 32).map fun k => if sel.bit (32 * b + k) then ((g0.v f.a.toNat).lane (32 * b + k)).toNat else 0
      let (scale, es) := mxQuant dst.fmt (fun k => cvmMode code (g0.srRand (32 * b + k) 0)) sat v
      let x := packBits p es
      g.setV f.d.toNat (Mask.build fun l => l / 32 = b) fun l =>
        let j := l % 32
        if j < p then BitVec.ofNat 32 (x / 2 ^ (32 * j)) else if j = 31 then BitVec.ofNat 32 scale else 0
  let g := [0, 1, 2].foldl beat g
  if code = 5 then g.srAdvance 1 else g

/-- VFPACK (R178, R179). -/
def effVfpack (f : FmtBR) : Eff :=
  let m := f.mod.toNat % 8
  if m = 0 then packTwo f (if f.ty = 7 then tyFp16 else tyBf16) 0
  else if m ≤ 2 then packTwo f (if m = 1 then tyE4m3 else tyE5m2) (2 * (f.mod.toNat / 8))
  else packMx f (mxForm m)

/-- VFCVT (R175, R176). -/
def execVfcvt (f : FmtBR) (s : State) : Host.Outcome State Fault Refusal := (effVfcvt f).run s f.len
/-- VICVT (R175, R177). -/
def execVicvt (f : FmtBR) (s : State) : Host.Outcome State Fault Refusal := (effVicvt f).run s f.len
/-- VFPACK (R178, R179). -/
def execVfpack (f : FmtBR) (s : State) : Host.Outcome State Fault Refusal := (effVfpack f).run s f.len

end Sys2Proof.Machine
end

