-- ==== Sys2Proof/Machine/CrossLane.lean ====
section
/-! DEFINITION. The cross-lane instructions (06_vector.md R180 to R185). They read their sources in all 96 lanes before they
write any lane (R163). -/
namespace Sys2Proof.Machine
open Sys2Proof

/-- Operand B of a cross-lane instruction in lane `l`, natural (R180). -/
def Group.opX (g : Group) (f : FmtBR) (l : Nat) : Nat :=
  match f.tail.lit? with
  | some x => (x.extractLsb' 0 32).toNat
  | none =>
    if f.immSel then (immVec f.w2.imm 0 false).toNat
    else if f.sb = 1 then ((g.s f.b.toNat).extractLsb' 0 32).toNat
    else ((g.v f.b.toNat).lane l).toNat

/-- VSHUF on one lane: the modes IDX, XOR, UP and DOWN (R180). -/
def shufVal (mode : Nat) (a : VReg) (l b : Nat) : Word :=
  match mode with
  | 0 => if b < 96 then a.lane b else 0
  | 1 => if l ^^^ b < 96 then a.lane (l ^^^ b) else a.lane l
  | 2 => if b ≤ l then a.lane (l - b) else a.lane l
  | _ => if l + b < 96 then a.lane (l + b) else a.lane l

/-- VSHUF (R180). -/
def effVshuf (f : FmtBR) : Eff := lanesEff f fun g l => shufVal f.sub.toNat (g.v f.a.toNat) l (g.opX f l)
/-- VBCAST (R181). -/
def effVbcast (f : FmtBR) : Eff := lanesEff f fun g _ =>
  let n := g.opX f 0
  if n < 96 then (g.v f.a.toNat).lane n else 0
/-- VROT (R181). -/
def effVrot (f : FmtBR) : Eff := lanesEff f fun g l => (g.v f.a.toNat).lane ((l + g.opX f 0) % 96)

/-- The operation of an integer reduction by SUB (R85, R182). -/
def redLane (sub : Nat) (nat : Bool) (a b : Nat) : Nat := redOp sub nat 4 a b

/-- The combination of the lanes of v[A] that `keep` admits (R58, R59, R182). -/
def redLanes (f : FmtBR) (v : VReg) (keep : Nat → Bool) : Nat :=
  let sub := f.sub.toNat
  if f.ty = 6 then
    treeSum (treeOp sub) 7 ((List.range 128).map fun l => if l < 96 && keep l then (v.lane l).toNat else treeId sub)
  else
    let nat : Bool := f.ty = 1
    (List.range 96).foldl (fun x l => if keep l then redLane sub nat x (v.lane l).toNat else x) (redIdentity sub nat 4)

/-- VRED (R182): s[D] is written even when no lane is selected. -/
def effVred (f : FmtBR) : Eff := fun g0 g =>
  let x : Word := BitVec.ofNat 32 (redLanes f (g0.v f.a.toNat) (g0.sel f).bit)
  g.setS f.d.toNat (if f.ty = 0 then x.signExtend 64 else x.zeroExtend 64)

/-- The running combinations of the selected lanes in lane order, integer types (R183): what lane `l` has before its own value
and with it. -/
def scanList (sub : Nat) (nat : Bool) (v : VReg) (sel : Mask) (excl : Bool) : List Nat :=
  ((List.range 96).foldl (fun (acc : Nat × List Nat) l =>
    let (x, out) := acc
    let y := if sel.bit l then redLane sub nat x (v.lane l).toNat else x
    (y, (if excl then x else y) :: out)) (redIdentity sub nat 4, [])).2.reverse

/-- VSCAN (R59, R183). -/
def effVscan (f : FmtBR) : Eff := fun g0 g =>
  let sel := g0.sel f
  let v := g0.v f.a.toNat
  let excl := f.mod.getLsbD 0
  if f.ty = 6 then
    g.setV f.d.toNat sel fun l =>
      BitVec.ofNat 32 (redLanes f v fun j => sel.bit j && (if excl then decide (j < l) else decide (j ≤ l)))
  else
    let xs := scanList f.sub.toNat (f.ty = 1) v sel excl
    g.setV f.d.toNat sel fun l => BitVec.ofNat 32 (xs[l]?.getD 0)

/-- Two keys of VMATCH match (R184). -/
def keysMatch (f : FmtBR) (g : Group) (i j : Nat) : Bool :=
  let a := f.a.toNat
  let x := (g.v a).lane i
  let y := (g.v a).lane j
  if f.sub = 1 then fcond 0 (f32v x.toNat) (f32v y.toNat)
  else x = y && (f.mod ≠ 1 || (g.v (a + 1)).lane i = (g.v (a + 1)).lane j)

/-- VMATCH (R184). A NaN key under .f forms a set of its own. -/
def effVmatch (f : FmtBR) : Eff := fun g0 g =>
  let sel := g0.sel f
  let lanes := sel.lanes
  let set (l : Nat) : List Nat := lanes.filter fun j => j = l || keysMatch f g0 j l
  let lead (l : Nat) : Nat := (set l).headD l
  let g := g.setV f.d.toNat sel fun l => BitVec.ofNat 32 ((set l).length * 2 ^ 16 + lead l)
  let c := f.c.toNat
  g.setP c ((g.p c &&& ~~~sel) ||| (sel &&& Mask.build fun l => lead l = l))

/-- VCOMPACT (R185). -/
def effVcompact (f : FmtBR) : Eff := fun g0 g =>
  let src := (g0.sel f).lanes.map (g0.v f.a.toNat).lane
  g.setV f.d.toNat (Mask.build fun l => l < src.length) fun l => src[l]?.getD 0

/-- VEXPAND (R185). -/
def effVexpand (f : FmtBR) : Eff := fun g0 g =>
  let sel := g0.sel f
  let v := g0.v f.a.toNat
  g.setV f.d.toNat sel fun l => v.lane (sel.lanes.filter (· < l)).length

/-- VSHUF (R180). -/
def execVshuf (f : FmtBR) (s : State) : Host.Outcome State Fault Refusal := (effVshuf f).run s f.len
/-- VBCAST (R181). -/
def execVbcast (f : FmtBR) (s : State) : Host.Outcome State Fault Refusal := (effVbcast f).run s f.len
/-- VROT (R181). -/
def execVrot (f : FmtBR) (s : State) : Host.Outcome State Fault Refusal := (effVrot f).run s f.len
/-- VRED (R182). -/
def execVred (f : FmtBR) (s : State) : Host.Outcome State Fault Refusal := (effVred f).run s f.len
/-- VSCAN (R183). -/
def execVscan (f : FmtBR) (s : State) : Host.Outcome State Fault Refusal := (effVscan f).run s f.len
/-- VMATCH (R184). -/
def execVmatch (f : FmtBR) (s : State) : Host.Outcome State Fault Refusal := (effVmatch f).run s f.len
/-- VCOMPACT (R185). -/
def execVcompact (f : FmtBR) (s : State) : Host.Outcome State Fault Refusal := (effVcompact f).run s f.len
/-- VEXPAND (R185). -/
def execVexpand (f : FmtBR) (s : State) : Host.Outcome State Fault Refusal := (effVexpand f).run s f.len

end Sys2Proof.Machine
end

