-- ==== Sys2Proof/Machine/Tables.lean ====
section
/-! DEFINITION. Activation tables (06_vector.md R186 to R190): ATLOAD, the table unit, ATEVAL. -/
namespace Sys2Proof.Machine
open Sys2Proof

/-- Bytes of a table image (R186). -/
def tableBytes : Nat := 4112

/-- A 32-bit word of an image at a byte offset; bytes not held read zero. -/
def imgWord (img : List Byte) (a : Nat) : Nat := leNat ((List.range 4).map fun i => img[a + i]?.getD 0)

/-- A bank of a team (R186); an empty image is one of zeros. -/
def Team.bank (t : Team) (k : Nat) : List Byte := if k = 0 then t.bank0 else t.bank1

/-- Team memory of a resident team (R27): `n` bytes from an offset. -/
def State.teamRead (s : State) (t : Team) (off n : Nat) : List Byte := s.spad.readN (t.coreN * 2 ^ 21 + t.base + off) n

/-- A reserved field of an image is not zero (R186). -/
def tableBad (img : List Byte) : Bool :=
  2 ≤ imgWord img 8 || imgWord img 12 ≠ 0 || (List.range 256).any fun i => imgWord img (28 + 16 * i) ≠ 0

/-- A TEP image holds EACT before its first EEND (R283). -/
def tepHasAct (img : List Byte) : Bool :=
  let ops := (List.range 32).map fun i => (img[2 * i + 1]?.getD 0).toNat / 16
  (ops.takeWhile (· ≠ 0)).contains 3

/-- Users of a bank (R188): the team's drains bound to it. An ATEVAL reads its table within its own step. -/
def State.bankUsed (s : State) (team k : Nat) : Bool :=
  s.drains.any fun (_, d) => d.team = team && d.started && d.bank = k && tepHasAct d.image

/-- ATLOAD (R187): hands the image to the table unit; the group is held until TABLE_SWITCH. The read follows the group's outstanding acquires
and scratchpad accesses (R109). -/
def execAtload (f : FmtBR) (s : State) : Host.Outcome State Fault Refusal :=
  s.issue f.len fun r t g =>
    let a := (g.s f.a.toNat).toNat
    if g.waiting then .stay s g
    else if g.sel f = 0 then .done s g
    else if a % 16 ≠ 0 then .fault { code := .align, addr := g.s f.a.toNat }
    else if t.shape.mem < a + tableBytes then .fault { code := .pageProt, addr := g.s f.a.toNat }
    else if s.engineHeld r then .stay s g
    else
      .stay (s.updTeam r.team fun t => { t with atq := t.atq ++ [⟨r.grp, a⟩] }) { g with waiting := true }

/-- TABLE_WRITE_START (R188): the first ATLOAD waiting, once its target bank has no user; the image is read. DESIGN CHOICE (log entry 17): R106 and
R109 leave open, unit by unit, when a unit is read that another group is racing to write; the whole image is read at this moment. -/
def execTableWriteStart (team : Nat) (s : State) : Host.Outcome State Fault Refusal :=
  match s.team? team with
  | none => .next s
  | some t =>
    match t.unit, t.atq with
    | .idle, x :: rest =>
      let target := 1 - t.cur
      if s.bankUsed team target || t.core.isNone then .next s
      else .next (s.putTeam team { t with unit := .writing x.grp target (s.teamRead t x.offset tableBytes), atq := rest })
    | _, _ => .next s

/-- TABLE_SWITCH (R187, R188): CUR switches and the group resumes, or ILL_FIELD is raised at the ATLOAD. -/
def execTableSwitch (team : Nat) (s : State) : Host.Outcome State Fault Refusal :=
  match s.team? team with
  | none => .next s
  | some t =>
    match t.unit with
    | .writing grp target img =>
      let r : GRef := ⟨team, grp⟩
      let idle := s.updTeam team fun t => { t with unit := .idle }
      if tableBad img then .next (idle.fatal r { code := .illField })
      else
        let s := s.updTeam team fun t =>
          { t with unit := .idle, cur := target, bank0 := if target = 0 then img else t.bank0,
                   bank1 := if target = 0 then t.bank1 else img }
        match s.team? team, s.group? r with
        | some t, some g => .next (s.finish r t 3 (.done s g))
        | _, _ => .next s
    | _ => .next s

/-- ATEval (R189) on an FP32 pattern with a table image. -/
def atEval (img : List Byte) (x : Nat) : Nat :=
  if f32v x = .nan then Fmt.fp32.canon
  else
    let w := f32mul (f32r (sumExact false [f32v x, (f32v (imgWord img 0)).neg])) (imgWord img 4)
    if f32v w = .nan then Fmt.fp32.canon
    else
      let w := if imgWord img 8 % 2 = 1 then Fmt.fp32.min (Fmt.fp32.max w 0) 0x43800000 else w
      let i : Nat := match f32v w with
        | .inf n => if n then 0 else 255
        | .fin n m e => (max 0 (min 255 (toInteger .rdn n m (min e 16)))).toNat
        | .nan => 0
      let r := f32r (sumExact false [f32v w, (f32v (convIF .fp32 .rne 0 i)).neg])
      let c (k : Nat) : Nat := imgWord img (16 + 16 * i + 4 * k)
      f32fma r (f32fma r (c 2) (c 1)) (c 0)

/-- ATEVAL (R189): every selected lane reads the table of the current bank. -/
def execAteval (f : FmtBR) (s : State) : Host.Outcome State Fault Refusal :=
  s.issue f.len fun _ t g =>
    let img := t.bank t.cur
    .done s (g.setV f.d.toNat (g.sel f) fun l => BitVec.ofNat 32 (atEval img ((g.v f.a.toNat).lane l).toNat))

end Sys2Proof.Machine
end

