-- ==== Sys2Proof/Machine/Pair.lean ====
section
/-! DEFINITION. The pair word (03_encoding.md R72 to R74; 06_vector.md R164): operation X to the main pipe, operation Y to the
side pipe or the SFU, both reading their sources before either writes. -/
namespace Sys2Proof.Machine
open Sys2Proof

/-- The effect of a class X operation (R73). -/
def effX (op : Nat) (f : FmtBR) : Eff :=
  match op with
  | 0x30 => effVadd f | 0x31 => effVsub f | 0x32 => effVmul f | 0x33 => effVmulh f | 0x34 => effVmad f
  | 0x48 => effVfadd f | 0x49 => effVfsub f | 0x4A => effVfmul f | 0x4B => effVfma f | _ => effVfdot2 f

/-- The effect of a class Y operation other than those of the SFU (R73). -/
def effY (op : Nat) (f : FmtBR) : Eff :=
  match op with
  | 0x35 => effVand f | 0x36 => effVor f | 0x37 => effVxor f | 0x38 => effVandn f | 0x39 => effVshl f
  | 0x3A => effVshr f | 0x3B => effVsra f | 0x3C => effVmin f | 0x3D => effVmax f | 0x3E => effVabs f
  | 0x3F => effVneg f | 0x40 => effVcmp f | 0x41 => effVsel f | 0x42 => effVmov f | 0x43 => effVpopc f
  | 0x44 => effVclz f | 0x45 => effVbfe f | 0x46 => effVbfi f | 0x47 => effVhash f | 0x4E => effVfcmp f
  | 0x58 => effVfcvt f | 0x59 => effVicvt f | 0x60 => effVshuf f | _ => effVrot f

/-- The operation is one of the SFU (R161). -/
def isSfu (op : Nat) : Bool := 0x50 ≤ op && op ≤ 0x57

/-- PAIR (R72 to R74, R164). An SFU operation Y counts on SETA and is stalled with the whole pair while that count is 63. -/
def execPair (f : FmtPair) (s : State) : Host.Outcome State Fault Refusal :=
  s.issue 3 fun r _ g =>
    let ox := f.x.op.toNat
    let oy := f.y.op.toNat
    if isSfu oy then
      match s.startWrites r g false (sfuWrites (oy - 0x50) f.fy g) with
      | .done s g' => .done s (effX ox f.fx g g')
      | res => res
    else .done s (effY oy f.fy g (effX ox f.fx g g))

end Sys2Proof.Machine
end

