-- ==== Sys2Proof/Machine/LoadStore.lean ====
section
/-! DEFINITION. Loads, stores, atomics, reductions and prefetch (07_load_store.md R191 to R217), from the checks of R196 to the
requests that leave; what a home does with a request (R107, R197, R201, R214, R216, R225, R394). -/
namespace Sys2Proof.Machine
open Sys2Proof

/-! ### Addresses and checks (R191 to R196) -/

/-- The unit of one lane that passed R196: the lane (0xFF for a once-per-group instruction), its address, where it leads. -/
structure LaneUnit where
  lane : Nat
  addr : DWord
  unit : Unit_
  /-- 1 for bytes 8 to 15 of a b128 unit (R100). -/
  half : Nat := 0
  deriving DecidableEq, Repr

/-- An address some bytes further on. -/
def Unit_.shift (u : Unit_) (k : Nat) : Unit_ :=
  match u with
  | .phys p region va => .phys { p with pa := p.pa + k } region (va + k)
  | .spad a => .spad (a + k)
  | .far rank region off route => .far rank region (off + k) route

/-- A b128 access is two accesses of 8 bytes, unordered with each other; every other one is itself (R100, R194). -/
def LaneUnit.accesses (n : Nat) (u : LaneUnit) : List LaneUnit :=
  if n ≤ 8 then [u] else [u, { u with addr := u.addr + 8, unit := u.unit.shift 8, half := 1 }]

/-- Two units are one and the same. -/
def Unit_.same (u v : Unit_) : Bool :=
  match u, v with
  | .phys p _ _, .phys q _ _ => p.pa = q.pa
  | .spad a, .spad b => a = b
  | .far a b c _, .far d e f _ => a = d && b = e && c = f
  | _, _ => false

/-- Of the lanes of a store that write one unit, only the highest-numbered one writes it (R101). -/
def lastWriters (us : List LaneUnit) : List LaneUnit := us.filter fun u => !us.any fun v => u.lane < v.lane && u.unit.same v.unit

/-- Why an instruction is not sent: a fault, or missing pages (R208). -/
inductive AccErr where
  | fault (f : FaultInfo)
  | missing (pages : List MissPage)

/-- The outcome of an instruction that is not sent. -/
def AccErr.res : AccErr → Res
  | .fault f => .fault f
  | .missing ps => .withdraw ps

/-- The fault of a lane: DETAIL holds the lane and the level of R204 (R196). -/
def laneFault (lane : Nat) (c : FaultCode) (level : Nat) (addr : DWord) : FaultInfo :=
  { code := c, detail := accDetail c lane level, addr := addr }

/-- Checks the units of an instruction whole (R196): the fault of the lowest lane that has one, else the missing pages, else the
units. Each lane brings its exact integer `x` (R191). DESIGN CHOICE (log entry 81): a space that refuses `x` makes no address of it; the
fault record then holds `x` modulo 2^64. -/
def State.checkAll (s : State) (t : Team) (grp mod n : Nat) (k : AccKind) (xs : List (Nat × Int)) :
    Except AccErr (List LaneUnit) :=
  let step (acc : Except AccErr (List LaneUnit × List MissPage)) (lx : Nat × Int) :
      Except AccErr (List LaneUnit × List MissPage) :=
    match acc with
    | .error e => .error e
    | .ok (us, miss) =>
      let (l, x) := lx
      match s.space t grp mod x with
      | .error c => .error (.fault (laneFault l c 0 (BitVec.ofInt 64 x)))
      | .ok a =>
        match s.checkUnit t n k a with
        | .ok u => .ok (⟨l, a, u, 0⟩ :: us, miss)
        | .error (.fault c lv addr) => .error (.fault (laneFault l c lv addr))
        | .error (.missing va) =>
          let p : MissPage := ⟨if k.write then 1 else 0, va / 2 ^ 16 * 2 ^ 16⟩
          .ok (us, if miss.contains p then miss else p :: miss)
  match xs.foldl step (.ok ([], [])) with
  | .error e => .error e
  | .ok (us, []) => .ok us.reverse
  | .ok (_, miss) => .error (.missing miss.reverse)

/-- The access size by SIZE (R192). -/
def accBytes (f : FmtBR) : Nat := 2 ^ (f.w2.ext.toNat % 8)

/-- IMM24 as a signed offset. -/
def FmtBR.off24 (f : FmtBR) : Int := f.w2.imm.toInt

/-- The exact integer of lane `l` (R193). -/
def laneX (f : FmtBR) (g : Group) (l : Nat) : Int :=
  let n := accBytes f
  if f.w2.ext.getLsbD 3 then ((g.s f.a.toNat).toNat : Int) + f.off24 + (l * n : Nat)
  else if f.mod = 0 then
    ((((g.v (f.a.toNat + 1)).lane l).toNat * 2 ^ 32 + ((g.v f.a.toNat).lane l).toNat : Nat) : Int) + f.off24
  else (((g.v f.a.toNat).lane l).toNat : Int) + f.off24

/-! ### Program order within a group (R109, R197) -/

/-- Physical addresses and bytes that a request touches. -/
def Req.range (q : Req) : Nat × Nat :=
  match q.kind with
  | .atom _ n _ _ _ | .red _ _ n _ | .spadAtom _ n _ _ _ | .spadRed _ _ n _ => (q.addr, n)
  | .spadRead us => match us with | u :: _ => (u.addr, u.bytes) | [] => (q.addr, 0)
  | .spadWrite us => match us with | u :: _ => (u.addr, u.data.length) | [] => (q.addr, 0)
  | _ => (q.addr, 128)

/-- The group has an earlier request to memory whose line a unit touches: a later access goes after it (R197). -/
def State.ownPending (s : State) (r : GRef) (pa n : Nat) : Bool :=
  s.reqs.any fun (_, q) => q.owner = some r && !q.atSpad && (let (a, m) := q.range; overlaps a m pa n)

/-- A reduction of the group to a unit is not yet performed at its home: a later load of the unit goes after it (R197, R218). -/
def State.ownContrib (s : State) (r : GRef) (pa n : Nat) : Bool :=
  s.contribs.any fun (_, c) => c.owner = some r && overlaps c.unit 4 pa n

/-- The group has an earlier access to a scratchpad unit that is not yet performed (R109). -/
def State.spadPending (s : State) (r : GRef) (addr n : Nat) : Bool :=
  s.reqs.any fun (_, q) => q.owner = some r && q.atSpad && (let (a, m) := q.range; overlaps a m addr n)

/-- A releasing write of the group is not yet performed: an acquiring access waits for it, so that the synchronising operations of the local
tier are sequentially consistent (R105). -/
def State.relOut (s : State) (r : GRef) : Bool :=
  s.reqs.any (fun (_, q) => q.owner = some r && q.rel) || s.contribs.any fun (_, c) => c.owner = some r && c.rel

/-- The unit's bytes where they stand on this device. -/
def LaneUnit.piece (n : Nat) (u : LaneUnit) : List (Bool × Nat × Nat) :=
  match u.unit with
  | .phys p _ _ => [(false, p.pa, n)]
  | .spad a => [(true, a, n)]
  | .far _ _ _ _ => []

/-- A memory instruction must stay at its slot: its flag is full, an acquire is outstanding, it acquires after a release, its scratchpad
unit waits, it accesses what a COLLWAIT has still to acquire, or the fabric send queue has no room (R78, R105, R109, R125, R197, R300). -/
def State.memStalled (s : State) (r : GRef) (g : Group) (fs acq : Bool) (n : Nat) (us : List LaneUnit) : Bool :=
  g.flagFull fs || s.acqHeld r || (acq && s.relOut r) || s.collHolds r s.nextId (us.flatMap (LaneUnit.piece n))
  || us.any fun u =>
    match u.unit with
    | .spad a => s.spadPending r a n
    | .far _ _ _ _ => s.sendFull r.team
    | .phys _ _ _ => false

/-! ### What arrives (R194, R195) -/

/-- The registers that a unit's bytes are written to: one to four vector registers, or a scalar. -/
def ReadUnit.writes (u : ReadUnit) (bs : List Byte) : List RegWrite :=
  if u.vec then
    (List.range (max 1 (u.bytes / 4))).map fun j =>
      .v (u.reg + j) u.lane (BitVec.ofNat 32 (leNat ((bs.drop (4 * j)).take 4)))
  else [.s u.reg (BitVec.ofNat 64 (leNat bs))]

/-- Adds register writes to an outstanding instruction. -/
def State.addWrites (s : State) (op : Option Nat) (ws : List RegWrite) : State :=
  match op with
  | some k => { s with ops := s.ops.upd k fun o => { o with writes := o.writes ++ ws } }
  | none => s

/-- An outstanding instruction waits for one thing more. -/
def State.addNeed (s : State) (op : Nat) (id : Nat) : State :=
  { s with ops := s.ops.upd op fun o => { o with need := o.need ++ [id] } }

/-! ### Requests (R199) -/

/-- A request of a group to the home of a line. -/
def mkReq (r : GRef) (t : Team) (g : Group) (world : Nat) (op : Option Nat) (addr : Nat) (nc : Bool) (u : LaneUnit)
    (after : List Nat) (kind : ReqKind) : Req :=
  { owner := some r, ctx := t.ctx, world := world, core := t.coreN, op := op, addr := addr, kind := kind, nc := nc,
    after := after, phase := 0, stalled := false, va := u.addr.toNat, lane := u.lane, hdr := g.pc, slot := g.slot, msg := none }

/-- The phase a request is routed under (R394). -/
def State.routePhase (s : State) (pa : Nat) : Nat :=
  if s.stk.migrating && (s.stk.mig.get? (frameOf pa)).getD .old ≠ .new then (s.stk.mphase.toNat + 65535) % 65536
  else s.stk.mphase.toNat

/-- The target world of a unit, where its region gives one (R409). -/
def State.targetOf (s : State) (u : LaneUnit) : Option Nat :=
  match u.unit with
  | .phys _ region _ => s.targetWorld region
  | _ => none

/-- Sends a request; the outstanding instruction waits for it when `track` is set. -/
def State.sendReq (s : State) (q : Req) (track : Bool) : State :=
  let (id, s) := s.fresh
  let s := { s with reqs := s.reqs.put id { q with phase := s.routePhase q.addr } }
  match q.op, track with
  | some op, true => s.addNeed op id
  | _, _ => s

/-- The lines of a list of physical units, ascending, each with the units on it in lane order (R199). -/
def linesOf (us : List (Nat × LaneUnit × Phys)) : Tbl (List (LaneUnit × Phys)) :=
  us.foldl (fun (t : Tbl (List (LaneUnit × Phys))) (_, u, p) =>
    let k := p.pa / 128
    t.put k ((t.get? k).getD [] ++ [(u, p)])) []

/-- Adds the TLB entries that the translations of units found. -/
def State.learnTlb (s : State) (us : List LaneUnit) : State :=
  us.foldl (fun s u => match u.unit with | .phys p _ _ => s.addTlb p.tlb | _ => s) s

/-- A message of a group for a far unit; `bsrc` is the register of its operand, for a store-class instruction (R80). -/
def State.sendFar (s : State) (r : GRef) (t : Team) (g : Group) (op : Nat) (u : LaneUnit) (rank region off : Nat)
    (after : List Nat) (track : Bool) (kind : MsgKind) (bsrc : Option Nat := none) : State :=
  let (id, s) := s.addMsg { mkMsg r t g (some op) rank region off u.lane u.addr kind with after := after, bsrc := bsrc }
  if track then s.addNeed op id else s

/-! ### Loads (R194, R195, R117) -/

/-- A region that holds sealed-version pages, by the own chart (R293). -/
def State.sealedRegion (s : State) (region : Nat) : Bool :=
  match s.fab.chart with
  | some c => (c.regions[region]?.map (·.kind)) = some 3
  | none => false

/-- The version under which a group reads a page of another rank's region since its last acquire (R117). -/
def Group.sealOf (g : Group) (rank region page : Nat) : Option Nat :=
  (g.seals.find? fun h => h.rank = rank && h.region = region && h.page = page).map (·.version)

/-- Bytes of a sealed line in the own L2, by rank, region, version and place (R116), with the world that the line carries (R413). -/
def State.sealLine (s : State) (rank region version off n : Nat) : Option (Nat × List Byte) :=
  (s.fab.sealLines.find? fun l => l.rank = rank && l.region = region && l.version = version && l.off ≤ off && off + n ≤ l.off + l.bytes.length).map
    fun l => (l.world, (l.bytes.drop (off - l.off)).take n)

/-- A far load of one unit: a read, or for a sealed page the rules of R117. The firewall checks a hit in the own L2 (R413). -/
def State.farLoad (s : State) (r : GRef) (t : Team) (g : Group) (op : Nat) (u : LaneUnit) (rank region off : Nat)
    (ru : ReadUnit) : State :=
  if s.sealedRegion region then
    match g.sealOf rank region (off / 2 ^ 16) with
    | some v =>
      match s.sealLine rank region v off ru.bytes with
      | some (w, bs) =>
        if s.permits (s.worldOf t) w then s.addWrites (some op) (ru.writes bs)
        else s.fatal r { code := .world, detail := u.lane, slot := some g.slot, addr := u.addr, hdr := some g.pc }
      | none => s.sendFar r t g op u rank region off [] true (.sealRead ru v)
    | none => s.sendFar r t g op u rank region off [] true (.version (off / 2 ^ 16) [ru] g.acqs)
  else s.sendFar r t g op u rank region off [] true (.read [ru])

/-- A unit of a load is at hand in L1: nothing that the group did to it earlier is on its way. An acquiring load takes only what the core
owns (R105, R197, R201). DEDUCED (log entry 82). -/
def State.l1Take (s : State) (r : GRef) (core : Nat) (acq : Bool) (p : Phys) (n : Nat) : Option (List Byte) :=
  if p.nc || s.isLost p.pa || s.ownPending r p.pa n || s.ownContrib r p.pa n || (acq && !s.l1Owns core p.pa n) then none else s.l1Read core p.pa n

/-- Sends the accesses of a load whose units passed R196. `dst` gives the register of a unit. -/
def State.load (s : State) (r : GRef) (t : Team) (g : Group) (fs acq : Bool) (n : Nat) (us : List LaneUnit)
    (dst : LaneUnit → Nat → ReadUnit) : Res :=
  if s.memStalled r g fs acq n us then .stay s g
  else if us.isEmpty then .done s g
  else
    let s := s.learnTlb us
    let world := s.worldOf t
    let us := us.flatMap (LaneUnit.accesses n)
    let n := min n 8
    let (op, s) := s.fresh
    let far := us.any fun u => match u.unit with | .far _ _ _ _ => true | _ => false
    let s := s.addOp op { mkOp r g fs .load with acq := acq, far := far }
    let s := us.foldl (fun s u =>
      match u.unit with
      | .spad a =>
        if s.late then s.sendReq (mkReq r t g world (some op) a false u [] (.spadRead [dst u a])) true
        else s.addWrites (some op) ((dst u a).writes (s.spad.readN a n))
      | .far rank reg off _ => s.farLoad r t g op u rank reg off (dst u off)
      | .phys p _ _ =>
        match s.l1Take r t.coreN acq p n with
        | some bs => s.addWrites (some op) ((dst u p.pa).writes bs)
        | none => s) s
    let s0 := s
    let misses := us.filterMap fun u =>
      match u.unit with
      | .phys p _ _ => if (s0.l1Take r t.coreN acq p n).isNone then some (0, u, p) else none
      | _ => none
    let s := (linesOf misses).foldl (fun s (k, xs) =>
      match xs with
      | [] => s
      | (u, p) :: _ =>
        s.sendReq { mkReq r t g world (some op) (128 * k) p.nc u [] (.read (xs.map fun (u, p) => dst u p.pa)) with target := s.targetOf u }
          true) s
    .done s (g.raiseFlag fs)

/-- LD (R192 to R194). -/
def execLd (f : FmtBR) (s : State) : Host.Outcome State Fault Refusal :=
  s.issue f.len fun r t g =>
    let n := accBytes f
    match s.checkAll t r.grp f.mod.toNat n { write := false } ((g.sel f).lanes.map fun l => (l, laneX f g l)) with
    | .error e => e.res
    | .ok us => s.load r t g (f.w1.fs = 1) (f.w1.acq = 1) n us fun u a => ⟨a, min n 8, true, f.d.toNat + 2 * u.half, u.lane⟩

/-- One unit of a once-per-group instruction (R195, R213, R215): lane 0xFF. -/
def State.checkOne (s : State) (t : Team) (grp mod n : Nat) (k : AccKind) (x : Int) : Except AccErr (List LaneUnit) :=
  s.checkAll t grp mod n k [(0xFF, x)]

/-- LDS in either form (R195). -/
def loadScalar (s : State) (r : GRef) (t : Team) (g : Group) (mod n : Nat) (fs acq : Bool) (x : Int) (d : Nat) : Res :=
  match s.checkOne t r.grp mod n { write := false } x with
  | .error e => e.res
  | .ok us => s.load r t g fs acq n us fun _ a => ⟨a, n, false, d, 0xFF⟩

/-- LDS, base form: b64, generic (R195). -/
def execLds (f : FmtBI) (s : State) : Host.Outcome State Fault Refusal :=
  s.issue 1 fun r t g => loadScalar s r t g 0 8 false false (((g.s f.a.toNat).toNat : Int) + f.imm11.toInt) f.d.toNat

/-- LDS, extended form (R195). -/
def execLdsExt (f : FmtBR) (s : State) : Host.Outcome State Fault Refusal :=
  s.issue f.len fun r t g =>
    loadScalar s r t g f.mod.toNat (accBytes f) (f.w1.fs = 1) (f.w1.acq = 1) (((g.s f.a.toNat).toNat : Int) + f.off24) f.d.toNat

/-! ### Stores (R194, R195, R197) -/

/-- A scratchpad performs a write (R107). -/
def State.spadWriteN (s : State) (addr : Nat) (bs : List Byte) : State := { s with spad := s.spad.writeN addr bs }

/-- Sends the accesses of a store whose units passed R196; `data` gives the bytes of an access and the register they come from. With REL
they go only once R111 holds. One group's scratchpad accesses are performed as it issues, unless the schedule has them performed later, in
any order (R109; DESIGN CHOICE, log entry 11). -/
def State.store (s : State) (r : GRef) (t : Team) (g : Group) (fs rel : Bool) (n : Nat) (us : List LaneUnit)
    (data : LaneUnit → List Byte) (src : LaneUnit → Nat × Option Nat) : Res :=
  if s.memStalled r g fs false n us then .stay s g
  else if us.isEmpty then .done s g
  else
    let s := s.learnTlb us
    let world := s.worldOf t
    let after := if rel then s.outstanding r else []
    let us := (lastWriters us).flatMap (LaneUnit.accesses n)
    let (op, s) := s.fresh
    let s := s.addOp op (mkOp r g fs .plain)
    let s := us.foldl (fun s u =>
      match u.unit with
      | .spad a =>
        if after.isEmpty && !s.late then s.spadWriteN a (data u)
        else
          s.sendReq { mkReq r t g world none a false u after (.spadWrite [⟨a, data u, some (src u)⟩]) with rel := rel, srcOp := some op } false
      | .far rank reg off _ => s.sendFar r t g op u rank reg off after false (.write [⟨off, data u, some (src u)⟩])
      | .phys _ _ _ => s) s
    let phys := us.filterMap fun u => match u.unit with | .phys p _ _ => some (0, u, p) | _ => none
    let s := (linesOf phys).foldl (fun s (k, xs) =>
      match xs with
      | [] => s
      | (u, p) :: _ =>
        s.sendReq { mkReq r t g world none (128 * k) p.nc u after (.write (xs.map fun (u, p) => ⟨p.pa, data u, some (src u)⟩)) with
          rel := rel, srcOp := some op, target := s.targetOf u } false) s
    .done s (g.raiseFlag fs)

/-- The `n` low bytes of the registers of a lane (R194). -/
def laneBytes (g : Group) (d n l : Nat) : List Byte :=
  ((List.range (max 1 (n / 4))).flatMap fun j => leBytes 4 ((g.v (d + j)).lane l).toNat).take n

/-- ST (R192 to R194). -/
def execSt (f : FmtBR) (s : State) : Host.Outcome State Fault Refusal :=
  s.issue f.len fun r t g =>
    let n := accBytes f
    match s.checkAll t r.grp f.mod.toNat n { write := true } ((g.sel f).lanes.map fun l => (l, laneX f g l)) with
    | .error e => e.res
    | .ok us => s.store r t g (f.w1.fs = 1) (f.w1.rel = 1) n us (fun u => laneBytes g (f.d.toNat + 2 * u.half) (min n 8) u.lane)
        fun u => (f.d.toNat + 2 * u.half, some u.lane)

/-- STS in either form (R195). -/
def storeScalar (s : State) (r : GRef) (t : Team) (g : Group) (mod n : Nat) (fs rel : Bool) (x : Int) (d : Nat) : Res :=
  match s.checkOne t r.grp mod n { write := true } x with
  | .error e => e.res
  | .ok us => s.store r t g fs rel n us (fun _ => leBytes n (g.s d).toNat) fun _ => (d, none)

/-- STS, base form (R195). -/
def execSts (f : FmtBI) (s : State) : Host.Outcome State Fault Refusal :=
  s.issue 1 fun r t g => storeScalar s r t g 0 8 false false (((g.s f.a.toNat).toNat : Int) + f.imm11.toInt) f.d.toNat

/-- STS, extended form (R195). -/
def execStsExt (f : FmtBR) (s : State) : Host.Outcome State Fault Refusal :=
  s.issue f.len fun r t g =>
    storeScalar s r t g f.mod.toNat (accBytes f) (f.w1.fs = 1) (f.w1.rel = 1) (((g.s f.a.toNat).toNat : Int) + f.off24) f.d.toNat

/-! ### Atomics and reductions (R213 to R217) -/

/-- Op(old, b) of ATOM (R213). -/
def atomOp (sub bytes : Nat) (old b c : Nat) : Nat :=
  let bits := 8 * bytes
  match sub with
  | 0 => (old + b) % 2 ^ bits
  | 1 => minOf bits false old b
  | 2 => minOf bits true old b
  | 3 => maxOf bits false old b
  | 4 => maxOf bits true old b
  | 5 => old &&& b
  | 6 => old ||| b
  | 7 => old ^^^ b
  | 8 => b
  | 9 => if old = c then b else old
  | _ => f32add old b

/-- The value of s[r] at a width. -/
def lowOf (bytes : Nat) (x : DWord) : Nat := x.toNat % 2 ^ (8 * bytes)

/-- What an ATOM writes back (R213): nothing to s63. -/
def atomWrites (dst old : Nat) : List RegWrite := if dst = 63 then [] else [.s dst (BitVec.ofNat 64 old)]

/-- ATOM on a scratchpad unit (R214). -/
def State.spadAtom (s : State) (addr sub bytes : Nat) (b c : DWord) : Nat × State :=
  let old := s.spad.num addr bytes
  (old, s.spadWriteN addr (leBytes bytes (atomOp sub bytes old (lowOf bytes b) (lowOf bytes c))))

/-- ATOM (R213, R214). -/
def execAtom (f : FmtBR) (s : State) : Host.Outcome State Fault Refusal :=
  s.issue f.len fun r t g =>
    let n := accBytes f
    let fs : Bool := f.w1.fs = 1
    let acq : Bool := f.w1.acq = 1
    let b := g.s f.b.toNat
    let c := g.s f.c.toNat
    let d := f.d.toNat
    let sub := f.sub.toNat
    match s.checkOne t r.grp 0 n { write := true, atom := true } (((g.s f.a.toNat).toNat : Int) + f.off24) with
    | .error e => e.res
    | .ok [] => .done s g
    | .ok (u :: _) =>
      if s.memStalled r g fs acq n [u] then .stay s g
      else
        let s := s.learnTlb [u]
        let rel : Bool := f.w1.rel = 1
        let after := if rel then s.outstanding r else []
        let (op, s) := s.fresh
        let track := acq || d ≠ 63
        let bsrc := if d = 63 then some f.b.toNat else none
        let far := match u.unit with | .far _ _ _ _ => true | _ => false
        let s := s.addOp op { mkOp r g fs .load with acq := acq, far := far }
        let world := s.worldOf t
        let s := match u.unit with
          | .spad a =>
            if after.isEmpty && !s.late then
              let (old, s) := s.spadAtom a sub n b c
              s.addWrites (some op) (atomWrites d old)
            else
              s.sendReq { mkReq r t g world (some op) a false u after (.spadAtom sub n b c d) with
                rel := rel, bsrc := bsrc, srcOp := some op } track
          | .phys p _ _ =>
            s.sendReq { mkReq r t g world (some op) p.pa p.nc u after (.atom sub n b c d) with
              rel := rel, bsrc := bsrc, srcOp := some op, target := s.targetOf u } track
          | .far rank reg off _ => s.sendFar r t g op u rank reg off after track (.atom sub n b c d) bsrc
        .done s (g.raiseFlag fs)

/-- RED, integer and bitwise (R215 to R217). -/
def execRed (f : FmtBR) (s : State) : Host.Outcome State Fault Refusal :=
  s.issue f.len fun r t g =>
    let n := accBytes f
    let fs : Bool := f.w1.fs = 1
    let b := g.s f.b.toNat
    let sub := f.sub.toNat
    let nat : Bool := f.mod.getLsbD 0
    match s.checkOne t r.grp 0 n { write := true, red := true } (((g.s f.a.toNat).toNat : Int) + f.off24) with
    | .error e => e.res
    | .ok [] => .done s g
    | .ok (u :: _) =>
      if s.memStalled r g fs false n [u] then .stay s g
      else
        let s := s.learnTlb [u]
        let rel : Bool := f.w1.rel = 1
        let after := if rel then s.outstanding r else []
        let (op, s) := s.fresh
        let s := s.addOp op (mkOp r g fs .plain)
        let world := s.worldOf t
        let s := match u.unit with
          | .spad a =>
            if after.isEmpty && !s.late then s.spadWriteN a (leBytes n (redOp sub nat n (s.spad.num a n) (lowOf n b)))
            else
              s.sendReq { mkReq r t g world none a false u after (.spadRed sub nat n b) with
                rel := rel, bsrc := some f.b.toNat, srcOp := some op } false
          | .phys p _ _ =>
            s.sendReq { mkReq r t g world none p.pa p.nc u after (.red sub nat n b) with
              rel := rel, bsrc := some f.b.toNat, srcOp := some op } false
          | .far _ _ _ _ => s
        .done s (g.raiseFlag fs)

/-- RED FADD (R215, R218): sends a sequenced contribution to the home slice of its unit. -/
def execRedFadd (f : FmtBR) (s : State) : Host.Outcome State Fault Refusal :=
  s.issue f.len fun r t g =>
    let fs : Bool := f.w1.fs = 1
    match s.checkOne t r.grp 0 4 { write := true, red := true, seq := true } (((g.s f.a.toNat).toNat : Int) + f.off24) with
    | .error e => e.res
    | .ok [] => .done s g
    | .ok (u :: _) =>
      if s.memStalled r g fs false 4 [u] then .stay s g
      else
        let s := s.learnTlb [u]
        let after := if f.w1.rel = 1 then s.outstanding r else []
        if !s.allDone after then .stay s { g with waiting := true }
        else
          let (op, s) := s.fresh
          let s := s.addOp op (mkOp r g fs .plain)
          let (id, s) := s.fresh
          let first := f.mod.getLsbD 0
          let s := match u.unit with
            | .phys p _ _ =>
              let c : Contrib :=
                { ctx := t.ctx, world := s.worldOf t, unit := p.pa,
                  index := if first then 0 else bitsOf (g.s f.c.toNat).toNat 23 0, bf16 := f.sub = 9,
                  value := (g.s f.b.toNat).extractLsb' 0 32, first := first, last := f.mod.getLsbD 1, owner := some r,
                  op := some op, copy := none, held := false, waits := false, stalled := false, va := u.addr.toNat, hdr := g.pc,
                  slot := g.slot, since := s.ref, rel := f.w1.rel = 1, src := some f.b.toNat, phase := s.routePhase p.pa }
              { s with contribs := s.contribs.put id c }
            | _ => s
          .done s (g.raiseFlag fs)

/-! ### Prefetch (R212) -/

/-- A word of a line that PREF fills: V, unless the L1 holds it as its owner (R201). -/
def State.prefWord (s : State) (core w : Nat) : State :=
  match s.l1At core (4 * w) with
  | some .o | some (.d _) => s
  | _ => { s with l1 := s.l1.put (l1Key core (4 * w)) (.v (BitVec.ofNat 32 (s.mem.num (4 * w) 4))) }

/-- Fills the words of a line in L1 (R201, R212). -/
def State.prefLine (s : State) (t : Team) (va : Nat) : State :=
  match s.xlate (some t.coreN) t.ctx (s.worldOf t) va .read with
  | .ok p =>
    if s.isLost p.pa || p.nc then s
    else
      let a := p.pa / 128 * 128
      let s := ((s.addTlb p.tlb).combine a 128).cacheTouch a false
      ((wordsOf a 128).foldl (fun s w => s.prefWord t.coreN w) s).trimL1 t.coreN (a / 128)
  | .error _ => s

/-- PREF (R212). Lines that cannot be read are skipped. -/
def execPref (f : FmtBR) (s : State) : Host.Outcome State Fault Refusal :=
  s.issue f.len fun r t g =>
    let fs : Bool := f.w1.fs = 1
    let a := BitVec.ofInt 64 (((g.s f.a.toNat).toNat : Int) + f.off24)
    match s.where_ t.coreN a 1 with
    | .error c => if c = .illAddr then .fault (laneFault 0xFF c 0 a) else s.startWrites r g fs []
    | .ok w =>
      if g.flagFull fs then .stay s g
      else
        match w with
        | .virt va _ =>
          if f.mod = 0 then
            .done ((List.range (f.w2.ext.toNat + 1)).foldl (fun s k => s.prefLine t (va / 128 * 128 + 128 * k)) s) g
          else .done s g
        | _ => .done s g

/-! ### What a home refuses, and what it holds (R386, R394, R396, R410, R423) -/

/-- Why a home refuses every access to an address: it is retired, or lost (R386, R396). -/
def State.homeBad (s : State) (pa : Nat) : Option FaultCode :=
  if s.physKind pa = .retired then some .addrRetired else if s.isLost pa then some .dataLost else none

/-- The firewall behind the L2 refuses the request: the matrix, or the owner, has changed since it was checked (R196, R410). -/
def State.lateWorld (s : State) (world pa : Nat) (target : Option Nat) : Bool := !s.permits world (target.getD (s.ownerWorld pa))

/-- Why a home refuses an access that has passed its checks: its memory is retired or lost, its world has no right to it any more, or a write
meets a sealed range or sealed code (R309, R386, R396, R410, R411, R423). -/
def State.lateRefusal (s : State) (world pa : Nat) (write : Bool) (target : Option Nat := none) : Option FaultCode :=
  match s.homeBad pa with
  | some c => some c
  | none =>
    if s.lateWorld world pa target then some .world
    else if write && s.sealedAt pa then some .sealed
    else if write && s.codeSealedAt pa then some .pageProt
    else none

/-- A write to a frame that is MOVING is held at its old home until the commit (R394). -/
def State.frameMoving (s : State) (pa : Nat) : Bool :=
  s.stk.migrating && pa < 2 ^ 40 && s.stk.mig.get? (frameOf pa) = some .moving

/-- One more stall (R391). -/
def State.countStall (s : State) : State := { s with stk := { s.stk with stalls := min (s.stk.stalls + 1) (2 ^ 32 - 1) } }

/-- One more replay (R391). DEDUCED (log entry 103): a stalled write counts as replayed too once it is forwarded, as R393 calls it. -/
def State.countReplay (s : State) : State := { s with stk := { s.stk with replays := min (s.stk.replays + 1) (2 ^ 32 - 1) } }

/-- A write begins to be held: it stalls once (R394). -/
def State.stall (s : State) (key : Nat × Nat) : State :=
  if s.stk.held.contains key then s
  else { s.countStall with stk := { s.countStall.stk with held := key :: s.stk.held } }

/-- A write that was held is forwarded to the new home (R394). -/
def State.forward (s : State) (key : Nat × Nat) : State :=
  if s.stk.held.contains key then { s.countReplay with stk := { s.countReplay.stk with held := s.stk.held.erase key } } else s

/-- The writes that one thing is about to make, in order: whether they are held, because a frame of theirs is MOVING (R394). -/
def State.holdWrites (s : State) (id : Nat) (pas : List Nat) : Bool × State :=
  let moving := pas.filter s.frameMoving
  if moving.isEmpty then (false, pas.foldl (fun s pa => s.forward (id, pa)) s) else (true, moving.foldl (fun s pa => s.stall (id, pa)) s)

/-! ### A request at its home (R107, R201, R214, R216, R225, R386, R394, R396) -/

/-- The group holds a lock that guards the address (R225). -/
def State.guards (s : State) (r : Option GRef) (pa : Nat) : Bool :=
  match r with
  | none => false
  | some r => s.locks.any fun (_, l) => l.holder = some r && !l.pushing && l.phys.any fun (a, n) => a ≤ pa && pa < a + n

/-- The words of a core that are changed under a lock, in a range, are written through before another kind of access takes
them. -/
def State.flushWords (s : State) (core pa n : Nat) : State := s.writeBack core [(pa / 4 * 4, (pa + n + 3) / 4 * 4 - pa / 4 * 4)]

/-- One word of a store to guarded words by the holder: fetched in state O where the core does not own it, kept in L1 and marked changed
(R201, R225). -/
def State.storeGuardedWord (s : State) (core pa : Nat) (bs : List Byte) (w : Nat) : State :=
  let s := (if s.wordOwner.get? w = some core then s
    else ((s.combine (4 * w) 4).cacheTouch (4 * w) false).ownWord (some core) false w).dropPartner core w
  let old : Word := match s.l1At core (4 * w) with
    | some (.d x) => x
    | _ => BitVec.ofNat 32 (s.mem.num (4 * w) 4)
  let new := leNat ((List.range 4).map fun i =>
    let a := 4 * w + i
    if pa ≤ a && a < pa + bs.length then bs[a - pa]?.getD 0 else (old >>> (8 * i)).truncate 8)
  { s with l1 := s.l1.put (l1Key core (4 * w)) (.d (BitVec.ofNat 32 new)) }

/-- A store to guarded words by the holder (R225). -/
def State.storeGuarded (s : State) (core pa : Nat) (bs : List Byte) : State :=
  ((wordsOf pa bs.length).foldl (fun s w => s.storeGuardedWord core pa bs w) s).trimL1 core (pa / 128)

/-- One unit of a store at its home. -/
def State.storeUnit (s : State) (q : Req) (u : WriteUnit) : State :=
  if !q.nc && s.guards q.owner u.addr then (s.combinePartials u.addr u.data.length).storeGuarded q.core u.addr u.data
  else
    let s := s.flushWords q.core u.addr u.data.length
    s.performWrite (some q.core) q.nc u.addr u.data

/-- Drops the words of a range from a core's L1. -/
def State.dropL1 (s : State) (core pa n : Nat) : State :=
  { s with l1 := (wordsOf pa n).foldl (fun l w => l.del (l1Key core (4 * w))) s.l1 }

/-- An atomic at the home (R214): answers the old value. The word leaves the issuer's L1. -/
def State.atomAt (s : State) (core : Nat) (pa sub bytes : Nat) (b c : DWord) : Nat × State :=
  let s := (s.flushWords core pa bytes).combine pa bytes
  let old := s.mem.num pa bytes
  (old, (s.performWrite none false pa (leBytes bytes (atomOp sub bytes old (lowOf bytes b) (lowOf bytes c)))).dropL1 core pa bytes)

/-- A reduction at the home at once: NC pages and frames in DRAIN (R203, R395). -/
def State.redAt (s : State) (core pa sub : Nat) (nat : Bool) (bytes : Nat) (b : DWord) : State :=
  let s := (s.flushWords core pa bytes).combine pa bytes
  (s.performWrite none false pa (leBytes bytes (redOp sub nat bytes (s.mem.num pa bytes) (lowOf bytes b)))).dropL1 core pa bytes

/-- A reduction into the update-only partial of a core. A registration with another operation or size is an access that makes the home
combine what it has of the unit, whichever core holds it (R102, R201, R216; DEDUCED, log entry 83). A word that a holder has changed under a
lock comes back first, so that its write-back does not undo the reduction (R225). -/
def State.redPartial (s : State) (core pa sub : Nat) (nat : Bool) (bytes : Nat) (b : DWord) (ctx va : Nat) : State :=
  let s := (s.flushWords core pa bytes).flushOwner pa bytes
  let alike (p : Partial) : Bool := p.addr = pa && p.bytes = bytes && p.sub = sub && p.nat = nat
  let mine (p : Partial) : Bool := p.core = core && p.ctx = ctx && alike p
  let s := if s.partials.any (fun p => overlaps p.addr p.bytes pa bytes && !alike p) then s.combine pa bytes else s
  let x := lowOf bytes b
  let s := if s.partials.any mine then
      { s with partials := s.partials.map fun p => if mine p then { p with value := redOp sub nat bytes p.value x, va := va } else p }
    else
      { s with partials := s.partials ++ [⟨core, pa, bytes, sub, nat, redOp sub nat bytes (redIdentity sub nat bytes) x, ctx, va⟩] }
  (s.dropL1 core pa bytes).trimL1 core (pa / 128)

/-- Removes a request. -/
def State.endReq (s : State) (id : Nat) : State := { s with reqs := s.reqs.del id }

/-- A fault found at the home (R196): the context ends, and the request is gone. -/
def State.reqFault (s : State) (id : Nat) (q : Req) (c : FaultCode) : State :=
  let s := s.endReq id
  match q.owner with
  | some r => s.fatal r { code := c, detail := accDetail c q.lane 0, slot := some q.slot, addr := BitVec.ofNat 64 q.va, hdr := some q.hdr }
  | none => s

/-- A request is performed. -/
def State.performReq (s : State) (id : Nat) (q : Req) : State :=
  let core := q.core
  match q.kind with
  | .read us =>
    (us.foldl (fun s u =>
      let (bs, s) := s.performRead (some core) q.nc u.addr u.bytes
      s.addWrites q.op (u.writes bs)) (us.foldl (fun s u => s.flushWords core u.addr u.bytes) s)).endReq id
  | .write us => (us.foldl (fun s u => s.storeUnit q u) s).endReq id
  | .atom sub n b c d =>
    let (old, s) := s.atomAt core q.addr sub n b c
    (s.addWrites q.op (atomWrites d old)).endReq id
  | .red sub nat n b =>
    if q.nc || s.stk.mig.get? (frameOf q.addr) = some .drain then (s.redAt core q.addr sub nat n b).endReq id
    else (s.redPartial core q.addr sub nat n b q.ctx q.va).endReq id
  | .spadRead us => (us.foldl (fun s u => s.addWrites q.op (u.writes (s.spad.readN u.addr u.bytes))) s).endReq id
  | .spadWrite us => (us.foldl (fun s u => s.spadWriteN u.addr u.data) s).endReq id
  | .spadAtom sub n b c d =>
    let (old, s) := s.spadAtom q.addr sub n b c
    (s.addWrites q.op (atomWrites d old)).endReq id
  | .spadRed sub nat n b => (s.spadWriteN q.addr (leBytes n (redOp sub nat n (s.spad.num q.addr n) (lowOf n b)))).endReq id

/-- The request is a read, for R394. -/
def Req.isRead (q : Req) : Bool := match q.kind with | .read _ => true | _ => false

/-- Nothing of the same group that comes earlier stands before the request (R101, R109, R197). -/
def State.reqFirst (s : State) (id : Nat) (q : Req) : Bool :=
  let (a, n) := q.range
  let blocked := match q.kind with
    | .read us => s.contribs.any fun (k, c) =>
        k < id && q.owner.isSome && c.owner = q.owner && us.any fun u => overlaps c.unit 4 u.addr u.bytes
    | _ => false
  !blocked && !s.reqs.any fun (k, x) =>
    k < id && x.owner = q.owner && q.owner.isSome && x.atSpad = q.atSpad && (let (b, m) := x.range; overlaps a n b m)


/-- Nothing holds the request up before its home, and the home serves it (R196, R386, R394). -/
def State.mayServe (s : State) (id : Nat) (q : Req) : Bool :=
  s.allDone q.after && s.reqFirst id q
  && (q.atSpad
      || ((s.lateRefusal q.world q.addr (!q.isRead) q.target).isNone && !(!q.isRead && s.frameMoving q.addr)))

/-- A request of several units as its `k`-th unit and the others. -/
def ReqKind.pick (x : ReqKind) (k : Nat) : Option (ReqKind × ReqKind) :=
  match x with
  | .read us => if us.length < 2 then none else us[k]?.map fun u => (.read [u], .read (us.eraseIdx k))
  | .write us => if us.length < 2 then none else us[k]?.map fun u => (.write [u], .write (us.eraseIdx k))
  | _ => none

/-- One unit of a request is performed before the others (R100, R101). -/
def State.servePart (s : State) (id k : Nat) : State :=
  match s.reqs.get? id with
  | none => s
  | some q =>
    if !s.mayServe id q then s
    else
      match q.kind.pick k with
      | none => s
      | some (one, rest) =>
        let s := s.performReq id { q with kind := one }
        { s with reqs := s.reqs.put id { q with kind := rest } }

/-- The `j`-th 32-bit element of a store's data, replaced by what its source register holds now (R80). -/
def WriteUnit.reread (u : WriteUnit) (g : Group) (j : Nat) : WriteUnit :=
  match u.src with
  | none => u
  | some (r, l) =>
    let w := match l with
      | some l => (g.v (r + j)).lane l
      | none => (g.s r).extractLsb' (32 * j) 32
    { u with data := (u.data.take (4 * j) ++ leBytes 4 w.toNat ++ u.data.drop (4 * j + 4)).take u.data.length }

/-- An operand with its `j`-th 32-bit element as its register holds it now (R80). -/
def rereadOperand (g : Group) (src : Option Nat) (j : Nat) (b : DWord) : DWord :=
  match src with
  | some r => setWord b j ((g.s r).extractLsb' (32 * j) 32)
  | none => b

/-- A request of an outstanding store-class instruction takes an element of its source again (R80). -/
def Req.reread (q : Req) (g : Group) (k j : Nat) : Req :=
  match q.kind with
  | .write us => { q with kind := .write (listUpd us k fun u => u.reread g j) }
  | .spadWrite us => { q with kind := .spadWrite (listUpd us k fun u => u.reread g j) }
  | .atom sub n b c d => { q with kind := .atom sub n (rereadOperand g q.bsrc j b) c d }
  | .red sub nat n b => { q with kind := .red sub nat n (rereadOperand g q.bsrc j b) }
  | .spadAtom sub n b c d => { q with kind := .spadAtom sub n (rereadOperand g q.bsrc j b) c d }
  | .spadRed sub nat n b => { q with kind := .spadRed sub nat n (rereadOperand g q.bsrc j b) }
  | _ => q

/-- The same for a contribution (R80). -/
def Contrib.reread (c : Contrib) (g : Group) : Contrib :=
  { c with value := match c.src with
      | some r => (g.s r).extractLsb' 0 32
      | none => c.value }

/-- The same for a message (R80). -/
def Msg.reread (m : Msg) (g : Group) (k j : Nat) : Msg :=
  match m.kind with
  | .write us => { m with kind := .write (listUpd us k fun u => u.reread g j) }
  | .atom sub n b c d => { m with kind := .atom sub n (rereadOperand g m.bsrc j b) c d }
  | .contrib c => { m with kind := .contrib (c.reread g) }
  | _ => m

/-- A store-class instruction that has not completed uses its source as it stands now, for one element (R80). -/
def State.rereadSource (s : State) (id k j : Nat) : State :=
  match s.reqs.get? id with
  | some q =>
    match q.srcOp.bind s.ops.get?, q.owner.bind s.group? with
    | some _, some g => { s with reqs := s.reqs.put id (q.reread g k j) }
    | _, _ => s
  | none =>
    match s.msgs.get? id with
    | some m =>
      match m.op.bind s.ops.get?, m.owner.bind s.group? with
      | some _, some g => if m.inbound || m.state ≠ .queued then s else { s with msgs := s.msgs.put id (m.reread g k j) }
      | _, _ => s
    | none =>
      match s.contribs.get? id with
      | some c =>
        match c.op.bind s.ops.get?, c.owner.bind s.group? with
        | some _, some g => if c.held then s else { s with contribs := s.contribs.put id (c.reread g) }
        | _, _ => s
      | none => s

/-- A request routed under the old mapping reaches a frame that is NEW by now (R394). -/
def State.replayed (s : State) (pa phase : Nat) : Bool :=
  pa < 2 ^ 40 && phase ≠ s.stk.mphase.toNat && !(s.stk.migrating && (s.stk.mig.get? (frameOf pa)).getD .old ≠ .new)

/-- HOME_REQUEST_ARRIVAL (R394): the request reaches its home, and is served, replayed or stalled. -/
def execHomeRequestArrival (req : Nat) (s : State) : Host.Outcome State Fault Refusal :=
  match s.reqs.get? req with
  | none => .next s
  | some q =>
    if !s.allDone q.after || !s.reqFirst req q then .next s
    else if q.atSpad then .next (s.performReq req q)
    else
      match s.lateRefusal q.world q.addr (!q.isRead) q.target with
      | some c => .next (s.reqFault req q c)
      | none =>
        if s.frameMoving q.addr && !q.isRead then
          .next (if q.stalled then s else { s with reqs := s.reqs.put req { q with stalled := true } }.countStall)
        else .next ((if s.replayed q.addr q.phase then s.countReplay else s).performReq req q)

/-! ### Sequenced contributions (R218 to R220) -/

/-- What the stream of a unit expects: none when Closed, else the next index. -/
def State.streamNext (s : State) (ctx unit : Nat) : Option Nat :=
  (s.streams.find? fun x => x.ctx = ctx && x.unit = unit).map (·.next)

/-- The contribution is the one that its stream takes next (R218). -/
def State.eligible (s : State) (c : Contrib) : Bool :=
  match s.streamNext c.ctx c.unit with
  | none => c.first
  | some n => !c.first && c.index = n

/-- A contribution added to its unit (R218). -/
def addContrib (bf16 : Bool) (old : Nat) (v : Word) : Nat :=
  if bf16 then
    let e (k : Nat) : Nat :=
      Fmt.bf16.pack .rne 0 (sumExact false [Fmt.bf16.unpack (fElem 8 k (BitVec.ofNat 32 old)), Fmt.bf16.unpack (fElem 8 k v)])
    e 1 * 2 ^ 16 + e 0
  else f32add old v.toNat

/-- A copy of the unit leaves the L1 of the group that sent a contribution: its later loads find the value at the home (R197). -/
def State.dropIssuer (s : State) (c : Contrib) : State :=
  match c.owner.bind fun r => s.team? r.team with
  | some t => s.dropL1 t.coreN c.unit 4
  | none => s

/-- Applies a contribution: the unit, then the stream (R218). -/
def State.applyContrib (s : State) (id : Nat) (c : Contrib) : State :=
  let s := s.combine c.unit 4
  let s := (s.performWrite none false c.unit (leBytes 4 (addContrib c.bf16 (s.mem.num c.unit 4) c.value))).dropIssuer c
  let rest := s.streams.filter fun x => !(x.ctx = c.ctx && x.unit = c.unit)
  let next := if c.first then 1 else c.index + 1
  { s with streams := if c.last then rest else rest ++ [⟨c.ctx, c.unit, next⟩],
           contribs := (s.contribs.del id).map fun (k, x) =>
             (k, if (x.held || x.waits) && x.ctx = c.ctx && x.unit = c.unit then { x with since := s.ref } else x) }

/-- Entries in use in the reorder buffer of a slice (R219). -/
def State.reorderUsed (s : State) (slice : Nat) : Nat :=
  (s.contribs.filter fun (_, c) => c.held && s.sliceOf c.unit = slice).length

/-- The record of a fault that an engine outside the cores finds: it names no group, team or clause, and core 0 (R314, R320;
DESIGN CHOICE, log entry 24). -/
def State.engineFault (s : State) (c : FaultCode) (detail : Nat) (a : DWord) : FaultRec :=
  { code := c, kind := 0, core := 0, grp := 0xFF, team := 0, grid := 0, pc := 0, info := trapInfo detail 0 0 0, addr := a, clk := s.clk 0,
    detail := [] }

/-- A pilot command has failed (R314): its status holds the code, and the collective's context ends. -/
def State.cmdFail (s : State) (k : Nat) (c : FaultCode) (a : Nat) : State :=
  match s.fab.pilotCmds.get? k with
  | none => s
  | some x =>
    let ctx := ((s.fab.colls.get? x.coll).map (·.ctx)).getD 0
    let at_ := 0x10000000 + 64 * x.slot + 0x30
    let s := { s with fab := { s.fab with
      pilotCmds := s.fab.pilotCmds.del k,
      pilots := listUpd s.fab.pilots x.pilot fun p => { p with mem := p.mem.writeN at_ (leBytes 4 (0x100 + c.code.toNat)) } } }
    s.fatalCtx ctx (s.engineFault c (accDetail c 0xFF 0) (BitVec.ofNat 64 a))

/-- A contribution refused at its home: its copy reports the fault (R243), its pilot command fails (R314), its message answers with it
(R305), or the context ends (R196). -/
def State.contribFault (s : State) (id : Nat) (c : Contrib) (f : FaultCode) : State :=
  let rest := s.contribs.del id
  if c.copy.isSome then
    { s with contribs := rest,
             copies := s.copies.upd (c.copy.getD 0) fun x => { x with fault := some (x.fault.getD (f, BitVec.ofNat 64 c.va)) } }
  else if c.cmd.isSome then { s with contribs := rest }.cmdFail (c.cmd.getD 0) f c.va
  else if c.owner.isNone then
    { s with contribs := rest,
             msgs := s.msgs.map fun (k, m) =>
               (k, if m.inbound && m.after.contains id then { m with reply := some ([], f.code.toNat) } else m) }
  else
    { s with contribs := rest }.fatal (c.owner.getD ⟨0, 0⟩)
      { code := f, detail := accDetail f 0xFF 0, slot := some c.slot, addr := BitVec.ofNat 64 c.va, hdr := some c.hdr }

/-- A contribution is applied in its turn, unless its home refuses its unit by now (R116, R309, R386, R410). -/
def State.takeContrib (s : State) (id : Nat) (c : Contrib) : State :=
  match s.lateRefusal c.world c.unit true with
  | some f => s.contribFault id c f
  | none => s.applyContrib id c

/-- Applies the held contributions of a unit's stream that have become eligible (R218). -/
def State.drainStream (s : State) (ctx unit : Nat) : Nat → State
  | 0 => s
  | n + 1 =>
    match s.contribs.find? fun (_, c) => c.held && c.ctx = ctx && c.unit = unit && s.eligible c with
    | some (id, c) => State.drainStream (s.takeContrib id c) ctx unit n
    | none => s

/-- The frame takes no new held contributions or registrations (R395). -/
def State.frameDrains (s : State) (pa : Nat) : Bool :=
  s.stk.migrating && pa < 2 ^ 40 && s.stk.mig.get? (frameOf pa) = some .drain

/-- CONTRIBUTION_ARRIVAL (R218, R219, R394, R395). -/
def execContributionArrival (contrib : Nat) (s : State) : Host.Outcome State Fault Refusal :=
  match s.contribs.get? contrib with
  | none => .next s
  | some c =>
    if c.held || c.waits then .next s
    else
      match s.lateRefusal c.world c.unit true with
      | some f => .next (s.contribFault contrib c f)
      | none =>
        if s.frameMoving c.unit then
          .next (if c.stalled then s else { s with contribs := s.contribs.put contrib { c with stalled := true } }.countStall)
        else
          let s := if s.replayed c.unit c.phase then s.countReplay else s
          if s.eligible c then .next ((s.applyContrib contrib c).drainStream c.ctx c.unit s.contribs.length)
          else if s.frameDrains c.unit || 4096 ≤ s.reorderUsed (s.sliceOf c.unit) then
            .next { s with contribs := s.contribs.put contrib { c with waits := true, since := s.ref } }
          else .next { s with contribs := s.contribs.put contrib { c with held := true, since := s.ref } }

/-- REORDER_ENTRY_FREE (R219): a waiting contribution is sent when an entry is free, or when it has become eligible. -/
def execReorderEntryFree (contrib : Nat) (s : State) : Host.Outcome State Fault Refusal :=
  match s.contribs.get? contrib with
  | none => .next s
  | some c =>
    if c.waits && ((s.reorderUsed (s.sliceOf c.unit) < 4096 && !s.frameDrains c.unit) || s.eligible c) then
      .next { s with contribs := s.contribs.put contrib { c with waits := false, phase := s.routePhase c.unit } }
    else .next s

/-- RED_STALL (R220): the stream's next contribution has not come within the lookout limit; the context ends and its held
contributions are discarded. DESIGN CHOICE (log entry 24): its record names no group, and core 0, as no rule gives them. -/
def execRedStall (ctx unit : Nat) (s : State) : Host.Outcome State Fault Refusal :=
  let late (c : Contrib) : Bool := c.ctx = ctx && c.unit = unit && (c.held || c.waits) && !s.eligible c
  match s.ctx? ctx, s.contribs.find? fun (_, c) => late c with
  | some x, some (_, c) =>
    if s.contribs.any fun (_, c) => late c && c.since + x.lookout ≤ s.ref then
      .next ({ s with contribs := s.contribs.filter fun (_, c) => !(c.ctx = ctx && c.held) }.fatalCtx ctx
        { code := .redStall, kind := 0, core := 0, grp := 0xFF, team := 0, grid := 0, pc := 0, info := trapInfo 0 0 0 0,
          addr := BitVec.ofNat 64 c.va, clk := s.clk 0, detail := [] })
    else .next s
  | _, _ => .next s

end Sys2Proof.Machine
end

