-- ==== Sys2Proof/Machine/Lines.lean ====
section
/-! DEFINITION. Lines of memory that cannot be corrected, and frames and lines written with zeros (13_memory_stacks.md R385,
R386, R400, R402; 14_security.md R412, R431). -/
namespace Sys2Proof.Machine
open Sys2Proof

/-- The first byte of a frame (R387). -/
def frameAddr (n : Nat) : Nat := if n < 0x80000 then n * 2 ^ 21 else 2 ^ 40 + (n - 0x80000) * 2 ^ 21

/-- Bytes of a frame. -/
def frameSize : Nat := 2 ^ 21

/-- The local virtual address of a physical one, through the pages of a lock's ranges. -/
def State.guardedVa (s : State) (core : Nat) (l : Lock) (pa : Nat) : Nat :=
  (l.ranges.findSome? fun (a, n) =>
    match s.where_ core a 128 with
    | .ok (.virt va _) => (List.range (n / 2 ^ 16 + 2)).findSome? fun i =>
        let page := (va / 2 ^ 16 + i) * 2 ^ 16
        match s.xlate (some core) l.ctx (s.ctxWorld l.ctx) page .read with
        | .ok p => if p.pa / 2 ^ 16 = pa / 2 ^ 16 then some (page + pa % 2 ^ 16) else none
        | .error _ => none
    | _ => none).getD 0

/-- Reductions that an L1 holds to a line that is lost can no longer be performed: their contexts end (R216, R386; DESIGN CHOICE, log entry
102). -/
def State.losePartials (s : State) : State :=
  let gone (p : Partial) : Bool := s.isLost p.addr
  (s.partials.filter gone).foldl (fun s p => s.fatalCtx p.ctx (s.engineFault .dataLost 0xFF (BitVec.ofNat 64 p.va)))
    { s with partials := s.partials.filter fun p => !gone p }

/-- Words of a line that is lost, which a lock holder has changed, can no longer be written back: its context ends (R225, R386; DESIGN CHOICE,
log entry 102). -/
def State.loseChanged (s : State) (l : Lock) : State :=
  match l.holder, l.holder.bind fun r => s.team? r.team with
  | some r, some t =>
    (match (s.changedWords t.coreN l.phys).filter s.isLost with
    | [] => s
    | pa :: pas =>
      { s with l1 := (pa :: pas).foldl (fun l1 a => l1.del (l1Key t.coreN a)) s.l1 }.fatal r
        { code := .dataLost, detail := 0xFF, addr := BitVec.ofNat 64 (s.guardedVa t.coreN l pa) })
  | _, _ => s

/-- Pilot commands that wait on a counter whose line is lost fail (R308, R314, R386). -/
def State.losePilots (s : State) : State :=
  s.fab.pilotCmds.foldl (fun s (k, x) =>
    match x.wait, x.result, s.fab.colls.get? x.coll with
    | some (a, _, _), none, some c => if s.counterLost 0 c.ctx a then s.cmdFail k .dataLost a.toNat else s
    | _, _, _ => s) s

/-- A line becomes lost: it is entered in the table, or its frame is fenced when the table is full; what had not been performed in it is lost
with it (R386). -/
def State.lineLost (s : State) (kind line : Nat) : State :=
  if s.stk.lost.any (fun l => l.line = line) || s.stk.fenced.contains (frameOf line) then s
  else
    let s := if s.stk.lost.length < 1024 then { s with stk := { s.stk with lost := s.stk.lost ++ [⟨kind, line⟩] } }
      else { s with stk := { s.stk with fenced := s.stk.fenced ++ [frameOf line] } }
    let s := s.losePartials
    (s.locks.foldl (fun s (_, l) => s.loseChanged l) s).losePilots

/-- The stack that holds an HBM4 address now (R388, R393). -/
def State.stackOf (s : State) (pa : Nat) : Nat :=
  let old := s.stk.migrating && (s.stk.mig.get? (frameOf pa)).getD .old ≠ .new
  (compassOf (if old then s.stk.oldActive else s.stk.active) s.stk.seed pa).1

/-- Changes a stack. -/
def State.updStack (s : State) (i : Nat) (f : Stack → Stack) : State :=
  { s with stk := { s.stk with stackTab := listUpd s.stk.stackTab i f } }

/-- A dirty hint as it is read: by majority of its three copies (R384). -/
def hintSet (h : BitVec 3) : Bool := 2 ≤ ((List.range 3).filter h.getLsbD).length

/-- The tag and state of a set cannot be corrected (R402): the set is invalidated, and the capacity line whose hint is set is lost. -/
def State.tagError (s : State) (set : Nat) : State :=
  let gone := { s with stk := { s.stk with lines := s.stk.lines.del set } }
  ((s.stk.hints.filter fun x => x.1 % s.cacheSets = set && hintSet x.2).map (·.1)).foldl (fun (s : State) c =>
    { s with stk := { s.stk with hints := s.stk.hints.del c } }.lineLost 2 (2 ^ 40 + 128 * c)) gone

/-- Data of a line of the cache cannot be corrected (R400): a clean line is filled again, a dirty one is lost. -/
def State.cacheError (s : State) (set : Nat) : State :=
  match s.stk.lines.get? set with
  | none => s
  | some l =>
    let c := l.tag * s.cacheSets + set
    if l.dirty then
      { s with stk := { s.stk with lines := s.stk.lines.del set, hints := s.stk.hints.del c } }.lineLost 1 (2 ^ 40 + 128 * c)
    else s

/-- One copy of the dirty hint of a capacity line flips (R384). -/
def State.hintError (s : State) (c copy : Nat) : State :=
  { s with stk := { s.stk with hints := s.stk.hints.put c ((s.stk.hints.get? c).getD 0 ^^^ (1#3 <<< copy)) } }

/-- An error found in a line. `n` is the line's physical address plus what the check bits of R384 make of it: 0 for two symbols of a sector,
which cannot be corrected, 1 for one symbol, which is corrected and counted, 2 for a cache tag or state that the SEC-DED check cannot correct, 3 to
5 for a flipped copy of a capacity line's dirty hint (R385, R400, R402). -/
def State.lineError (s : State) (n : Nat) : State :=
  let pa := n / 128 * 128
  match s.physKind pa with
  | .hbm =>
    if n % 128 = 1 then
      s.updStack (s.stackOf pa) fun x => { x with corrected := if x.corrected = BitVec.allOnes 32 then x.corrected else x.corrected + 1 }
    else if n % 128 = 0 then s.lineLost 0 pa
    else s
  | .cacheHeld =>
    if n % 128 = 1 then
      s.updStack (s.stackOf pa) fun x => { x with corrected := if x.corrected = BitVec.allOnes 32 then x.corrected else x.corrected + 1 }
    else if n % 128 = 0 then s.cacheError ((pa - s.stk.flat) / 128)
    else if n % 128 = 2 then s.tagError ((pa - s.stk.flat) / 128)
    else s
  | .cap =>
    let c := (pa - 2 ^ 40) / 128
    let held := !s.stk.bypass && s.stk.cache ≠ 0
      && (s.stk.lines.get? (c % s.cacheSets)).any fun (l : CacheLine) => l.tag = c / s.cacheSets
    if 3 ≤ n % 128 && n % 128 ≤ 5 then s.hintError c (n % 128 - 3) else if n % 128 = 0 && !held then s.lineLost 1 pa else s
  | _ => s

/-- Makes [pa, pa + n) read as the values of a table of bytes. -/
def State.fillWith (s : State) (pa n : Nat) (f : Nat → Byte) : State :=
  { s with mem := (s.mem.zero pa n).writeN pa ((List.range n).map fun i => f (pa + i)) }

/-- The engine's zeros: in standard mode the bytes read as zero; where the memory cipher is active the ciphertext is zero, and
the bytes read as its decryption under the key of the owner world (R412, R431). -/
def State.zeroLines (s : State) (pa n : Nat) : State :=
  let s := { s with partials := s.partials.filter fun p => !overlaps p.addr p.bytes pa n,
                    l1 := s.l1.filter fun (k, _) => !overlaps (4 * (k % 2 ^ 40)) 4 pa n,
                    wordOwner := s.wordOwner.filter fun (w, _) => !overlaps (4 * w) 4 pa n }
  if s.sec.mode = 0 then { s with mem := s.mem.zero pa n }
  else s.fillWith pa n (Config.decrypted (2 * (s.sec.keys.get? (s.ownerWorld pa)).getD 0))

end Sys2Proof.Machine
end

