-- ==== Sys2Proof/Machine/Control.lean ====
section
/-! DEFINITION. The control instructions (05_sequencer.md R132, R137 to R143, R148, R154 to R160; 03_encoding.md R75 to R82,
R88 to R90). -/
namespace Sys2Proof.Machine
open Sys2Proof

/-! ### Clauses -/

/-- Words before slot `n` among the words of a clause (R64). -/
def skipWords (ws : List Word) : Nat → Nat
  | 0 => 0
  | n + 1 =>
    match ws with
    | [] => 0
    | w :: _ =>
      let k := lenWords (w.extractLsb' 0 2)
      k + skipWords (ws.drop k) n

/-- Opens the clause whose header stands at the group's PC (R75 to R77, R81): its words are checked whole, then WAIT is
evaluated, except where the clause is re-entered (R156, R210). -/
def openClause (f : FmtBC) (s : State) (r : GRef) (t : Team) (g : Group) : Res :=
  match g.clause with
  | some _ => .fault { code := .clause }
  | none =>
    match firstBad (clauseChecks f) with
    | some (c, w) => .fault { code := c, word := w, slot := some 0xFF }
    | none =>
      let count := f.count.toNat + 1
      match s.readClause t t.shape.v (t.shape.roleOf r.grp) count (g.pc.toNat + 4) 0 count with
      | .error (.mem e va) => .stay (s.fetchFault r e va g.pc) g
      | .error (.bad c slot word) => .fault { code := c, word := word, slot := some slot }
      | .ok (ws, es) =>
        let s := s.addTlb es
        match g.resume with
        | some n =>
          if count ≤ n then .fault { code := .clause, slot := some 0xFF }
          else .stay s { g with clause := some ⟨f.seta, f.setb, count, n, ws, skipWords ws n⟩, resume := none }
        | none =>
          if g.flagsClear f.wait then .stay s { g with clause := some ⟨f.seta, f.setb, count, 0, ws, 0⟩ }
          else .stay s g

/-- CLAUSE (R75): opens the clause, or leaves the group waiting at the header while a flag of WAIT is set. -/
def execClause (f : FmtBC) (s : State) : Host.Outcome State Fault Refusal :=
  s.issue 0 fun r t g => openClause f s r t g

/-- NOP (R84): occupies one issue slot. -/
def execNop (_ : BitVec 23) (s : State) : Host.Outcome State Fault Refusal :=
  s.issue 1 fun _ _ g => .done s g

/-! ### Branches -/

/-- The byte distance of a branch offset in words (R65). -/
def wordOff {w : Nat} (x : BitVec w) : DWord := x.signExtend 64 <<< 2

/-- An error of storing the stack, as the pushing instruction meets it (R136). -/
def StackErr.res (e : StackErr) : Res :=
  match e with
  | .missing k va => .withdraw [⟨k, va⟩]
  | .fault c l va => .fault { code := c, detail := accDetail c 0xFF l, addr := BitVec.ofNat 64 va }

/-- The side that a divergent branch runs first is the taken one (R139). -/
def takenFirst (hint : BitVec 2) (taken fall : Mask) : Bool :=
  if hint = 1 then true else if hint = 2 then false else fall.count < taken.count

/-- A landing point that can be read and is not a CLAUSE header (R142). -/
def State.noHeader (s : State) (t : Team) (pc : DWord) : Bool :=
  match s.fetchWord t pc.toNat with
  | .ok (w, _) => !isHeader w
  | .error _ => false

/-- The landing points of a branch that cannot be read when it issues are noted with the branch's clause (R63, R142). -/
def State.noteLandings (s : State) (t : Team) (g : Group) (pcs : List DWord) : Group :=
  let new := pcs.filter fun pc => match s.fetchWord t pc.toNat with | .ok _ => false | .error _ => true
  { g with landings := new.map (fun pc => (pc, g.pc)) ++ g.landings.filter fun x => !new.contains x.1 }

/-- BRA and BRA.X once the reconvergence point is known (R138, R139). A target that some lane takes, and the fall-through of a branch that
diverges, must be CLAUSE headers (R76, R142). DEDUCED (log entry 79): they are looked at when the branch issues. -/
def branch (s : State) (r : GRef) (t : Team) (g : Group) (f : FmtBra) (target fall rp : DWord) : Res :=
  let sel := g.guard f.pg f.pn
  let tk := g.mask &&& sel
  let ft := g.mask &&& ~~~sel
  if tk = 0 then .done s g
  else if s.noHeader t target || (ft ≠ 0 && s.noHeader t fall) then .fault { code := .clause, slot := some 0xFF }
  else if ft = 0 then .jump s (g.goto target)
  else
    let g := s.noteLandings t g [target, fall]
    match divergePath (s.stack t r.grp g) tk ft target fall rp (takenFirst f.hint tk ft) with
    | none => .fault { code := .divDepth }
    | some (st, pc, m) =>
      if f.hint = 3 ∧ g.cfg.getLsbD 0 then
        match settlePath st pc m with
        | none => .jump s (g.goto pc)
        | some (st, pc, m) =>
          match s.storeStack t r.grp g st with
          | .error e => e.res
          | .ok (s, g) =>
            .trap s (g.setMask m) { code := .divUniform, detail := tk.count + ft.count * 256 } pc 0
      else
        match s.storeStack t r.grp g st with
        | .error e => e.res
        | .ok (s, g) => .jump s ((g.setMask m).goto pc)

/-- BRA (R139). -/
def execBra (f : FmtBra) (s : State) : Host.Outcome State Fault Refusal :=
  s.issue 1 fun r t g =>
    let target := g.here + wordOff f.off
    let fall := g.here + 4
    branch s r t g f target fall (if 0 < f.off.toInt then target else fall)

/-- BRA.X (R140): its reconvergence point must be a CLAUSE header whenever it issues. -/
def execBraX (f : FmtBra) (_ : Word1) (w2 : Word2) (s : State) : Host.Outcome State Fault Refusal :=
  s.issue 3 fun r t g =>
    let rp := g.here + wordOff w2.imm
    match s.fetchWord t rp.toNat with
    | .error .missing => .withdraw [⟨2, rp.toNat⟩]
    | .error (.fault c l) => .fault { code := c, detail := l * 256 + 0xFF, addr := rp }
    | .ok (w, _) =>
      if isHeader w then branch s r t g f (g.here + wordOff f.off) (g.here + 12) rp
      else .fault { code := .clause, slot := some 0xFF }

/-- JMP (R142). -/
def execJmp (off : BitVec 23) (s : State) : Host.Outcome State Fault Refusal :=
  s.issue 1 fun _ _ g => .jump s (g.goto (g.here + wordOff off))

/-- CALL (R138, R142). -/
def execCall (off : BitVec 23) (s : State) : Host.Outcome State Fault Refusal :=
  s.issue 1 fun r t g =>
    let st := s.stack t r.grp g
    if 256 < st.length + 1 then .fault { code := .divDepth }
    else
      match s.storeStack t r.grp g (⟨g.here + 4, g.mask, .call⟩ :: st) with
      | .error e => e.res
      | .ok (s, g) => .jump s (g.goto (g.here + wordOff off))

/-- Exit (R138): the lanes leave the mask and every entry for good. -/
def Group.exitLanes (g : Group) (m : Mask) : Group :=
  let g : Group :=
    { g with exited := g.exited ||| m
             divTop := g.divTop.map fun e => ⟨e.pc, e.mask &&& ~~~m, e.kind⟩ }
  g.setMask (g.mask &&& ~~~m)

/-- RET (R138): parks the returning lanes in the CALL entry, or exits them when there is none. -/
def execRet (_ : BitVec 23) (s : State) : Host.Outcome State Fault Refusal :=
  s.issue 1 fun r t g =>
    match returnPath g.mask (s.stack t r.grp g) with
    | none => .jump s ((g.exitLanes g.mask).goto (g.here + 4))
    | some st =>
      match s.storeStack t r.grp g st with
      | .error e => e.res
      | .ok (s, g) => .jump s ((g.setMask 0).goto (g.here + 4))

/-- BRX (R142). -/
def execBrx (f : FmtBR) (s : State) : Host.Outcome State Fault Refusal :=
  s.issue f.len fun _ _ g =>
    let a := g.s f.a.toNat
    if bitsOf a.toNat 1 0 ≠ 0 then .fault { code := .align, addr := a }
    else if bitsOf a.toNat 63 56 ≠ 0 then .fault { code := .illAddr, addr := a }
    else .jump s (g.goto a)

/-- YIELD (R132): the next clause counts as ready from the cycle after, and the group becomes the one that most recently
entered the active set. -/
def execYield (_ : BitVec 23) (s : State) : Host.Outcome State Fault Refusal :=
  match s.current with
  | none => .fault .noIssuingGroup
  | some (r, t, g) =>
    let p := t.partOf r.grp
    let x := s.part t.coreN p
    let s := s.putPart t.coreN p { x with order := x.order + 1, last := t.slot * 32 + r.grp }
    .next (s.finish r t 1 (.done s { g with entered := x.order, yieldAt := s.ref + 1 }))

/-- EXIT (R138, R142). -/
def execExit (f : FmtBR) (s : State) : Host.Outcome State Fault Refusal :=
  s.issue f.len fun _ _ g => .done s (g.exitLanes (g.sel f))

/-- EXIT.S (R143): ends every lane of a task's group and fixes the successor. DESIGN CHOICE (log entry 96): where several refusals hold, the spec
gives no order; they are tested so: TASKQ outside a task, ALIGN, ILL_ADDR, TASKQ for a second address. -/
def execExitS (f : FmtBR) (s : State) : Host.Outcome State Fault Refusal :=
  s.issue f.len fun r t g =>
    let a := g.s f.a.toNat
    let taskq : FaultInfo := { code := .taskq, detail := 0xFF05, addr := a, bytes := s.peek t a 64 }
    if !t.isTask then .fault taskq
    else if a.toNat % 64 ≠ 0 then .fault { code := .align, addr := a }
    else
      match s.where_ t.coreN a 64 with
      | .error c => .fault { code := c, addr := a }
      | .ok _ =>
        if t.successor.isSome && t.successor ≠ some a then .fault taskq
        else
          .jump (s.updTeam r.team fun t => { t with successor := some a })
            (({ g with divTop := [], divSpilled := 0 }.exitLanes Mask.all).goto (g.here + 12))

/-- WAITF (R142): the group issues nothing until every flag of MASK has a count of zero. -/
def execWaitf (f : FmtBW) (s : State) : Host.Outcome State Fault Refusal :=
  s.issue 1 fun _ _ g => if g.flagsClear f.mask then .done s g else .stay s { g with waiting := true }

/-- SLEEP (R142, R130). -/
def execSleep (f : FmtBI) (s : State) : Host.Outcome State Fault Refusal :=
  match s.current with
  | none => .fault .noIssuingGroup
  | some (r, t, g) =>
    let n := f.imm11.toNat * 64
    let s := s.finish r t 1 (.done s g)
    if n = 0 then .next s
    else .next (s.updGroup r fun g => { g with sleepUntil := some (s.ref + n), eligible := decide (256 < n) })

/-- SLEEP_EXPIRY (R142): the sleep ends. -/
def execSleepExpiry (r : GRef) (s : State) : Host.Outcome State Fault Refusal :=
  match (s.group? r).bind (·.sleepUntil) with
  | some n =>
    if n ≤ s.ref then .next (s.updGroup r fun g => { g with sleepUntil := none, eligible := false, readySince := s.ref }) else .next s
  | none => .next s

/-! ### Traps and debug -/

/-- TRAP (R154): raises TRAP_SW. -/
def execTrap (f : FmtBI) (s : State) : Host.Outcome State Fault Refusal :=
  s.issue 1 fun _ _ g => .trap s g { code := .trapSw, detail := f.imm11.toNat } (g.here + 4) 0

/-- TRET (R156). -/
def execTret (_ : BitVec 23) (s : State) : Host.Outcome State Fault Refusal :=
  s.issue 1 fun r t g =>
    if !g.intrap then .fault { code := .priv }
    else
      match s.leaveTrap r t g with
      | .error e => e.res
      | .ok (s, g) => .jump s g

/-- Starts a debug halt of a context (R160): its groups stop at their next clause boundary. -/
def State.startHalt (s : State) (c : Nat) : State :=
  { s with dbg := { s.dbg with halting := true },
           ctxs := s.ctxs.upd c fun x => { x with halting := true },
           teams := s.teams.map fun (k, t) =>
             (k, if t.ctx = c ∧ t.core.isSome then { t with stopping := some (t.stopping.getD .debug) } else t) }

/-- Why a halt is refused (R159, R160): no live context of that id, or a protected one outside debug mode. -/
def State.haltRefused (s : State) (c : Nat) : Bool :=
  match s.ctx? c with
  | some x => (x.prot && s.sec.mode ≠ 2) || x.state ≠ .live
  | none => true

/-- BKPT (R159, R160): halts the context when BKEN is set for it, and is a NOP otherwise. In a context that is halting already it does
not cause the halt, and is a NOP (DEDUCED, log entry 78). -/
def execBkpt (f : FmtBI) (s : State) : Host.Outcome State Fault Refusal :=
  s.issue 1 fun _ t g =>
    if !(s.dbg.bken && s.dbg.ctx = t.ctx) || ((s.ctx? t.ctx).map (·.halting)).getD false then .done s g
    else if s.haltRefused t.ctx then .done { s with dbg := { s.dbg with refused := true } } g
    else .done { (s.startHalt t.ctx) with dbg := { s.dbg with halting := true, bkhit := true, bktag := f.imm11 } } g

/-! ### Special registers -/

/-- The value of a special register other than %lane (R88 to R90). -/
def State.special (s : State) (r : GRef) (t : Team) (g : Group) (n : Nat) : DWord :=
  let nat (x : Nat) : DWord := BitVec.ofNat 64 x
  match n with
  | 0x01 => nat r.grp
  | 0x02 => nat t.index
  | 0x03 => nat t.gridIdx
  | 0x04 => nat t.coreN
  | 0x05 => nat (clusterOf t.coreN)
  | 0x06 => nat (dieOf t.coreN)
  | 0x07 => nat s.rank
  | 0x08 => nat s.nrank
  | 0x09 => nat t.depth
  | 0x0A => nat (t.shape.roleOf r.grp)
  | 0x10 => g.cvm
  | 0x11 => g.srseed
  | 0x12 => g.flags
  | 0x13 => nat (s.clk t.coreN)
  | 0x14 => nat s.time
  | 0x18 => s.stk.mphase.zeroExtend 64
  | 0x19 => nat s.stk.memcap
  | 0x1A => nat (s.worldOf t)
  | 0x1B => nat t.ctx
  | 0x20 => g.trapvec
  | 0x21 => g.trapcode.zeroExtend 64
  | 0x22 => g.trappc
  | 0x23 => g.trapinfo
  | 0x24 => g.cfg
  | 0x25 => nat g.depth
  | 0x26 => t.pfcount.zeroExtend 64
  | _ => 0

/-- SRD (R88): %lane goes to every lane of a vector register, every other register to s[D]. -/
def execSrd (f : FmtBS) (s : State) : Host.Outcome State Fault Refusal :=
  s.issue 1 fun r t g =>
    if f.num = 0 then .done s (g.setV f.r.toNat Mask.all fun l => BitVec.ofNat 32 l)
    else .done s (g.setS f.r.toNat (s.special r t g f.num.toNat))

/-- SWR (R88, R148, R45, R49). -/
def execSwr (f : FmtBS) (s : State) : Host.Outcome State Fault Refusal :=
  s.issue 1 fun _ _ g =>
    let x := g.s f.r.toNat
    let bad : Res := .fault { code := .illField }
    match f.num.toNat with
    | 0x10 => if cvmOk x then .done s { g with cvm := x } else bad
    | 0x11 => .done s { g with srseed := x, sr := srInit x }
    | 0x20 => if codeAddrOk x then .done s { g with trapvec := x } else bad
    | 0x22 =>
      if codeAddrOk x then
        .done s { g with trappc := x, trapinfo := g.trapinfo &&& ~~~(0xFF0000#64) }
      else bad
    | 0x24 => if cfgOk x then .done s { g with cfg := x } else bad
    | _ => .fault { code := .priv }

end Sys2Proof.Machine
end

