-- ==== Sys2Proof/Machine/Order.lean ====
section
/-! DEFINITION. The order of the events of one cycle, where the spec fixes it: barrier arrivals (05_sequencer.md R151, R152), ATLOADs
(06_vector.md R188), lock arrivals (07_load_store.md R224), the events of a stage ring and LOGPOPs (08_copy.md R252, R258), operations on tiles
and EPIBINDs (09_matrix.md R264, R276), the end of array calibration (15_host_reset.md R450), task queues (12_tasks.md R364, R374), and
what the security sequencer takes (14_security.md R418). -/
namespace Sys2Proof.Machine
open Sys2Proof

/-- A place in the order of a cycle: what the events of one class share, the rank of the event in its class, and its core, team slot and
group. -/
structure TurnKey where
  cls : Nat
  rank : Nat
  core : Nat
  slot : Nat
  grp : Nat
  deriving DecidableEq, Repr

/-- The event comes first of two of its class in a cycle. -/
def TurnKey.before (a b : TurnKey) : Bool :=
  a.cls = b.cls && (a.rank < b.rank || (a.rank = b.rank && (a.core < b.core || (a.core = b.core
    && (a.slot < b.slot || (a.slot = b.slot && a.grp < b.grp))))))

/-- Class and rank of an instruction of a group: barrier arrivals (R151); lock arrivals (R224); ATLOAD (R188); ring
events (R252), where a tile operation stands with the drains (R264, R280); LOGPOP (R258); EPIBIND (R276). -/
def instrRank : Instr → Option (Nat × Nat)
  | .barArrive _ | .barSync _ | .barDrop _ => some (0, 0)
  | .lockAcq _ | .lockTry _ => some (1, 0)
  | .atload _ => some (2, 0)
  | .ringFree _ => some (3, 0)
  | .ringCommit _ => some (3, 2)
  | .mma _ | .mzero _ | .mload _ | .mdrain _ | .mdrainRing _ => some (3, 5)
  | .voci _ | .vociSpill _ | .vocf _ | .vocb _ | .vocm _ | .vocr _ => some (3, 5)
  | .ringReserve _ => some (3, 6)
  | .ringWait _ => some (3, 7)
  | .ringLogpop _ => some (4, 0)
  | .epibind _ => some (5, 0)
  | _ => none

/-- The instruction that a group issues next: that of its open clause, or, at a CLAUSE header, which takes no cycle (R131), the one that the
clause opens with. -/
def State.nextInstr (s : State) (r : GRef) (g : Group) : Option Instr :=
  match g.clause with
  | some _ => g.instr
  | none =>
    match s.groupNext r with
    | (s, some (.clause f)) =>
      match execClause f s with
      | .next s => (s.group? r).bind fun (g : Group) => g.instr
      | _ => none
    | _ => none

/-- The key of a group's next instruction. -/
def State.groupKey (s : State) (t : Team) (r : GRef) (g : Group) : Option TurnKey :=
  ((s.nextInstr r g).bind instrRank).map fun (c, k) => ⟨c, k, t.coreN, t.slot, r.grp⟩

/-- The key of an engine's event on a team. -/
def State.teamKey (s : State) (cls rank team : Nat) : Option TurnKey :=
  (s.team? team).map fun (t : Team) => ⟨cls, rank, t.coreN, t.slot, 0⟩

/-- The key of an engine's event on a copy. -/
def State.copyKey (s : State) (rank copy : Nat) : Option TurnKey := (s.copies.get? copy).bind fun (c : Copy) => s.teamKey 3 rank c.team

/-- The home queue of a core holds a descriptor (R374). -/
def State.homeHolds (s : State) (core : Nat) : Bool :=
  ((s.te.home.get? core).bind fun h => s.te.tq.get? h.home).any fun (q : TaskQ) => q.bound && q.head ≠ q.tail

/-- The offset of SECCMD in the register window (R418, R439). -/
def seccmdAt : Nat := 0x70040

/-- The key of an event: a phase of a barrier completes after the arrivals of its cycle (R151, R152); engine commits, claims and deliveries of rings (R252); MXCAL, which changes before any MMA of its cycle (R450);
operations on task queues (R364); and the security sequencer, where a register command commits before a creation (R418). -/
def State.eventKey (s : State) : Instr → Option TurnKey
  | .barrierPhaseComplete _ => some ⟨0, 1, 0, 0, 0⟩
  | .copyComplete c => s.copyKey 1 c
  | .drainComplete t => s.teamKey 3 1 t
  | .copyStart t => s.teamKey 3 3 t
  | .multicastDelivery c _ | .chainForward c => s.copyKey 4 c
  | .tqpush _ => some ⟨6, 0, 0, 0, 0⟩
  | .longLatencyCompletion op =>
    match s.ops.get? op with
    | some o =>
      match o.kind, s.team? o.owner.team with
      | .qspawn _, some t => some ⟨6, 1, t.coreN, t.slot, o.owner.grp⟩
      | .qtake _ _ _ steal, some t => some ⟨6, if steal then 4 else 2, t.coreN, t.slot, o.owner.grp⟩
      | _, _ => none
    | none => none
  | .mxcalSet => some ⟨3, 0, 0, 0, 0⟩
  | .registerWrite off _ => if off = seccmdAt then some ⟨7, 0, 0, 0, 0⟩ else none
  | .companionAccess acc => if acc.reg && acc.write && acc.addr = seccmdAt then some ⟨7, 0, 0, 0, 0⟩ else none
  | .assign | .unassign | .attest | .identity | .dbgunlock | .save => some ⟨7, 0, 0, 0, 0⟩
  | .ctxcreate _ => some ⟨7, 1, 0, 0, 0⟩
  | .dispatch core _ => some ⟨6, if s.homeHolds core then 3 else 5, core, 0, 0⟩
  | _ => none

/-- The key of an act, as the machine stands. -/
def State.turnKey (s : State) : Act → Option TurnKey
  | .issue core p _ => (s.pick core p).bind fun (r, t, g) => s.groupKey t r g
  | .retry r =>
    match s.team? r.team, s.group? r with
    | some t, some g => s.groupKey t r g
    | _, _ => none
  | .event i => s.eventKey i
  | _ => none

/-- Position of the turn that goes first among the head of the schedule and the other turns of its cycle: the head, unless a later turn of the
cycle comes before it in the order of its class. -/
def State.firstOf (s : State) (x : Turn) (cycle : List Turn) : Nat :=
  match s.turnKey x.act with
  | none => 0
  | some k =>
    (((List.range cycle.length).zip cycle).foldl (fun (best : Nat × TurnKey) y =>
      match s.turnKey y.2.act with
      | some k' => if k'.before best.2 then (y.1 + 1, k') else best
      | none => best) (0, k)).1

/-- The act that is due, and the schedule after it: of the turns of the head's cycle, the one that goes first. -/
def State.nextTurn (s : State) (x : Turn) (rest : List Turn) : Act × List Turn :=
  let all := { x with dt := 0 } :: rest
  let n := s.firstOf x (rest.takeWhile (·.dt = 0))
  ((all[n]?.getD x).act, all.eraseIdx n)

end Sys2Proof.Machine
end

