-- ==== Sys2Proof/Machine/Sync.lean ====
section
/-! DEFINITION. Fences (04_ordering.md R113), barriers (05_sequencer.md R149 to R153) and locks (07_load_store.md R222 to
R225). -/
namespace Sys2Proof.Machine
open Sys2Proof

/-- The group blocks at its instruction, which is looked at again later; the wait's beginning is kept (R130). -/
def Group.block (g : Group) (ref : Nat) (eligible : Bool) : Group :=
  { g with waiting := true, waitFrom := if g.waiting then g.waitFrom else ref, eligible := g.eligible || eligible }

/-- An acquire by the issuing group (R103, R108, R117). -/
def State.acquireFor (s : State) (t : Team) (g : Group) : State × Group := (s.acquireCore t.coreN, g.acquired)

/-! ### Fences -/

/-- What FENCE.ACQ waits for (R113): loads that have not returned. -/
def State.loadsOut (s : State) (r : GRef) : Bool :=
  s.ops.any fun (_, o) => o.owner = r && (match o.kind with | .load => true | _ => false) && !s.allDone o.need

/-- What FENCE.COPY waits for (R113): copies, gathers, GETs and drains of the group that have not placed all of their bytes. -/
def State.copiesOut (s : State) (r : GRef) : Bool :=
  s.copies.any (fun (_, c) => c.team = r.team && c.grp = r.grp && !c.committed)
  || s.drains.any (fun (_, d) => d.team = r.team && d.grp = r.grp)
  || s.msgs.any (fun (_, m) => m.owner = some r && !m.inbound && (match m.kind with | .get _ _ => true | _ => false))

/-- What FENCE.TIER waits for (R113): pod and remote accesses without their answers. -/
def State.farOut (s : State) (r : GRef) : Bool :=
  s.msgs.any fun (_, m) => m.owner = some r && !m.inbound && (match m.kind with | .get _ _ => false | _ => true)

/-- A fence: the group issues nothing until the condition holds (R113). -/
def fence (f : FmtBR) (s : State) (acquire : Bool) (clear : State → GRef → Bool) : Host.Outcome State Fault Refusal :=
  s.issue f.len fun r t g =>
    if clear s r then
      if acquire then (let (s, g) := s.acquireFor t g; .done s g) else .done s g
    else .stay s (g.block s.ref true)

/-- FENCE.ACQ (R113). -/
def execFenceAcq (f : FmtBR) (s : State) : Host.Outcome State Fault Refusal := fence f s true fun s r => !s.loadsOut r
/-- FENCE.REL (R111, R113). -/
def execFenceRel (f : FmtBR) (s : State) : Host.Outcome State Fault Refusal := fence f s false fun s r => (s.outstanding r).isEmpty
/-- FENCE.AR (R111, R113). -/
def execFenceAr (f : FmtBR) (s : State) : Host.Outcome State Fault Refusal := fence f s true fun s r => (s.outstanding r).isEmpty
/-- FENCE.COPY (R113). -/
def execFenceCopy (f : FmtBR) (s : State) : Host.Outcome State Fault Refusal := fence f s true fun s r => !s.copiesOut r
/-- FENCE.TIER (R113). -/
def execFenceTier (f : FmtBR) (s : State) : Host.Outcome State Fault Refusal := fence f s false fun s r => !s.farOut r

/-! ### Barriers -/

/-- The fault of a barrier that is misused (R150). -/
def barConfig : Res := .fault { code := .barConfig }

/-- The group is a member that has not dropped. -/
def Barrier.member? (b : Barrier) (r : GRef) : Option BarMember := b.members.find? fun m => m.who = r && !m.dropped

/-- Changes the entry of a member. -/
def Barrier.updMember (b : Barrier) (r : GRef) (f : BarMember → BarMember) : Barrier :=
  { b with members := b.members.map fun m => if m.who = r then f m else m }

/-- The phase advances once its arrivals reach the expected count; it stays open until its releases have completed (R151). `owing`: a DROP
fills it in reference cycle `now`, in which no other arrival has come. -/
def Barrier.advance (b : Barrier) (now : Nat) (owing : Bool) : Barrier :=
  if b.arrivals < b.expected then b
  else
    { b with open_ := b.open_ ++ [⟨b.phase, b.ids⟩], phase := (b.phase + 1) % 2 ^ 16, arrivals := 0,
             expected := b.expected - b.drops, drops := 0, ids := [], lookout := 0,
             inert := b.expected ≤ b.drops, members := b.members.map fun m => { m with inPhase := false },
             filled := some ⟨now, b.phase, owing⟩ }

/-- The phase that was filled in this reference cycle, while it is open (R152). -/
def Barrier.filledNow (b : Barrier) (now : Nat) : Option BarFilled :=
  b.filled.filter fun x => x.at_ = now && b.open_.any (·.phase = x.phase)

/-- The releases that an open phase waits for grow (R151). -/
def Barrier.joinIds (b : Barrier) (p : Nat) (ids : List Nat) : Barrier :=
  { b with open_ := b.open_.map fun x => if x.phase = p then { x with ids := x.ids ++ ids } else x }

/-- The phase that an ARRIVE or SYNC of a member joins: the current one, or the one that a DROP has filled in the same cycle, for the last
expected arrival of that phase (R151, R152). -/
def Barrier.joins (b : Barrier) (m : BarMember) (now : Nat) : Nat :=
  match b.filledNow now with
  | some x => if x.owing && m.arrived ≠ some x.phase then x.phase else b.phase
  | none => b.phase

/-- An arrival of a member, whose release waits for `ids` (R150 to R152). -/
def Barrier.arrive (b : Barrier) (r : GRef) (m : BarMember) (ids : List Nat) (now : Nat) : Barrier :=
  let p := b.joins m now
  if p ≠ b.phase then
    { ((b.updMember r fun m => { m with arrived := some p }).joinIds p ids) with
      filled := b.filled.map fun x => { x with owing := false } }
  else
    ({ (b.updMember r fun m => { m with inPhase := true, arrived := some b.phase }) with
      arrivals := b.arrivals + 1, ids := b.ids ++ ids, synced := some now }).advance now false

/-- DROP (R150): an arrival, unless the group has arrived in the phase; the expected count falls from the next phase. Its release counts in
the phase in either case (R103, R151). In the cycle in which a phase is filled it counts toward that phase (R152). -/
def Barrier.drop (b : Barrier) (r : GRef) (m : BarMember) (ids : List Nat) (now : Nat) : Barrier :=
  let b := b.updMember r fun m => { m with dropped := true }
  match b.filledNow now with
  | some x =>
    let b : Barrier := { (b.joinIds x.phase ids) with expected := b.expected - 1 }
    if b.expected = 0 then { b with inert := true } else b.advance now false
  | none =>
    let b := { b with drops := b.drops + 1 }
    if m.inPhase then { b with ids := b.ids ++ ids }
    else
      ({ (b.updMember r fun m => { m with inPhase := true, arrived := some b.phase }) with
        arrivals := b.arrivals + 1, ids := b.ids ++ ids }).advance now (b.synced ≠ some now)

/-- The phase is not complete: it is the current one, or its releases are outstanding. -/
def Barrier.notComplete (b : Barrier) (p : Nat) : Bool := p = b.phase || b.open_.any (·.phase = p)

/-- The phase that a WAIT blocks on (R150). -/
def Barrier.waitPhase (b : Barrier) (m : BarMember) : Nat :=
  match m.arrived with
  | some p => if b.notComplete p then p else b.phase
  | none => b.phase

/-- A BAR instruction on the barrier that the team declared under the id (R150). -/
def barrierOp (f : FmtBR) (s : State) (body : GRef → Team → Group → Nat → Barrier → BarMember → Res) :
    Host.Outcome State Fault Refusal :=
  s.issue f.len fun r t g =>
    match t.bars.get? f.w2.imm.toNat with
    | none => barConfig
    | some k =>
      match s.bars.get? k with
      | none => barConfig
      | some b =>
        if g.waiting then
          if b.waiters.any (·.1 = r) then .stay s g
          else (let (s, g) := s.acquireFor t g; .done s g)
        else
          match b.member? r with
          | none => barConfig
          | some m => if b.inert then barConfig else body r t g k b m

/-- Stores a barrier. -/
def State.putBar (s : State) (k : Nat) (b : Barrier) : State := { s with bars := s.bars.put k b }

/-- BAR.ARRIVE (R150). -/
def execBarArrive (f : FmtBR) (s : State) : Host.Outcome State Fault Refusal :=
  barrierOp f s fun r _ g k b m =>
    if m.inPhase then barConfig else .done (s.putBar k (b.arrive r m (s.outstanding r) s.ref)) g

/-- The group waits on a phase of a barrier. -/
def waitOn (s : State) (r : GRef) (g : Group) (k : Nat) (b : Barrier) (p : Nat) : Res :=
  .stay (s.putBar k { b with waiters := b.waiters ++ [(r, p)] }) { g.block s.ref false with waitPhase := p }

/-- BAR.WAIT (R150). -/
def execBarWait (f : FmtBR) (s : State) : Host.Outcome State Fault Refusal :=
  barrierOp f s fun r _ g k b m => waitOn s r g k b (b.waitPhase m)

/-- BAR.SYNC (R150). -/
def execBarSync (f : FmtBR) (s : State) : Host.Outcome State Fault Refusal :=
  barrierOp f s fun r _ g k b m =>
    if m.inPhase then barConfig else waitOn s r g k (b.arrive r m (s.outstanding r) s.ref) (b.joins m s.ref)

/-- BAR.DROP (R150). -/
def execBarDrop (f : FmtBR) (s : State) : Host.Outcome State Fault Refusal :=
  barrierOp f s fun r _ g k b m => .done (s.putBar k (b.drop r m (s.outstanding r) s.ref)) g

/-- BAR.QUERY (R150). -/
def execBarQuery (f : FmtBR) (s : State) : Host.Outcome State Fault Refusal :=
  barrierOp f s fun _ _ g _ b _ =>
    .done s (g.setS f.d.toNat (BitVec.ofNat 64 (b.phase * 2 ^ 48 + b.expected * 2 ^ 32 + b.arrivals * 2 ^ 16)))

/-- BARRIER_PHASE_COMPLETE (R151): the first filled phase whose releases have completed; its waiters resume. -/
def execBarrierPhaseComplete (bar : Nat) (s : State) : Host.Outcome State Fault Refusal :=
  match s.bars.get? bar with
  | none => .next s
  | some b =>
    match b.open_.find? fun p => s.allDone p.ids with
    | none => .next s
    | some p =>
      let waits (r : GRef) : Bool := b.waiters.contains (r, p.phase)
      .next (s.putBar bar
        { b with open_ := b.open_.filter (· ≠ p), waiters := b.waiters.filter fun w => w.2 ≠ p.phase,
                 members := b.members.map fun m => if waits m.who then { m with arrived := none } else m })

/-- BARRIER_SWAP_ELIGIBLE (R130): 256 cycles of a barrier wait have passed. -/
def execBarrierSwapEligible (r : GRef) (s : State) : Host.Outcome State Fault Refusal :=
  if (s.bars.any fun (_, b) => b.waiters.any (·.1 = r)) && (s.group? r).any (fun g => g.waiting && g.waitFrom + 256 ≤ s.ref) then
    .next (s.updGroup r fun g => { g with eligible := true })
  else .next s

/-- A member group with its place in the order of R151: core, team slot and group index, and its last or current header. -/
structure MemberAt where
  core : Nat
  slot : Nat
  who : GRef
  arrived : Bool
  waiting : Bool
  pc : DWord
  deriving DecidableEq, Repr

/-- A member comes before another (R151). -/
def memberBefore (a b : MemberAt) : Bool :=
  a.core < b.core || (a.core = b.core && (a.slot < b.slot || (a.slot = b.slot && a.who.grp ≤ b.who.grp)))

/-- Inserts a member in order. -/
def insertMember (x : MemberAt) : List MemberAt → List MemberAt
  | [] => [x]
  | y :: ys => if memberBefore x y then x :: y :: ys else y :: insertMember x ys

/-- The members that have not dropped, in the order of R151. A retired group's PC carries bit 63 (R153). -/
def State.memberList (s : State) (b : Barrier) : List MemberAt :=
  (b.members.filterMap fun m =>
    if m.dropped && !m.inPhase then none
    else
      match m.past with
      | some (c, sl, pc) => some ⟨c, sl, m.who, m.inPhase, false, pc ||| (1#64 <<< 63)⟩
      | none =>
        (s.team? m.who.team).bind fun (t : Team) => t.groups[m.who.grp]?.map fun g =>
          ⟨t.coreN, t.slot, m.who, m.inPhase, b.waiters.any (·.1 = m.who), if g.retired then g.lastHdr ||| (1#64 <<< 63) else g.pc⟩).foldl
    (fun l x => insertMember x l) []

/-- The diagnostic record of a lookout (R153). -/
def State.lookoutRecord (s : State) (b : Barrier) (ms : List MemberAt) : List Byte :=
  let core := (ms.head?.map fun m => m.core).getD 0
  let first := (ms.head?.map fun m => m.who.team).getD 0
  let mask := ms.foldl (fun x m => if m.who.team = first && m.arrived then x + 2 ^ m.who.grp else x) 0
  let late := (ms.filter fun m => !m.arrived).take 4
  leBytes 1 b.id ++ leBytes 1 b.level ++ leBytes 2 b.expected ++ leBytes 4 mask ++ leBytes 2 b.phase
    ++ leBytes 1 late.length ++ leBytes 1 core
    ++ (List.range 4).map (fun i => match late[i]? with | some m => BitVec.ofNat 8 m.who.grp | none => 0xFF)
    ++ leBytes 8 (s.clk core)
    ++ (List.range 4).flatMap (fun i => leBytes 8 (match late[i]? with | some m => m.pc.toNat | none => 0))
    ++ leBytes 4 b.ctx ++ leBytes 4 0

/-- LOOKOUT (R153): the counter has reached the context's limit. DESIGN CHOICE (log entry 24): where several teams are members, no rule says whose
core, %team and %grid the fault record names; they are the core of the first member in the order of R151, and %team and %grid of the first
member that waits. -/
def execLookout (bar : Nat) (s : State) : Host.Outcome State Fault Refusal :=
  match s.bars.get? bar with
  | none => .next s
  | some b =>
    match s.ctx? b.ctx with
    | none => .next s
    | some c =>
      if s.lookoutRuns b && c.lookout ≤ b.lookout then
        let ms := s.memberList b
        let w := ms.find? (·.waiting)
        let t := (w.bind fun m => s.team? m.who.team)
        let core := (ms.head?.map fun m => m.core).getD 0
        .next (s.fatalCtx b.ctx
          { code := .barTimeout, kind := 0, core := core, grp := 0xFF, team := (t.map fun t => t.index).getD 0,
            grid := (t.map fun t => t.gridIdx).getD 0, pc := (w.map fun m => m.pc).getD 0, info := trapInfo 0 0 0 0,
            addr := 0, clk := s.clk core, detail := s.lookoutRecord b ms })
      else .next s

/-! ### Locks -/

/-- The fault of a lock that is misused (R223). -/
def lockFault : Res := .fault { code := .lock }

/-- The physical pieces of a guarded range, page by page: those that translate to cached local memory (R225). -/
def State.lockPieces (s : State) (core ctx world va : Nat) : Nat → Nat → List (Nat × Nat)
  | 0, _ => []
  | fuel + 1, n =>
    if n = 0 then []
    else
      let k := min n (2 ^ 16 - va % 2 ^ 16)
      let rest := State.lockPieces s core ctx world (va + k) fuel (n - k)
      match s.xlate (some core) ctx world va .read with
      | .ok p => if p.nc then rest else (p.pa, k) :: rest
      | .error _ => rest

/-- The pieces of all of a lock's ranges. -/
def State.lockPhys (s : State) (core : Nat) (l : Lock) : List (Nat × Nat) :=
  let world := s.ctxWorld l.ctx
  l.ranges.flatMap fun (a, n) =>
    match s.where_ core a 128 with
    | .ok (.virt va _) => s.lockPieces core l.ctx world va (n / 2 ^ 16 + 2) n
    | _ => []

/-- Pushes a word into a core's L1, owned (R225). With a line's last word the L1 makes room for the line. -/
def State.pushWord (s : State) (core w : Nat) : State :=
  let s := ((s.combine (4 * w) 4).cacheTouch (4 * w) false).ownWord (some core) false w
  if w % 32 = 31 then s.trimL1 core (w / 32) else s

/-- Pushes ranges into a core's L1, owned (R225). A line that does not fit stays registered, and is fetched in state O at its first use
(R201). -/
def State.pushRanges (s : State) (core : Nat) (phys : List (Nat × Nat)) : State :=
  phys.foldl (fun s (pa, n) => (wordsOf pa n).foldl (fun s w => s.pushWord core w) s) s

/-- Grants a lock to a group: an acquire, then the push (R110, R225). The grant is the completion point of the group's ACQ (R79). -/
def State.grantLock (s : State) (k : Nat) (l : Lock) (r : GRef) : State :=
  match s.team? r.team with
  | none => s
  | some t =>
    let phys := s.lockPhys t.coreN l
    let s := (s.acquire r).pushRanges t.coreN phys
    { s with ops := s.ops.map fun (n, o) => (n, if o.owner = r && o.kind = .lock k then { o with kind := .plain } else o),
             locks := s.locks.put k { l with holder := some r, phys := phys, pushing := false, ids := [] } }

/-- The lock is free: its holder's write-back is performed, and REL has reached its completion point (R79, R223 to R225). -/
def State.unlockTake (s : State) (k : Nat) (l : Lock) : State :=
  let s := match l.holder.bind fun r => s.team? r.team with
    | some t => s.writeBack t.coreN l.phys
    | none => s
  let ended (o : Op) : Op := if o.kind = .unlock k && some o.owner = l.holder then { o with kind := .plain } else o
  { s with locks := s.locks.put k { l with holder := none, pushing := false, ids := [], phys := [] },
           ops := s.ops.map fun (n, o) => (n, ended o) }

/-- A lock whose release's accesses are performed becomes free, unless its write-back is held at a frame that is MOVING (R223 to R225, R394). -/
def State.unlockDone (s : State) (k : Nat) : State :=
  match s.locks.get? k with
  | none => s
  | some l =>
    if l.pushing && s.allDone l.ids then
      let words := match l.holder.bind fun r => s.team? r.team with
        | some t => s.changedWords t.coreN l.phys
        | none => []
      let (held, s) := s.holdWrites k words
      if held then s else s.unlockTake k l
    else s

/-- A LOCK instruction on the lock that the grid declared under the id (R223). -/
def lockOp (f : FmtBR) (s : State) (body : GRef → Team → Group → Nat → Lock → Res) : Host.Outcome State Fault Refusal :=
  s.issue f.len fun r t g =>
    match t.locks.get? f.w2.imm.toNat with
    | none => lockFault
    | some k =>
      match s.locks.get? k with
      | none => lockFault
      | some l => body r t g k l

/-- The group holds the lock or waits for it; a holder that has issued REL holds it no more (R224). -/
def Lock.has (l : Lock) (r : GRef) : Bool := (l.holder = some r && !l.pushing) || l.queue.any (·.who = r)

/-- LOCK ACQ (R223, R224): queued; LOCK_GRANT grants it. -/
def execLockAcq (f : FmtBR) (s : State) : Host.Outcome State Fault Refusal :=
  lockOp f s fun r _ g k l =>
    let fs : Bool := f.w1.fs = 1
    if l.has r then lockFault
    else if g.flagFull fs then .stay s g
    else
      let (op, s) := s.fresh
      let s := s.addOp op (mkOp r g fs (.lock k))
      .done { s with locks := s.locks.put k { l with queue := l.queue ++ [⟨r, op⟩] } } (g.raiseFlag fs)

/-- LOCK TRY (R223, R224): held if the lock was free with no queue; p[D] is written at completion. -/
def execLockTry (f : FmtBR) (s : State) : Host.Outcome State Fault Refusal :=
  lockOp f s fun r _ g k l =>
    let fs : Bool := f.w1.fs = 1
    if l.has r then lockFault
    else if g.flagFull fs then .stay s g
    else
      let (op, s) := s.fresh
      if l.holder.isNone && l.queue.isEmpty then
        let s := s.addOp op { mkOp r g fs .plain with writes := [.p f.d.toNat Mask.all] }
        .done (s.grantLock k l r) (g.raiseFlag fs).acquired
      else .done (s.addOp op { mkOp r g fs .plain with writes := [.p f.d.toNat 0] }) (g.raiseFlag fs)

/-- LOCK REL (R223, R224). -/
def execLockRel (f : FmtBR) (s : State) : Host.Outcome State Fault Refusal :=
  lockOp f s fun r _ g k l =>
    let fs : Bool := f.w1.fs = 1
    if l.holder ≠ some r || l.pushing then lockFault
    else if g.flagFull fs then .stay s g
    else
      let ids := s.outstanding r
      let (op, s) := s.fresh
      let s := s.addOp op (mkOp r g fs (.unlock k))
      .done { s with locks := s.locks.put k { l with pushing := true, ids := ids } } (g.raiseFlag fs)

/-- LOCK_GRANT (R224, R225): after the write-back of the holder before, the queue head is granted. -/
def execLockGrant (lock : Nat) (s : State) : Host.Outcome State Fault Refusal :=
  let s := s.unlockDone lock
  match s.locks.get? lock with
  | none => .next s
  | some l =>
    match l.holder, l.queue with
    | none, w :: rest => .next (s.grantLock lock { l with queue := rest } w.who)
    | _, _ => .next s

end Sys2Proof.Machine
end

