-- ==== Sys2Proof/Machine/Pages.lean ====
section
/-! DEFINITION. Page requests (07_load_store.md R206, R209) and the records posted to the companion. -/
namespace Sys2Proof.Machine
open Sys2Proof

/-- A page-request token is in use. -/
def State.tokenUsed (s : State) (k : Nat) : Bool :=
  s.teams.any (fun (_, t) => t.token = k || t.ioToken = k) || s.copies.any (fun (_, c) => c.token = k) || s.grids.any (fun (_, g) => g.token = k)
  || s.te.cmds.any (fun (_, c) => c.token = k) || s.msgs.any (fun (_, m) => m.token = k)
  || s.fab.pilotCmds.any (fun (_, x) => x.token = k)
  || s.ctxs.any (fun (_, c) => match c.heldRec with | some (_, n) => n = k | none => false)

/-- The first token after `k` that is not in use: tokens have 16 bits and are never zero (R206, R226). -/
def State.findToken (s : State) (k : Nat) : Nat → Nat
  | 0 => k % 65535 + 1
  | fuel + 1 =>
    let n := k % 65535 + 1
    if s.tokenUsed n then State.findToken s n fuel else n

/-- A token of its own. -/
def State.newToken (s : State) : Nat × State :=
  let n := s.findToken s.xlat.token 65535
  (n, { s with xlat := { s.xlat with token := n } })

/-- The 32 bytes of a page-request record (R209). -/
def PageReq.bytes (q : PageReq) (seq : Nat) : List Byte :=
  leBytes 1 q.kind ++ leBytes 1 q.world ++ leBytes 2 q.token ++ leBytes 4 q.ctx ++ leBytes 8 (q.va / 2 ^ 16 * 2 ^ 16)
    ++ leBytes 4 q.rank.toNat ++ leBytes 1 q.count ++ leBytes 1 q.index ++ leBytes 2 0 ++ leBytes 8 seq

/-- Records that the page-request ring holds (R206). -/
def Xlat.ringSize (x : Xlat) : Nat := 64 * 2 ^ (x.prqBase.toNat % 16)

/-- The ring has room (R206, R209). -/
def Xlat.ringRoom (x : Xlat) : Bool := (x.tail - x.head).toNat < x.ringSize

/-- Writes the record that has waited longest, when the ring has room (R209). -/
def State.postPage (s : State) : State :=
  match s.xlat.queue with
  | [] => s
  | q :: rest =>
    if s.xlat.ringRoom then
      let base := s.xlat.prqBase.toNat / 4096 * 4096
      { s with comp := s.comp.writeN (base + 32 * (s.xlat.tail.toNat % s.xlat.ringSize)) (q.bytes s.xlat.seq),
               xlat := { s.xlat with queue := rest, tail := s.xlat.tail + 1, seq := s.xlat.seq + 1 } }
    else s

/-- Queues the records of a token and posts those that find room (R209). -/
def State.requestPages (s : State) (ctx token : Nat) (rank : BitVec 32) (pages : List MissPage) : State :=
  let world := s.ctxWorld ctx
  let qs := ((List.range pages.length).zip pages).map fun (i, p) =>
    (⟨p.kind, world, token, ctx, p.va, rank, pages.length, i⟩ : PageReq)
  qs.foldl (fun s q => State.postPage { s with xlat := { s.xlat with queue := s.xlat.queue ++ [q] } }) s

/-- One page under a token of its own (R244, R305, R348, R455). -/
def State.requestPage (s : State) (ctx kind va : Nat) : Nat × State :=
  let (tok, s) := s.newToken
  (tok, s.requestPages ctx tok 0xFFFFFFFF [⟨kind, va⟩])

/-- PAGE_REQUEST_POST (R209): a record held while the ring was full is written. -/
def execPageRequestPost (s : State) : Host.Outcome State Fault Refusal := .next s.postPage

end Sys2Proof.Machine
end

