-- ==== Sys2Proof/Machine/Rings.lean ====
section
/-! DEFINITION. Stage rings and logbooks as groups use them (08_copy.md R252 to R258). -/
namespace Sys2Proof.Machine
open Sys2Proof

/-- The fault of a ring that is misused (R255). -/
def ringFault : Res := .fault { code := .ring }

/-- What RESERVE and WAIT write for a slot (R254). -/
def Group.setSlot (g : Group) (t : Team) (x : Ring) (d slot : Nat) (phase : Bool) : Group :=
  let off := x.offset + slot * x.bytes
  (g.setS d (t.window off)).setS (d + 1) (BitVec.ofNat 64 (off % 2 ^ 32 * 2 ^ 32 + b2n phase * 2 ^ 8 + slot))

/-- A RING instruction on a declared ring (R254, R255). A group whose own COMMIT or FREE on the ring has not taken effect waits
for it. -/
def ringOp (f : FmtBR) (s : State) (body : GRef → Team → Group → Nat → Ring → Res) : Host.Outcome State Fault Refusal :=
  s.issue f.len fun r t g =>
    let id := f.w2.imm.toNat
    match t.rings.get? id with
    | none => ringFault
    | some x => if t.relq.any (fun q => q.grp = r.grp && q.ring = id) then .stay s g else body r t g id x

/-- RING RESERVE (R252, R254). -/
def execRingReserve (f : FmtBR) (s : State) : Host.Outcome State Fault Refusal :=
  ringOp f s fun r t g id x =>
    match x.claim .cs with
    | none => .stay s (g.block s.ref true)
    | some (slot, y) =>
      let s := s.updRing r.team id fun _ => y
      let (s, g) := s.acquireFor t g
      .done s (g.setSlot t x f.d.toNat slot (!x.phaseOf slot))

/-- A COMMIT or FREE: a release, after which the slot changes state (R252, R254). -/
def ringChange (f : FmtBR) (s : State) (free : Bool) (ok : SlotState → Bool) : Host.Outcome State Fault Refusal :=
  ringOp f s fun r t g id x =>
    let slot := (g.s f.a.toNat).toNat % 16
    if x.slots ≤ slot then ringFault
    else if t.relq.any (fun q => q.ring = id && q.slot = slot) then .stay s g
    else if !ok (x.at slot) then ringFault
    else
      let ids := s.outstanding r
      let rel : RingRel := ⟨r.grp, id, slot, free, ids⟩
      .done (s.updTeam r.team fun t => if ids.isEmpty then t.ringRelease rel else { t with relq := t.relq ++ [rel] }) g

/-- RING COMMIT (R252, R254). -/
def execRingCommit (f : FmtBR) (s : State) : Host.Outcome State Fault Refusal := ringChange f s false fun x => x = .cs

/-- RING FREE (R252, R254). -/
def execRingFree (f : FmtBR) (s : State) : Host.Outcome State Fault Refusal := ringChange f s true fun x => x = .l || x = .lf

/-- RING WAIT (R254, R255). -/
def execRingWait (f : FmtBR) (s : State) : Host.Outcome State Fault Refusal :=
  ringOp f s fun _ t g _ x =>
    let a := (g.s f.a.toNat).toNat
    let slot := a % 16
    let phase := bitAt a 8
    let finish : Res := let (s, g) := s.acquireFor t g; .done s (g.setSlot t x f.d.toNat slot phase)
    if x.slots ≤ slot then ringFault
    else if g.waiting && g.woken then finish
    else if x.phaseOf slot ≠ phase then .stay s (g.block s.ref true)
    else if x.at slot = .l || x.at slot = .lf then finish
    else ringFault

/-- Slots of a ring in some of the states. -/
def Ring.countOf (x : Ring) (p : SlotState → Bool) : Nat := ((List.range x.slots).filter fun n => p (x.at n)).length

/-- Phase bits, slot 0 lowest. -/
def Ring.phaseBits (x : Ring) : Nat := (List.range x.slots).foldl (fun b n => if x.phaseOf n then b + 2 ^ n else b) 0

/-- RING QUERY (R254). -/
def execRingQuery (f : FmtBR) (s : State) : Host.Outcome State Fault Refusal :=
  ringOp f s fun _ _ g _ x =>
    .done s (g.setS f.d.toNat (BitVec.ofNat 64 (x.phaseBits * 2 ^ 32 + x.slots * 2 ^ 24 + x.tail * 2 ^ 16
      + x.countOf (fun st => st = .l || st = .lf) * 2 ^ 8 + x.countOf (· = .f))))

/-- A RING instruction on a declared logbook (R254, R258). -/
def logOp (f : FmtBR) (s : State) (body : GRef → Team → Group → Nat → Logbook → Res) : Host.Outcome State Fault Refusal :=
  s.issue f.len fun r t g =>
    let id := f.w2.imm.toNat
    match t.logs.get? id with
    | none => ringFault
    | some x => body r t g id x

/-- LOGWAIT (R258). -/
def execRingLogwait (f : FmtBR) (s : State) : Host.Outcome State Fault Refusal :=
  logOp f s fun _ _ g _ x => if x.rd < x.wr then .done s g else .stay s (g.block s.ref true)

/-- LOGPOP (R256, R258). -/
def execRingLogpop (f : FmtBR) (s : State) : Host.Outcome State Fault Refusal :=
  logOp f s fun r t g id x =>
    if x.rd < x.wr then
      let e := x.rd % x.records
      let s := s.updTeam r.team fun t => { t with logs := t.logs.upd id fun x => { x with rd := x.rd + 1, taken := some e } }
      let (s, g) := s.acquireFor t g
      .done s (g.setS f.d.toNat (t.window (x.base + 32 * e)))
    else .done s (g.setS f.d.toNat (BitVec.allOnes 64))

/-- The engine may write the next record (R256). -/
def Logbook.room (x : Logbook) : Bool :=
  match x.taken with
  | none => x.wr - x.rd < x.records
  | some _ => x.wr - x.rd + 1 < x.records

end Sys2Proof.Machine
end

