-- ==== Sys2Proof/Machine/Copy.lean ====
section
/-! DEFINITION. The copy engine (08_copy.md R232 to R251, R259): queues, descriptors, boxes, conversion, completion and
delivery to the rings of other teams. -/
namespace Sys2Proof.Machine
open Sys2Proof

/-! ### The descriptor (R236, R237) -/

/-- A descriptor as its fields. -/
structure CopyDesc where
  src : Nat
  dst : Nat
  tag : Nat
  last : Bool
  first : Bool
  ridx : Nat
  ndim : Nat
  logen : Bool
  log : Nat
  group : Nat
  ring : Nat
  dring : Bool
  dstk : Bool
  srck : Bool
  side : Bool
  rmode : Nat
  layout : Nat
  conv : Nat
  etype : Nat
  /-- Sizes of dimensions 0 to NDIM. -/
  sizes : List Nat
  /-- Strides of dimensions 1 to NDIM, in bytes. -/
  strides : List Nat
  /-- The fields that must be zero are. -/
  zeros : Bool
  deriving DecidableEq, Repr

/-- The fields of 64 descriptor bytes. -/
def CopyDesc.parse (b : List Byte) : CopyDesc :=
  let ctl := bytesNum b 0x18 8
  let ndim := bitsOf ctl 30 28
  let dim (k : Nat) : Nat := bytesNum b (0x22 + 5 * (k - 1)) 5
  let dims := (List.range ndim).map (· + 1)
  { src := bytesNum b 0 8, dst := bytesNum b 8 8, tag := bytesNum b 0x10 8, last := bitAt ctl 57, first := bitAt ctl 56,
    ridx := bitsOf ctl 55 32, ndim := ndim, logen := bitAt ctl 27, log := bitsOf ctl 26 24, group := bitsOf ctl 23 20,
    ring := bitsOf ctl 19 16, dring := bitAt ctl 15, dstk := bitAt ctl 14, srck := bitAt ctl 13, side := bitAt ctl 12,
    rmode := bitsOf ctl 11 10, layout := bitsOf ctl 9 8, conv := bitsOf ctl 6 4, etype := bitsOf ctl 3 0,
    sizes := (bytesNum b 0x20 2 + 1) :: dims.map fun k => bitsOf (dim k) 39 28 + 1,
    strides := dims.map fun k => bitsOf (dim k) 27 0 * 16,
    zeros := bitsOf ctl 63 58 = 0 && !bitAt ctl 31 && !bitAt ctl 7
      && (List.range 6).all fun k => k < ndim || dim (k + 1) = 0 }

/-- Size of dimension `k`, 1 above NDIM. -/
def CopyDesc.size (d : CopyDesc) (k : Nat) : Nat := d.sizes[k]?.getD 1

/-- Elements of the box. -/
def CopyDesc.count (d : CopyDesc) : Nat := d.sizes.foldl (· * ·) 1

/-- Rows of MX elements (R239). -/
def CopyDesc.mx (d : CopyDesc) : Bool := 4 ≤ d.etype

/-- Source element size in bytes; 1 for MX rows (R241). -/
def CopyDesc.esize (d : CopyDesc) : Nat := if d.mx then 1 else 2 ^ d.etype

/-- Size of an element after conversion (R238, R240). -/
def CopyDesc.dsize (d : CopyDesc) : Nat := if d.conv = 1 then 2 else if d.conv = 2 then 4 else d.esize

/-- The effective source (R236); GTHR uses s[B] for its index list. -/
def Copy.effSrc (c : Copy) (d : CopyDesc) : Nat := if c.sub = 3 then d.src else (d.src + c.sdelta.toNat) % 2 ^ 64

/-- The effective destination (R236). -/
def Copy.effDst (c : Copy) (d : CopyDesc) : Nat := if c.sub = 3 then d.dst else (d.dst + c.ddelta.toNat) % 2 ^ 64

/-- Malformed whatever the team: reserved values and combinations (R237, R239, R240, R241, R248). DESIGN CHOICE (log entry 108): a reducing copy
with SIDE = 0, whose strides describe the source, is accepted, and adds to a dense destination. -/
def CopyDesc.badForm (d : CopyDesc) : Bool :=
  let s0 := d.size 0
  !d.zeros || 6 < d.ndim || 7 ≤ d.etype || 3 ≤ d.conv || d.layout = 3 || d.rmode = 3
  || !((d.conv = 0 && d.etype ≤ 3) || (d.conv = 1 && (d.etype = 2 || d.mx)) || (d.conv = 2 && d.etype = 1))
  || (d.mx && (d.side || s0 % 32 ≠ 0))
  || (d.layout ≠ 0 && (d.side || !(d.etype = 1 || d.etype = 2) || d.conv ≠ 0 || d.ndim = 0 || s0 % 32 ≠ 0 || d.size 1 % 32 ≠ 0))
  || (d.rmode = 1 && !((d.etype = 2 && d.conv = 0) || (d.etype = 1 && (d.conv = 2 || s0 % 2 = 0))))
  || (d.rmode = 2 && !((d.etype = 2 || d.etype = 3) && d.conv = 0))
  || (d.first && d.ridx ≠ 0) || (d.rmode ≠ 0 && d.dring) || (!d.dring && d.ring ≠ 0)

/-- The team is in a cluster block: its grid has cluster placement, and it is no task (R15, R241). -/
def State.blockWidth (s : State) (t : Team) : Nat :=
  match t.grid with
  | some g => ((s.grids.get? g).map fun x => x.width).getD 0
  | none => 0

/-- A malformed descriptor (R241). -/
def State.descBad (s : State) (t : Team) (c : Copy) (d : CopyDesc) : Bool :=
  let deliver := c.sub = 1 || c.sub = 2
  let src := c.effSrc d
  let dst := c.effDst d
  d.badForm
  || (!deliver && d.group ≠ 0)
  || (deliver && (!d.dring || s.blockWidth t = 0
      || (if c.sub = 1 then (t.mcast.get? d.group).getD 0 = 0 else ((t.chains.get? d.group).getD []).isEmpty)))
  || (d.dring && (d.dst ≠ 0 || (c.sub ≠ 3 && c.ddelta ≠ 0)
      || (match t.rings.get? d.ring with | none => true | some x => x.bytes < d.count * d.dsize)))
  || (d.logen && (t.logs.get? d.log).isNone)
  || (c.sub = 3 && (d.ndim ≠ 1 || d.rmode ≠ 0 || d.layout ≠ 0 || d.side || t.shape.mem < c.sdelta.toNat + 4 * d.size 1))
  || src % d.esize ≠ 0 || (!d.dring && dst % d.dsize ≠ 0)
  || d.strides.any (fun x => x % (if d.side then d.dsize else d.esize) ≠ 0)
  || (d.srck && t.shape.mem ≤ src) || (d.dstk && !d.dring && t.shape.mem ≤ dst)

/-! ### Box positions (R238 to R240) -/

/-- The position of a row-major number in a box: i0, i1, and so on. -/
def boxPos : List Nat → Nat → List Nat
  | [], _ => []
  | n :: ns, p => p % n :: boxPos ns (p / n)

/-- Coordinate `k` of a position. -/
def coord (i : List Nat) (k : Nat) : Nat := i[k]?.getD 0

/-- The row-major number of the coordinates from dimension 2 up. -/
def outerLin (sizes i : List Nat) : Nat := ((sizes.drop 2).zip (i.drop 2)).foldr (fun (n, x) acc => x + n * acc) 0

/-- lin() of a position: row-major, or as LAYOUT orders it (R240). -/
def CopyDesc.lin (d : CopyDesc) (p : Nat) (i : List Nat) : Nat :=
  let n0 := d.size 0
  let n1 := d.size 1
  let x := coord i 0
  let y := coord i 1
  match d.layout with
  | 1 => y + n1 * (x + n0 * outerLin d.sizes i)
  | 2 =>
    let tile := x / 32 + n0 / 32 * (y / 32 + n1 / 32 * outerLin d.sizes i)
    1024 * tile + 64 * (x % 32 / 8 + 4 * (y % 32 / 8)) + x % 8 + 8 * (y % 8)
  | _ => p

/-- Strided displacement of dimensions 1 up. -/
def CopyDesc.rowOff (d : CopyDesc) (i : List Nat) : Nat := ((d.strides).zip (i.drop 1)).foldl (fun a (st, x) => a + x * st) 0

/-- The source row of a gather: none when its index is out of range (R259). -/
def Copy.gatherRow (c : Copy) (r : Nat) : Option Nat :=
  let i := c.idx[r]?.getD 0
  if c.ddelta.toNat ≤ i then none else some i

/-- Byte displacements and sizes of the source units of position `p`: an element, or for MX rows the byte that holds it and its
scale byte. None: a row that is not read (R238, R239, R259). -/
def Copy.srcUnits (c : Copy) (d : CopyDesc) (p : Nat) : Option (List (Nat × Nat)) :=
  let i := boxPos d.sizes p
  let x := coord i 0
  let row : Option Nat :=
    if c.sub = 3 then (c.gatherRow (coord i 1)).map fun r => r * (d.strides[0]?.getD 0) else some (d.rowOff i)
  match row with
  | none => none
  | some ro =>
    if d.mx then
      let bits := if d.etype = 4 then 4 else 8
      some [(ro + x * bits / 8, 1), (ro + d.size 0 * bits / 8 + x / 32, 1)]
    else if d.side then some [(p * d.esize, d.esize)]
    else some [(ro + x * d.esize, d.esize)]

/-- Byte displacement of the destination of position `p`. -/
def CopyDesc.dstOff (d : CopyDesc) (p : Nat) : Nat :=
  let i := boxPos d.sizes p
  if d.side && !d.dring then coord i 0 * d.dsize + d.rowOff i else d.lin p i * d.dsize

/-- The element format of an MX row. -/
def mxRowFmt (etype : Nat) : Fmt := if etype = 4 then .e2m1 else if etype = 5 then .e4m3 else .e5m2

/-- Random bits of an engine conversion (R47). -/
def engineRand (seed step0 : Word) (e : Nat) : Word := mix32 (seed ^^^ mix32 (step0 ^^^ mix32 (BitVec.ofNat 32 e)))

/-- The converted bytes of the element at position `p`, from the bytes of its source units (R240). -/
def Copy.convert (c : Copy) (d : CopyDesc) (p : Nat) (units : List (List Byte)) : List Byte :=
  let raw := leNat (units[0]?.getD [])
  let mode := cvmMode (roundCode 0 c.cvm tyBf16) (engineRand c.seed c.step0 (d.lin p (boxPos d.sizes p)))
  let sat := satCodeOf 0 c.cvm tyBf16
  match d.conv with
  | 0 => units[0]?.getD []
  | 1 =>
    if d.mx then
      let fm := mxRowFmt d.etype
      let x := if d.etype = 4 then raw / 16 ^ (coord (boxPos d.sizes p) 0 % 2) % 16 else raw
      let sc := leNat (units[1]?.getD [])
      let v : FVal := if sc = 255 then .nan
        else match fm.unpack x with
          | .fin n m e => .fin n m (e + (sc : Int) - 127)
          | v => v
      leBytes 2 (Fmt.bf16.pack mode sat v)
    else leBytes 2 (convFF .fp32 .bf16 mode sat raw)
  | _ => leBytes 4 (convFF .bf16 .fp32 .rne 0 raw)

/-! ### Accesses of the engine -/

/-- The address of a displacement from an effective source or destination (R191, R236). -/
def State.copyAddr (s : State) (t : Team) (grp : Nat) (team : Bool) (eff off : Nat) : Except FaultCode DWord :=
  if team then s.space t grp 1 ((eff + off : Nat) : Int) else .ok (BitVec.ofNat 64 (eff + off))

/-- What an access of the engine meets. -/
inductive CopyErr where
  | fault (c : FaultCode) (addr : DWord)
  | missing (write : Bool) (va : Nat)
  /-- A walk of the page table reads a retired table: the context ends (R396). -/
  | ends (addr : DWord)
  /-- The write is held at the old home of its frame (R394). -/
  | held (pa : Nat)
  deriving DecidableEq, Repr

/-- A translation of the address meets a retired table of the context's page table (R396). -/
def State.walkRetired (s : State) (t : Team) (n : Nat) (a : DWord) : Bool :=
  match s.where_ t.coreN a n with
  | .ok (.virt va _) => (match s.findLeaf (some t.coreN) t.ctx va with | .error (.fault .addrRetired _) => true | _ => false)
  | _ => false

/-- A unit of the engine that passed the checks of R196 and is not lost (R243). -/
def State.copyUnit (s : State) (t : Team) (grp n : Nat) (k : AccKind) (team : Bool) (eff off : Nat) :
    Except CopyErr (DWord × Unit_) :=
  match s.copyAddr t grp team eff off with
  | .error e => .error (.fault e (BitVec.ofNat 64 (eff + off)))
  | .ok a =>
    match s.checkUnit t n k a with
    | .error (.fault e _ addr) => .error (if e = .addrRetired && s.walkRetired t n a then .ends addr else .fault e addr)
    | .error (.missing va) => .error (.missing k.write va)
    | .ok u =>
      match u with
      | .phys p _ _ => if s.isLost p.pa then .error (.fault .dataLost a) else .ok (a, u)
      | u => .ok (a, u)

/-- Reads the source units of a position that lie on the own device; a far unit reads as what its message brought, under the key
2 p + j. -/
def State.copySource (s : State) (t : Team) (c : Copy) (d : CopyDesc) (p : Nat) :
    Nat → List (Nat × Nat) → Except CopyErr (List (List Byte) × State)
  | _, [] => .ok ([], s)
  | j, (off, n) :: rest =>
    match s.copyUnit t c.grp n { write := false } d.srck (c.effSrc d) off with
    | .error e => .error e
    | .ok (_, u) =>
      let (bs, s) := match u with
        | .spad a => (s.spad.readN a n, s)
        | .phys q _ _ => (s.addTlb q.tlb).performRead none q.nc q.pa n
        | .far _ _ _ _ => ((c.buf.get? (2 * p + j)).getD (List.replicate n 0), s)
      match State.copySource s t c d p (j + 1) rest with
      | .error e => .error e
      | .ok (bss, s) => .ok (bs :: bss, s)

/-- The bytes of the element at position `p` after conversion; zeros for a gather row that is not read. -/
def State.copyElem (s : State) (t : Team) (c : Copy) (d : CopyDesc) (p : Nat) : Except CopyErr (List Byte × State) :=
  match c.srcUnits d p with
  | none => .ok (List.replicate d.dsize 0, s)
  | some us =>
    match s.copySource t c d p 0 us with
    | .error e => .error e
    | .ok (bss, s) => .ok (c.convert d p bss, s)

/-- A message of a copy for a far unit (R114, R296). -/
def copyMsg (t : Team) (c : Copy) (id : Nat) (rank region off : Nat) (va : DWord) (kind : MsgKind) : Msg :=
  { inbound := false, rank := rank, region := region, off := off, kind := kind, state := .queued, owner := none, ctx := t.ctx,
    die := dieOf t.coreN, op := none, copy := some id, team := none, port := 0, seq := 0, resends := 0, firstSent := 0, lastSent := 0, after := [],
    va := va.toNat, lane := 0xFF, hdr := c.hdr, slot := c.slot, token := 0, reply := none }

/-- Changes a copy. -/
def State.updCopy (s : State) (id : Nat) (f : Copy → Copy) : State := { s with copies := s.copies.upd id f }

/-- Writes the bytes of one unit to the destination; a far unit goes as a message that the copy waits for. -/
def State.copyWrite (s : State) (t : Team) (id : Nat) (c : Copy) (u : DWord × Unit_) (bs : List Byte) : State :=
  match u.2 with
  | .spad a => s.spadWriteN a bs
  | .phys p _ _ => (s.addTlb p.tlb).performWrite none p.nc p.pa bs
  | .far rank reg off _ =>
    let (m, s) := s.addMsg (copyMsg t c id rank reg off u.1 (.write [⟨off, bs, none⟩]))
    s.updCopy id fun c => { c with need := c.need ++ [m] }

/-- A sequenced contribution of a reducing copy (R248); the issuing group's releases wait for its turn (R124). -/
def State.copyContrib (s : State) (t : Team) (id : Nat) (c : Copy) (d : CopyDesc) (u : DWord × Unit_) (bs : List Byte) : State :=
  match u.2 with
  | .phys p _ _ =>
    let (k, s) := s.fresh
    let s := s.addTlb p.tlb
    let x : Contrib :=
      { ctx := t.ctx, world := s.worldOf t, unit := p.pa, index := d.ridx, bf16 := d.conv = 0 && d.etype = 1,
        value := BitVec.ofNat 32 (leNat bs), first := d.first, last := d.last, owner := none, op := none, copy := some id,
        issuer := some ⟨c.team, c.grp⟩, held := false, waits := false, stalled := false, va := u.1.toNat, hdr := c.hdr, slot := c.slot, since := s.ref,
        phase := s.routePhase p.pa }
    { s with contribs := s.contribs.put k x }.updCopy id fun c => { c with need := c.need ++ [k] }
  | _ => s

/-- An integer addition of a reducing copy (R248): update-only at a home, atomic at a scratchpad. -/
def State.copyAdd (s : State) (t : Team) (u : DWord × Unit_) (bs : List Byte) : State :=
  let n := bs.length
  let b : DWord := BitVec.ofNat 64 (leNat bs)
  match u.2 with
  | .spad a => s.spadWriteN a (leBytes n (redOp 0 false n (s.spad.num a n) (lowOf n b)))
  | .phys p _ _ =>
    let s := s.addTlb p.tlb
    if p.nc || s.frameDrains p.pa then s.redAt t.coreN p.pa 0 false n b else s.redPartial t.coreN p.pa 0 false n b t.ctx u.1.toNat
  | .far _ _ _ _ => s

/-- What the destination of a copy is asked for (R196, R248). -/
def CopyDesc.dstKind (d : CopyDesc) : AccKind := { write := true, red := d.rmode ≠ 0, seq := d.rmode = 1 }

/-- Elements that one destination unit takes: two for a bf16x2 contribution (R248). -/
def CopyDesc.group2 (d : CopyDesc) : Nat := if d.rmode = 1 && d.conv = 0 && d.etype = 1 then 2 else 1

/-- The position that an engine places as its `q`-th: elements may be placed in any order (R238), and the pairs of a bf16x2 reduction are
neighbours in the dense order, which LAYOUT 01 transposes (R240, R248). -/
def CopyDesc.place (d : CopyDesc) (q : Nat) : Nat :=
  if d.layout = 1 && d.group2 = 2 then
    let n0 := d.size 0
    let n1 := d.size 1
    q / n1 % n0 + n0 * (q % n1 + n1 * (q / (n0 * n1)))
  else q

/-- Bytes of consecutive elements, in the order of placing, from the `p`-th. -/
def State.copyElems (s : State) (t : Team) (c : Copy) (d : CopyDesc) (p : Nat) : Nat → Except CopyErr (List Byte × State)
  | 0 => .ok ([], s)
  | n + 1 =>
    match s.copyElem t c d (d.place p) with
    | .error e => .error e
    | .ok (bs, s) =>
      match State.copyElems s t c d (p + 1) n with
      | .error e => .error e
      | .ok (rest, s) => .ok (bs ++ rest, s)

/-- Places the `p`-th element, or the pair from it. -/
def State.copyPlace (s : State) (t : Team) (id : Nat) (c : Copy) (d : CopyDesc) (p : Nat) : Except CopyErr State :=
  let k := d.group2
  let n := k * d.dsize
  let dest : Except CopyErr (DWord × Unit_) :=
    match d.dring, c.claim, t.rings.get? d.ring with
    | true, some slot, some x =>
      let off := x.offset + slot * x.bytes + d.dstOff (d.place p)
      .ok (t.window off, .spad (t.coreN * 2 ^ 21 + t.base + off))
    | _, _, _ => s.copyUnit t c.grp n d.dstKind d.dstk (c.effDst d) (d.dstOff (d.place p))
  match s.copyElems t c d p k with
  | .error e => .error e
  | .ok (bs, s) =>
    match dest with
    | .error e => .error e
    | .ok u =>
      if d.rmode = 1 then .ok (s.copyContrib t id c d u bs)
      else
        match u.2 with
        | .phys p _ _ =>
          if s.frameMoving p.pa then .error (.held p.pa)
          else
            let s := s.forward (id, p.pa)
            .ok (if d.rmode = 2 then s.copyAdd t u bs else s.copyWrite t id c u bs)
        | _ => .ok (if d.rmode = 2 then s.copyAdd t u bs else s.copyWrite t id c u bs)

/-- The context of a copy ends with ADDR_RETIRED (R396). -/
def State.copyEnds (s : State) (id : Nat) (c : Copy) (a : DWord) : State :=
  { s with copies := s.copies.del id }.fatal ⟨c.team, c.grp⟩
    { code := .addrRetired, detail := 0xFF, slot := some c.slot, hdr := some c.hdr, addr := a }

/-- What an engine does about an access that it cannot make: a missing page is requested under a token of the copy's own, a failed access stops
the copy for good, and a held write waits (R243, R244, R394, R396). -/
def State.copyErr (s : State) (t : Team) (id : Nat) (c : Copy) : CopyErr → State
  | .fault e a => s.updCopy id fun c => { c with fault := some (e, a) }
  | .missing _ va =>
    let (tok, s) := s.requestPage t.ctx 3 va
    s.updCopy id fun c => { c with token := tok, pageVa := va }
  | .ends a => s.copyEnds id c a
  | .held pa => s.stall (id, pa)

/-- Places up to `n` units from the copy's position (R238); a missing page stops it under a token of its own, and a failed
access stops it for good (R243, R244). -/
def State.copyLoop (s : State) (t : Team) (id : Nat) (d : CopyDesc) : Nat → State
  | 0 => s
  | n + 1 =>
    match s.copies.get? id with
    | none => s
    | some c =>
      if d.count ≤ c.pos then s
      else
        match s.copyPlace t id c d c.pos with
        | .ok s =>
          let k := d.group2
          State.copyLoop (s.updCopy id fun c => { c with pos := c.pos + k, placed := c.placed + k * d.dsize }) t id d n
        | .error e => s.copyErr t id c e

/-- The far source units of a copy: rank, region, offset, address and key; or the first error. -/
def State.farUnits (s : State) (t : Team) (c : Copy) (d : CopyDesc) : List (Nat × Nat × Nat × DWord × Nat × Nat) :=
  (List.range d.count).flatMap fun p =>
    match c.srcUnits d p with
    | none => []
    | some us => ((List.range us.length).zip us).filterMap fun (j, off, n) =>
        match s.copyUnit t c.grp n { write := false } d.srck (c.effSrc d) off with
        | .ok (a, .far rank reg o _) => some (rank, reg, o, a, 2 * p + j, n)
        | _ => none

/-- Sends the reads of a far source (R114, R118). -/
def State.copyAsk (s : State) (t : Team) (id : Nat) (c : Copy) (d : CopyDesc) : State :=
  (s.farUnits t c d).foldl (fun s (rank, reg, off, a, key, n) =>
    let (m, s) := s.addMsg (copyMsg t c id rank reg off a (.read [⟨off, n, false, 0, key⟩]))
    s.updCopy id fun c => { c with reads := c.reads ++ [m] }) (s.updCopy id fun c => { c with asked := true })

/-- The dense image of a multicast or chain (R250, R251), read once. -/
def State.copyImage (s : State) (t : Team) (c : Copy) (d : CopyDesc) : Nat → Except CopyErr (Memory × State)
  | 0 => .ok ([], s)
  | n + 1 =>
    match State.copyImage s t c d n with
    | .error e => .error e
    | .ok (m, s) =>
      match s.copyElem t c d n with
      | .error e => .error e
      | .ok (bs, s) => .ok (m.writeN (d.dstOff n) bs, s)

/-- Moves what a copy can move now: the image of a multicast or chain, or up to `n` units. -/
def State.copyGo (s : State) (t : Team) (id : Nat) (c : Copy) (d : CopyDesc) (n : Nat) : State :=
  if !s.allDone c.reads then s
  else if c.sub = 1 || c.sub = 2 then
    if c.data.isSome then s
    else
      match s.copyImage t c d d.count with
      | .ok (m, s) => s.updCopy id fun c => { c with data := some (m.readN 0 (d.count * d.dsize)), pos := d.count }
      | .error e => s.copyErr t id c e
  else s.copyLoop t id d n

/-- The copy reads or writes what an older COLLWAIT of its group has still to acquire (R103, R125). -/
def State.copyHeld (s : State) (t : Team) (id : Nat) (c : Copy) (d : CopyDesc) : Bool :=
  let r : GRef := ⟨c.team, c.grp⟩
  let piece (n : Nat) (x : Except CopyErr (DWord × Unit_)) : List (Bool × Nat × Nat) :=
    match x with
    | .ok (a, u) => LaneUnit.piece n ⟨0xFF, a, u, 0⟩
    | .error _ => []
  !(s.collPieces r id).isEmpty && s.collHolds r id ((List.range d.count).flatMap fun p =>
    (((c.srcUnits d p).getD []).flatMap fun (off, n) => piece n (s.copyUnit t c.grp n { write := false } d.srck (c.effSrc d) off))
      ++ (if d.dring then [] else piece d.dsize (s.copyUnit t c.grp d.dsize d.dstKind d.dstk (c.effDst d) (d.dstOff p))))

/-- Advances a copy that has started by up to `n` units: far reads go out, then elements are placed (R242). -/
def State.copyRun (s : State) (id n : Nat) : State :=
  match s.copies.get? id with
  | none => s
  | some c =>
    match s.team? c.team, c.desc with
    | some t, some b =>
      let d := CopyDesc.parse b
      if !c.started || c.parked || c.fault.isSome || c.token ≠ 0 || c.committed || t.core.isNone || s.copyHeld t id c d then s
      else
        let s := if c.asked then s else s.copyAsk t id c d
        match s.copies.get? id with
        | some c => s.copyGo t id c d n
        | none => s
    | _, _ => s

/-! ### Issue (R232 to R235) -/

/-- Copies that hold entries of a team's queue: all but the one set aside. -/
def State.copyQueue (s : State) (team : Nat) : List (Nat × Copy) := s.copies.filter fun (_, c) => c.team = team && !c.aside

/-- TCOPY, TCOPY.MC, TCOPY.CH and GTHR at issue (R232, R234): the checks, then a queue entry. -/
def copyIssue (f : FmtBR) (s : State) (sub : Nat) : Host.Outcome State Fault Refusal :=
  s.issue f.len fun r t g =>
    let fs : Bool := f.w1.fs = 1
    let a := g.s f.a.toNat
    let b := g.s f.b.toNat
    if a.toNat % 64 ≠ 0 then .fault { code := .align, addr := a }
    else if sub = 3 && b.toNat % 4 ≠ 0 then .fault { code := .align, addr := b }
    else if t.shape.mem < a.toNat + 64 then .fault { code := .pageProt, addr := a }
    else if g.flagFull fs || 16 ≤ (s.copyQueue r.team).length then .stay s g
    else
      let after := s.outstanding r
      let (op, s) := s.fresh
      let (id, s) := s.fresh
      let c : Copy :=
        { team := r.team, grp := r.grp, sub := sub, sdelta := b, ddelta := g.s f.c.toNat, cvm := g.cvm,
          seed := g.srseed.extractLsb' 32 32, step0 := g.srseed.extractLsb' 0 32, hdr := g.pc, slot := g.slot, op := some op,
          descAt := a.toNat, desc := none, idx := [], after := after, started := false, aside := false, flags := 0,
          claim := none, recv := [], pos := 0, placed := 0, buf := [], need := [], fault := none, committed := false,
          token := 0, blockedFrom := none, asked := false, reads := [], data := none, parked := false }
      let s := { s with copies := s.copies.put id c }
      .done (s.addOp op (mkOp r g fs (.copy id))) ((g.srAdvance 1).raiseFlag fs)

/-- TCOPY (R234). -/
def execTcopy (f : FmtBR) (s : State) : Host.Outcome State Fault Refusal := copyIssue f s 0
/-- TCOPY.MC (R234, R249). -/
def execTcopyMc (f : FmtBR) (s : State) : Host.Outcome State Fault Refusal := copyIssue f s 1
/-- TCOPY.CH (R234, R249). -/
def execTcopyCh (f : FmtBR) (s : State) : Host.Outcome State Fault Refusal := copyIssue f s 2
/-- GTHR (R234, R259). -/
def execGthr (f : FmtBR) (s : State) : Host.Outcome State Fault Refusal := copyIssue f s 3

/-- A CQUIESCE or CQUIESCE.SET of the team is outstanding (R235). -/
def State.quiesceOut (s : State) (team : Nat) : Bool :=
  s.ops.any fun (_, o) => o.owner.team = team && (match o.kind with | .cquiesce => true | _ => false)

/-- CQUIESCE (R235): completes when every earlier copy of the team has completed. -/
def execCquiesce (f : FmtBR) (s : State) : Host.Outcome State Fault Refusal :=
  s.issue f.len fun r _ g =>
    let fs : Bool := f.w1.fs = 1
    if g.flagFull fs || s.quiesceOut r.team then .stay s g
    else
      let ids := (s.copies.filter fun (_, c) => c.team = r.team).map (·.1)
      let (op, s) := s.fresh
      .done (s.addOp op { mkOp r g fs .cquiesce with need := ids }) (g.raiseFlag fs)

/-- The cores of a chain value (R235): 2 to 8 distinct cores 0 to 7 from position 0, then 0xFF. -/
def chainOf (x : DWord) : Option (List Nat) :=
  let bs := (leBytes 8 x.toNat).map (·.toNat)
  let cs := bs.takeWhile (· ≠ 0xFF)
  if 2 ≤ cs.length && cs.all (· < 8) && cs.eraseDups.length = cs.length && (bs.drop cs.length).all (· = 0xFF) then some cs
  else none

/-- A copy of the team names an entry of its multicast or chain table (R235). -/
def State.entryUsed (s : State) (t : Team) (team sub id : Nat) : Bool :=
  s.copies.any fun (_, c) => c.team = team && c.sub = sub
    && (CopyDesc.parse (c.desc.getD (s.teamRead t c.descAt 64))).group = id

/-- CQUIESCE.SET (R235). -/
def execCquiesceSet (f : FmtBR) (s : State) : Host.Outcome State Fault Refusal :=
  s.issue f.len fun r t g =>
    let fs : Bool := f.w1.fs = 1
    let chain := f.mod.getLsbD 1
    let id := f.w2.imm.toNat % 16
    let b := g.s f.b.toNat
    if g.flagFull fs || s.quiesceOut r.team then .stay s g
    else if s.entryUsed t r.team (if chain then 2 else 1) id then .fault { code := .mcast }
    else
      let (op, s) := s.fresh
      let set (u : Team → Team) : Res :=
        .done ((s.updTeam r.team u).addOp op (mkOp r g fs .cquiesce)) (g.raiseFlag fs)
      if chain then
        match chainOf b with
        | none => .fault { code := .mcast }
        | some cs => set fun t => { t with chains := t.chains.put id cs }
      else if b.toNat / 256 ≠ 0 then .fault { code := .mcast }
      else set fun t => { t with mcast := t.mcast.put id (b.truncate 8) }

/-! ### Start (R232, R241, R247, R249) -/

/-- Reads a descriptor, and the index list of a gather, once the writes before the instruction are performed; a malformed one
ends the context (R233, R241). -/
def State.readDesc (s : State) (id : Nat) : State :=
  match s.copies.get? id with
  | none => s
  | some c =>
    match s.team? c.team with
    | none => s
    | some t =>
      if c.desc.isSome || !s.allDone c.after || t.core.isNone then s
      else
        let b := s.teamRead t c.descAt 64
        let d := CopyDesc.parse b
        if s.descBad t c d then
          { s with copies := s.copies.del id }.fatal ⟨c.team, c.grp⟩
            { code := .copyDesc, slot := some c.slot, hdr := some c.hdr, bytes := b }
        else
          let idx := if c.sub = 3 then (List.range (d.size 1)).map fun k => leNat (s.teamRead t (c.sdelta.toNat + 4 * k) 4) else []
          s.updCopy id fun c => { c with desc := some b, idx := idx, flags := c.flags
            ||| (if c.sub = 3 && idx.any (c.ddelta.toNat ≤ ·) then 1 else 0) }

/-- Every group of the team has retired. -/
def Team.allRetired (t : Team) : Bool := t.groups.all (·.retired)

/-- Copies of a core that hold an execution place (R232). -/
def State.executing (s : State) (core : Nat) : Nat :=
  (s.copies.filter fun (_, c) => c.started && !c.parked && (match s.team? c.team with | some t => t.core = some core | none => false)).length

/-- The team of a cluster block that runs on a core (R15, R249). -/
def State.blockTeam (s : State) (t : Team) (core : Nat) : Option Nat :=
  let w := s.blockWidth t
  (s.teams.find? fun (_, x) => x.grid = t.grid && x.grid.isSome && x.core = some core && x.index / w = t.index / w).map (·.1)

/-- The receivers that a multicast or chain names, in order; absent ones have no team (R249). -/
def State.receivers (s : State) (t : Team) (c : Copy) (d : CopyDesc) : List (Option Recv) :=
  let base := t.coreN / 8 * 8
  let cores := if c.sub = 1 then (List.range 8).filter ((t.mcast.get? d.group).getD 0).getLsbD else (t.chains.get? d.group).getD []
  cores.map fun k => (s.blockTeam t (base + k)).map fun x => ⟨base + k, x, none, false, false⟩

/-- The head of a queue cannot start. -/
def State.blockHead (s : State) (id : Nat) : State :=
  s.updCopy id fun c => { c with blockedFrom := some (c.blockedFrom.getD s.ref) }

/-- The ring that a copy names as its destination (R237). -/
def Copy.ringOf (c : Copy) : Option Nat :=
  match c.desc with
  | some b => let d := CopyDesc.parse b; if d.dring then some d.ring else none
  | none => none

/-- The ring of its own team that a copy has still to claim before it starts (R232, R252): a multicast or chain claims at its receivers,
and a copy that was parked after its claim keeps it (R245). -/
def Copy.claims (c : Copy) : Option Nat := if c.claim.isNone && (c.sub = 0 || c.sub = 3) then c.ringOf else none

/-- A claim on a ring of the team would wait (R252). -/
def Team.ringFull (t : Team) (k : Nat) : Bool := (t.rings.get? k).any fun (x : Ring) => (x.claim .ce).isNone

/-- The copies of a team's queue that have not started: the set-aside one, and the head (R261). -/
def State.copyFirsts (s : State) (team : Nat) : Option (Nat × Copy) × Option (Nat × Copy) :=
  let waits := s.copies.filter fun (_, c) => c.team = team && !c.started && !c.parked
  (waits.find? fun (_, c) => c.aside, waits.find? fun (_, c) => !c.aside)

/-- The copy of a team that starts next (R232, R261): the set-aside one once its claim succeeds, else the head of the queue, which does
not pass the set-aside one on its ring. None: neither can start. -/
def State.copyNext (s : State) (team : Nat) (t : Team) : Option (Nat × Copy) :=
  let (aside, head) := s.copyFirsts team
  let free (c : Copy) : Bool := c.desc.isSome && !c.claims.any t.ringFull
  match aside, head with
  | some a, some h =>
    if free a.2 then some a else if free h.2 && (h.2.ringOf ≠ a.2.ringOf || h.2.claim.isSome) then some h else none
  | some a, none => if free a.2 then some a else none
  | none, some h => if free h.2 then some h else none
  | none, none => none

/-- Starts a copy that can start: its claim is taken, or its receivers are found (R232, R249, R252). -/
def State.startCopy (s : State) (id : Nat) (c : Copy) (t : Team) (b : List Byte) : State :=
  let d := CopyDesc.parse b
  let s := { s with copyLast := s.copyLast.put t.coreN t.slot }
  let rs := if (c.sub = 1 || c.sub = 2) && c.recv.isEmpty then s.receivers t c d else []
  let claim := c.claims.bind fun k => (t.rings.get? k).bind fun (x : Ring) => (x.claim .ce).map fun y => (k, y)
  let s := match claim with
    | some (k, _, y) => s.updRing c.team k fun _ => y
    | none => s
  s.updCopy id fun c =>
    { c with started := true, blockedFrom := none, recv := c.recv ++ rs.filterMap fun (x : Option Recv) => x,
             flags := c.flags ||| (if rs.contains none then 2 else 0),
             claim := match claim with | some (_, n, _) => some n | none => c.claim }

/-- Once every group of a team has retired, its copies that have not claimed a slot of its own rings are cancelled (R247). -/
def State.cancelCopies (s : State) (team : Nat) (t : Team) : State :=
  if t.allRetired then
    { s with copies := s.copies.filter fun (_, c) => !(c.team = team && !c.started && c.claims.isSome) }
  else s

/-- The team whose queue a core's copy engine serves next: round-robin by team slot among those with a copy that can start (R232; the slot
it begins at is the model's, log entry 84). -/
def State.copyTurn (s : State) (core : Nat) : Option Nat :=
  let last := (s.copyLast.get? core).getD 0
  let far (t : Team) : Nat := (t.slot + 192 - (last + 1)) % 192
  let cand := s.teams.filter fun (k, t) => t.core = some core && (s.copyNext k t).isSome
  (cand.foldl (fun (best : Option (Nat × Team)) x => match best with
    | none => some x
    | some b => if far x.2 < far b.2 then some x else some b) none).map (·.1)

/-- COPY_START (R232, R247, R261): descriptors are read; the next copy of the team's queue starts when the engine's round-robin comes to
it and one of the core's 16 execution places is free. A head that cannot start is blocked. -/
def execCopyStart (team : Nat) (s : State) : Host.Outcome State Fault Refusal :=
  let s := ((s.copies.filter fun (_, c) => c.team = team && c.desc.isNone).map (·.1)).foldl State.readDesc s
  match s.team? team with
  | none => .next s
  | some t =>
    if t.core.isNone then .next s
    else
      let s := s.cancelCopies team t
      match s.copyNext team t with
      | none => .next (match (s.copyFirsts team).2 with | some h => s.blockHead h.1 | none => s)
      | some (id, c) =>
        if 16 ≤ s.executing t.coreN then .next (s.blockHead id)
        else if s.copyTurn t.coreN ≠ some team then .next s
        else .next (match c.desc with | some b => s.startCopy id c t b | none => s)

/-! ### Completion (R242, R243, R256) -/

/-- The bytes of a logbook record (R256). -/
def recordBytes (status code flags placed tag : Nat) (addr : DWord) (wr records : Nat) : List Byte :=
  leBytes 1 status ++ leBytes 1 code ++ leBytes 1 0 ++ leBytes 1 flags ++ leBytes 4 placed ++ leBytes 8 tag
    ++ leBytes 8 addr.toNat ++ leBytes 4 wr ++ leBytes 4 (wr / records + 1)

/-- A record of the logbook has to wait for a LOGPOP (R256). -/
def Team.logFull (t : Team) (k : Nat) : Bool := !((t.logs.get? k).map (·.room)).getD false

/-- Writes a copy's record when its logbook has room, and frees the entry (R242, R256). -/
def State.copyRecord (s : State) (id : Nat) (c : Copy) (t : Team) (d : CopyDesc) : State :=
  let free := { s with copies := s.copies.del id }
  if !d.logen || t.allRetired && t.logFull d.log then free
  else
    match t.logs.get? d.log with
    | none => free
    | some x =>
      if !x.room then s
      else
        let status := if c.fault.isSome then 1 else if c.flags / 2 % 2 = 1 then 2 else 0
        let (code, addr) : Nat × DWord := match c.fault with | some (e, a) => (e.code.toNat, a) | none => (0, 0)
        let rec_ := recordBytes status code c.flags c.placed d.tag addr x.wr x.records
        let at_ := t.coreN * 2 ^ 21 + t.base + x.base + 32 * (x.wr % x.records)
        (free.spadWriteN at_ rec_).updTeam c.team fun t => { t with logs := t.logs.upd d.log fun x => { x with wr := x.wr + 1 } }

/-- Every destination of the copy is performed. -/
def State.copyPlaced (s : State) (c : Copy) (d : CopyDesc) : Bool :=
  d.count ≤ c.pos && s.allDone c.need && (c.recv.all fun x => x.committed && x.forwarded)

/-- The fault that ends the context of a copy without a logbook (R243). -/
def State.copyFatal (s : State) (id : Nat) (c : Copy) (e : FaultCode) (a : DWord) : State :=
  { s with copies := s.copies.del id }.fatal ⟨c.team, c.grp⟩
    { code := .copyFault, detail := c.sub * 256 + e.code.toNat, slot := some c.slot, hdr := some c.hdr, addr := a,
      bytes := c.desc.getD [] }

/-- COPY_COMPLETE (R242, R243): what remains is moved; then the slot is committed, the record written and the entry freed. -/
def execCopyComplete (copy : Nat) (s : State) : Host.Outcome State Fault Refusal :=
  let total := ((s.copies.get? copy).bind fun (c : Copy) => c.desc.map fun b => (CopyDesc.parse b).count).getD 0
  let s := s.copyRun copy total
  match s.copies.get? copy with
  | none => .next s
  | some c =>
    match s.team? c.team, c.desc with
    | some t, some b =>
      let d := CopyDesc.parse b
      if c.parked || t.core.isNone || c.committed then .next s
      else
        let finish (s : State) : State :=
          let s := match c.claim with
            | some slot => s.updTeam c.team fun t => t.fill d.ring slot .l
            | none => s
          let s := s.updCopy copy fun c => { c with committed := true }
          match s.team? c.team with
          | some t => s.copyRecord copy c t d
          | none => s
        match c.fault with
        | some (e, a) => .next (if !s.allDone c.need then s else if d.logen then finish s else s.copyFatal copy c e a)
        | none => .next (if c.started && s.copyPlaced c d then finish s else s)
    | _, _ => .next s

/-- LOGBOOK_RECORD_WRITE (R256): a record that waited for room is written. -/
def execLogbookRecordWrite (copy : Nat) (s : State) : Host.Outcome State Fault Refusal :=
  match s.copies.get? copy with
  | none => .next s
  | some c =>
    match s.team? c.team, c.desc with
    | some t, some b => .next (if c.committed && !c.parked && t.core.isSome then s.copyRecord copy c t (CopyDesc.parse b) else s)
    | _, _ => .next s

/-! ### Multicast and chain delivery (R249 to R251) -/

/-- Changes a receiver of a copy. -/
def Copy.updRecv (c : Copy) (core : Nat) (f : Recv → Recv) : Copy :=
  { c with recv := c.recv.map fun x => if x.core = core then f x else x }

/-- A receiver that is skipped (R247, R249). -/
def State.skipRecv (s : State) (id core : Nat) : State :=
  s.updCopy id fun c => { (c.updRecv core fun x => { x with committed := true, forwarded := true }) with flags := c.flags ||| 2 }

/-- Delivers bytes to a receiver: a claim on its ring, the slot's bytes, the commit in state `st`. A ring with no free slot holds
the delivery. -/
def State.deliverTo (s : State) (id : Nat) (d : CopyDesc) (x : Recv) (data : List Byte) (st : SlotState) : State :=
  match s.team? x.team with
  | none => s.skipRecv id x.core
  | some t =>
    if t.allRetired then s.skipRecv id x.core
    else if t.core.isNone then s
    else
      match t.rings.get? d.ring with
      | none => s.skipRecv id x.core
      | some y =>
        match y.claim .ce with
        | none => s
        | some (slot, y) =>
          let at_ := t.coreN * 2 ^ 21 + t.base + y.offset + slot * y.bytes
          let s := (s.spadWriteN at_ data).updTeam x.team fun t => Team.fill { t with rings := t.rings.put d.ring y } d.ring slot st
          s.updCopy id fun c =>
            { (c.updRecv x.core fun x => { x with committed := true, forwarded := st ≠ .lf, slot := some slot }) with
              placed := c.placed + data.length }

/-- MULTICAST_DELIVERY (R250): the data reaches one receiver. -/
def execMulticastDelivery (copy core : Nat) (s : State) : Host.Outcome State Fault Refusal :=
  let s := s.copyRun copy 1
  match s.copies.get? copy with
  | none => .next s
  | some c =>
    match c.data, c.desc, c.recv.find? fun x => x.core = core && !x.committed with
    | some data, some b, some x =>
      .next (if c.sub = 1 && !c.parked then s.deliverTo copy (CopyDesc.parse b) x data .l else s)
    | _, _, _ => .next s

/-- The slot of a chain position leaves LF, or D, once the next position has committed (R251, R252). -/
def State.leaveLf (s : State) (id ring : Nat) (x : Recv) : State :=
  let s := s.updCopy id fun c => c.updRecv x.core fun x => { x with forwarded := true }
  match x.slot with
  | none => s
  | some slot => s.updRing x.team ring fun y =>
      match y.at slot with
      | .lf => y.set slot .l
      | .d => y.set slot .f
      | _ => y

/-- CHAIN_FORWARD (R251): the next position of the chain receives the bytes that the position before it holds. -/
def execChainForward (copy : Nat) (s : State) : Host.Outcome State Fault Refusal :=
  let s := s.copyRun copy 1
  match s.copies.get? copy with
  | none => .next s
  | some c =>
    match c.data, c.desc with
    | some data, some b =>
      let d := CopyDesc.parse b
      if c.sub ≠ 2 || c.parked then .next s
      else
        let prev := c.recv.find? fun x => x.committed && !x.forwarded
        let rest := c.recv.filter fun x => !x.committed
        match rest with
        | [] => .next (match prev with | some p => s.leaveLf copy d.ring p | none => s)
        | x :: more =>
          let bytes := match prev with
            | some p =>
              (match s.team? p.team, p.slot with
                | some t, some slot =>
                  (match t.rings.get? d.ring, t.core with
                    | some y, some _ => s.teamRead t (y.offset + slot * y.bytes) data.length
                    | _, _ => data)
                | _, _ => data)
            | none => data
          let s := s.deliverTo copy d x bytes (if more.isEmpty then .l else .lf)
          match prev, (s.copies.get? copy).bind fun (c : Copy) => c.recv.find? fun y => y.core = x.core with
          | some p, some y => .next (if y.slot.isSome then s.leaveLf copy d.ring p else s)
          | _, _ => .next s
    | _, _ => .next s

end Sys2Proof.Machine
end

