-- ==== Sys2Proof/Machine/Collective.lean ====
section
/-! DEFINITION. The arithmetic of collectives (10_fabric.md R317, R319, R320): descriptors, rings, shares, phases and blocks, and the result of
every operation from the participants' source elements. -/
namespace Sys2Proof.Machine
open Sys2Proof

/-! ### Participants and elements (R317, R320) -/

/-- The format of a floating-point element. -/
def CollDesc.fmt (d : CollDesc) : Option Fmt := match d.ty with | 0 => some .fp32 | 1 => some .bf16 | _ => none

/-- Participant index of a rank. -/
def CollDesc.indexOf (d : CollDesc) (rank : Nat) : Option Nat :=
  if d.stride ≠ 0 && d.first ≤ rank && (rank - d.first) % d.stride = 0 && (rank - d.first) / d.stride < d.parts then
    some ((rank - d.first) / d.stride)
  else none

/-- The rank of a participant. -/
def CollDesc.rankOf (d : CollDesc) (k : Nat) : Nat := d.first + k * d.stride

/-- A pilot's floating-point addition: rounded to nearest even, subnormals kept (R312). -/
def pilotAdd (f : Fmt) (a b : Nat) : Nat := f.pack .rne 0 (sumExact false [f.unpack a, f.unpack b])

/-- Two elements combined: a sum rounded to nearest even, or modulo the width; FMin or FMax; for integers the signed minimum or maximum
(R60, R317, R319; that integers are signed is a DESIGN CHOICE, log entry 37). -/
def CollDesc.combine (d : CollDesc) (a b : Nat) : Nat :=
  match d.fmt with
  | some f => if d.red = 0 then pilotAdd f a b else if d.red = 1 then f.min a b else f.max a b
  | none =>
    let bits := 8 * d.esize
    let less := (BitVec.ofNat bits a).toInt < (BitVec.ofNat bits b).toInt
    if d.red = 0 then (a + b) % 2 ^ bits else if decide less = (d.red == 1) then a else b

/-- A NaN or an infinity (R320). -/
def CollDesc.bad (d : CollDesc) (v : Nat) : Bool :=
  match d.fmt with
  | some f => (match f.unpack v with | .fin _ _ _ => false | _ => true)
  | none => false

/-! ### Rings (R319) -/

/-- A ring dimension: its size, and the position of each participant. -/
structure RingDim where
  size : Nat
  pos : List Nat
  deriving DecidableEq, Repr

/-- The single ring of the participants in index order. -/
def indexRing (n : Nat) : RingDim := ⟨n, List.range n⟩

/-- One coordinate of the participants as a dimension of their box. -/
def boxDim (cs : List Nat) : RingDim :=
  let lo := cs.foldl min (cs.headD 0)
  ⟨cs.foldl max 0 + 1 - lo, cs.map (· - lo)⟩

/-- The rings of a collective: the dimensions above size 1 of the box that the participants' coordinates fill exactly, in the order x, y, z;
else the single ring in index order. -/
def ringDims (coords : List (Option (Nat × Nat × Nat))) : List RingDim :=
  let n := coords.length
  let cs := coords.filterMap id
  let box := [boxDim (cs.map (·.1)), boxDim (cs.map (·.2.1)), boxDim (cs.map (·.2.2))]
  let fills := cs.length = n && (box.foldl (fun k d => k * d.size) 1) = n && cs.eraseDups.length = n
  let dims := box.filter (1 < ·.size)
  if fills && !dims.isEmpty then dims else [indexRing n]

/-- The participant at a place, given by its position in each dimension. -/
def participantAt (dims : List RingDim) (n : Nat) (at_ : List Nat) : Nat :=
  ((List.range n).find? fun k => dims.map (fun d => d.pos[k]?.getD 0) = at_).getD 0

/-- The place of a participant. -/
def placeOf (dims : List RingDim) (k : Nat) : List Nat := dims.map fun d => d.pos[k]?.getD 0

/-- One phase of an element: the dimension, the size of its rings, and the element's block. -/
structure Phase where
  dim : Nat
  size : Nat
  block : Nat
  deriving DecidableEq, Repr

/-- The phases of element `x` from an extent of `len` elements that begins at `lo`: along each ring the extent is split into blocks, and the
element's block is the next extent (R319). -/
def phasesFrom (x : Nat) : Nat → Nat → List (Nat × Nat) → List Phase
  | _, _, [] => []
  | lo, len, (d, m) :: rest =>
    let b := (len + m - 1) / m
    let k := if b = 0 then 0 else (x - lo) / b
    ⟨d, m, k⟩ :: phasesFrom x (lo + k * b) (min b (len - k * b)) rest

/-- The phases of element `x` of `n`: its share goes along the dimensions cyclically from the share's own (R319). -/
def phasesOf (dims : List RingDim) (n x : Nat) : List Phase :=
  let count := dims.length
  let share := (n + count - 1) / count
  let q := if share = 0 then 0 else x / share
  let order := (List.range count).map fun i => (q + i) % count
  phasesFrom x (q * share) (min share (n - q * share)) (order.map fun d => (d, (dims[d]?.map (·.size)).getD 1))

/-- The sum of a block along a ring, from its first position upward over `steps` more positions. -/
def ringSum (add : Nat → Nat → Nat) (p : Phase) (v : Nat → Nat) (steps : Nat) : Nat :=
  (List.range steps).foldl (fun acc j => add acc (v ((p.block + 1 + j) % p.size))) (v p.block)

/-- What stands at a place after phases, given last phase first: each phase sums along its rings what stood there before it. -/
def afterPhases (add : Nat → Nat → Nat) (v : List Nat → Nat) : List Phase → List Nat → Nat
  | [], at_ => v at_
  | p :: earlier, at_ => ringSum add p (fun i => afterPhases add v earlier (at_.set p.dim i)) (p.size - 1)

/-- Element `x` of participant `k`'s source. -/
def elemOf (srcs : List (List Nat)) (k x : Nat) : Nat := ((srcs[k]?.getD [])[x]?).getD 0

/-- Element `x` of an all-reduce (R319). -/
def allReduce (d : CollDesc) (dims : List RingDim) (srcs : List (List Nat)) (x : Nat) : Nat :=
  afterPhases d.combine (fun at_ => elemOf srcs (participantAt dims d.parts at_) x) (phasesOf dims d.n x).reverse
    (dims.map fun _ => 0)

/-- After its phase a block's sum stands at the position before the block's own. -/
def Phase.holder (p : Phase) : Nat := (p.block + p.size - 1) % p.size

/-- The partial results that the participant at a place forms of element `x`, each after what it receives for it: one in each phase whose
extent it holds, where it adds at all (R319, R320). -/
def partialsFrom (add : Nat → Nat → Nat) (v : List Nat → Nat) (at_ : List Nat) : List Phase → List Phase → List (Nat × Nat)
  | _, [] => []
  | earlier, p :: rest =>
    let here := (at_[p.dim]?).getD 0
    let steps := (here + p.size - p.block) % p.size
    let sum := ringSum add p (fun i => afterPhases add v earlier (at_.set p.dim i))
    (if steps = 0 then [] else [(sum (steps - 1), sum steps)])
      ++ (if here = p.holder then partialsFrom add v at_ (p :: earlier) rest else [])

/-- The elements of which participant `k` is the first to form a NaN or an infinity: from a good value that it received. One that a
participant before it formed has halted the collective there (R320). -/
def badPartials (d : CollDesc) (dims : List RingDim) (srcs : List (List Nat)) (k : Nat) : List Nat :=
  if d.op ≠ 0 then []
  else
    (List.range d.n).filter fun x =>
      (partialsFrom d.combine (fun at_ => elemOf srcs (participantAt dims d.parts at_) x) (placeOf dims k) [] (phasesOf dims d.n x)).any
        fun (got, sum) => !d.bad got && d.bad sum

/-- The elements at which participant `k` halts a collective: those of its source, which it checks before it sends them, or else those of the
partial results that it forms (R320). -/
def haltsOf (d : CollDesc) (dims : List RingDim) (srcs : List (List Nat)) (k : Nat) : List Nat :=
  match (List.range d.n).filter fun x => d.bad (elemOf srcs k x) with
  | [] => badPartials d dims srcs k
  | xs => xs

/-- The elements of the destination: of an all-reduce (R319), an all-gather, in participant order, or a broadcast. For a reduce-scatter the spec
does not say which elements a participant receives, nor in which order they are summed: none. -/
def CollDesc.result (d : CollDesc) (dims : List RingDim) (srcs : List (List Nat)) : Option (List Nat) :=
  match d.op with
  | 0 => some ((List.range d.n).map (allReduce d dims srcs))
  | 2 => some ((List.range d.parts).flatMap fun k => (List.range d.n).map (elemOf srcs k))
  | 3 => some ((List.range d.n).map (elemOf srcs d.root))
  | _ => none

end Sys2Proof.Machine
end

