-- ==== Sys2Proof/Machine/Tep.lean ====
section
/-! DEFINITION. The tile epilogue processor (09_matrix.md R277, R278, R283 to R285): the image, its checks and its run over a
tile. -/
namespace Sys2Proof.Machine
open Sys2Proof

/-- Slot `i` of an image (R277). -/
def tepSlot (img : List Byte) (i : Nat) : Nat := bytesNum img (2 * i) 2

/-- The slots of a program up to and with its first EEND; none when no slot holds EEND (R285). -/
def tepProgram (img : List Byte) : Option (List Nat) :=
  let all := (List.range 32).map (tepSlot img)
  let body := all.takeWhile (· / 4096 ≠ 0)
  if body.length = 32 then none else some (body ++ [all[body.length]?.getD 0])

/-- A constant K[n]. -/
def tepK (img : List Byte) (n : Nat) : Nat := bytesNum img (0x40 + 4 * n) 4
/-- A pointer P[n]. -/
def tepP (img : List Byte) (n : Nat) : Nat := bytesNum img (0x60 + 8 * n) 8
/-- P[n].OFF. -/
def tepOff (img : List Byte) (n : Nat) : Nat := bitsOf (tepP img n) 31 0
/-- P[n].PITCH. -/
def tepPitch (img : List Byte) (n : Nat) : Nat := bitsOf (tepP img n) 47 32

/-- Opcode of a slot. -/
def tepOp (h : Nat) : Nat := h / 4096

/-- Check 3 on one slot: unused bits are zero and fields are in range (R283, R285). -/
def tepFieldsOk (h : Nat) : Bool :=
  match tepOp h with
  | 0x1 | 0x2 | 0x5 | 0x6 => bitsOf h 7 0 = 0 && !(bitAt h 11 && 3 < bitsOf h 10 8)
  | 0x4 => !bitAt h 11 && !bitAt h 7 && bitsOf h 3 0 = 0
  | 0x7 => bitsOf h 11 10 = 0 && bitsOf h 3 0 = 0 && bitsOf h 7 4 ≤ 1
  | 0x8 => bitsOf h 11 10 = 0 && bitsOf h 7 0 = 0
  | 0x9 => bitsOf h 11 3 = 0 && bitsOf h 2 0 ≤ 4
  | 0xA => bitsOf h 11 4 = 0 && bitsOf h 3 0 ≤ 7
  | 0xB => bitsOf h 11 2 = 0
  | _ => bitsOf h 11 0 = 0

/-- The pointer that ERES, EAMAX or an ESTORE to 1 to 3 names. -/
def tepRowPtr (h : Nat) : Option Nat :=
  match tepOp h with
  | 0x7 | 0x8 => some (bitsOf h 9 8)
  | 0xB => if bitsOf h 1 0 = 0 then none else some (bitsOf h 1 0)
  | _ => none

/-- A program with its slot numbers. -/
def tepNumbered (prog : List Nat) : List (Nat × Nat) := (List.range prog.length).zip prog

/-- Checks 1 to 6 of R285: the check that refuses an image and the slot it names, 0xFF for none. -/
def tepBad (img : List Byte) : Option (Nat × Nat) :=
  match tepProgram img with
  | none => some (1, 0xFF)
  | some prog =>
    let ps := tepNumbered prog
    let stores := ps.filter fun (_, h) => tepOp h = 0xB
    let cvts := ps.filter fun (_, h) => tepOp h = 9 || tepOp h = 0xA
    let firstCvt := (cvts.head?.map (·.1)).getD 32
    let slot (p : Nat × Nat → Bool) : Option Nat := (ps.find? p).map (·.1)
    match slot fun (_, h) => 0xC ≤ tepOp h with
    | some i => some (2, i)
    | none =>
      match slot fun (_, h) => !tepFieldsOk h with
      | some i => some (3, i)
      | none =>
        if stores.isEmpty then some (4, 0xFF)
        else
          match stores[1]?, stores[2]? with
          | some (i, h), more =>
            if (stores[0]?.map (·.2)) = some h then some (4, i)
            else (match more with
              | some (j, _) => some (4, j)
              | none => late ps firstCvt)
          | none, _ => late ps firstCvt
where
  late (ps : List (Nat × Nat)) (firstCvt : Nat) : Option (Nat × Nat) :=
    match (ps.find? fun (i, h) => firstCvt < i && tepOp h ≠ 0xB && tepOp h ≠ 0).map (·.1) with
    | some i => some (5, i)
    | none =>
      ((ps.find? fun (_, h) =>
        match tepRowPtr h with
        | some n => tepP img n / 2 ^ 48 ≠ 0 || tepPitch img n % 16 ≠ 0
        | none => false).map (·.1)).map fun i => (6, i)

/-- Checks 7 and 8 of R285 against a tile's type. -/
def tepTypeBad (prog : List Nat) (ty : TileType) : Option (Nat × Nat) :=
  let bad (h : Nat) : Bool := match ty with
    | .i32 => !(tepOp h = 0xA || tepOp h = 0xB || tepOp h = 0)
    | _ => tepOp h = 0xA && bitsOf h 3 0 = 7
  ((tepNumbered prog).find? fun (_, h) => bad h).map fun (i, _) => ((match ty with | .i32 => 7 | _ => 8), i)

/-! ### Row formats (R278) -/

/-- The format of a row: its element type, and whether it is in MX blocks. -/
structure RowFmt where
  ty : ElemTy
  mx : Bool
  deriving DecidableEq, Repr

/-- The ECVT targets (R283). -/
def ecvtTy (n : Nat) : ElemTy :=
  match n with
  | 0 => tyBf16 | 1 => tyFp16 | 2 => tyE4m3 | 3 => tyE5m2 | 4 => tyInt16 true | 5 => tyInt8 true
  | 6 => .int 4 true (some 45) | _ => tyF32

/-- The EMXQ formats (R283). -/
def emxqTy (n : Nat) : ElemTy := mxForm (n + 3)

/-- The format of a tile's own elements. -/
def tileFmt (ty : TileType) : RowFmt :=
  match ty with
  | .i32 => ⟨tyInt32 true, false⟩
  | _ => ⟨tyF32, false⟩

/-- The format of a row after a slot, from its format before (R283, R284). -/
def RowFmt.after (f : RowFmt) (h : Nat) : RowFmt :=
  if tepOp h = 0xA then ⟨ecvtTy (bitsOf h 3 0), false⟩ else if tepOp h = 9 then ⟨emxqTy (bitsOf h 2 0), true⟩ else f

/-- The output format of a program on a tile (R278): that of its last ECVT or EMXQ. -/
def outFmt (prog : List Nat) (ty : TileType) : RowFmt :=
  prog.foldl RowFmt.after (tileFmt ty)

/-- Bytes of a row (R278). -/
def RowFmt.bytes (f : RowFmt) : Nat := 8 * f.ty.bits + if f.mx then 2 else 0

/-- Row pitch in a ring slot: the row bytes rounded up to 16 (R278). -/
def RowFmt.pitch (f : RowFmt) : Nat := (f.bytes + 15) / 16 * 16

/-! ### Running the program (R284) -/

/-- What a program sees besides its row. -/
structure TepCtx where
  img : List Byte
  /-- Pointer deltas in bytes. -/
  deltas : List Nat
  cvm : DWord
  seed : Word
  step0 : Word
  /-- Team memory at the drain's start: `n` bytes from an offset. -/
  mem : Nat → Nat → List Byte
  /-- The bound activation bank. -/
  bank : List Byte

/-- A row on its way: its elements, its scales, its format, and what it has written: target 0 is the drain's destination, 1 to 3
are P1 to P3, and 4 stands for a team-memory offset given with the bytes. -/
structure TepRow where
  x : List Nat
  scales : List Nat
  fmt : RowFmt
  out : List (Nat × Nat × List Byte)

/-- The effective offset of pointer `n`. -/
def TepCtx.base (c : TepCtx) (n : Nat) : Nat := tepOff c.img n + c.deltas[n]?.getD 0

/-- Row(n) for row `i`. -/
def TepCtx.row (c : TepCtx) (n i : Nat) : Nat := c.base n + i * tepPitch c.img n

/-- V(c) of EADD, EMUL, EMAX and EMIN. -/
def TepCtx.vec (c : TepCtx) (h : Nat) : List Nat :=
  let n := bitsOf h 10 8
  if bitAt h 11 then (let b := c.mem (c.base n) 256; (List.range 64).map fun k => bytesNum b (4 * k) 4)
  else List.replicate 64 (tepK c.img n)

/-- Applies an operation with V(c). -/
def TepRow.zipV (r : TepRow) (v : List Nat) (f : Nat → Nat → Nat) : TepRow := { r with x := (r.x.zip v).map fun (a, b) => f a b }

/-- The block maximum of EAMAX (R284). -/
def blockMax (xs : List Nat) : Nat :=
  if xs.any (fun x => f32v x = .nan) then Fmt.fp32.canon else xs.foldl (fun m x => max m (x % 2 ^ 31)) 0

/-- The bytes of a row in its current format (R278). -/
def TepRow.bytes (r : TepRow) : List Byte :=
  leBytes (8 * r.fmt.ty.bits) (packBits r.fmt.ty.bits r.x) ++ r.scales.map (BitVec.ofNat 8)

/-- One slot on row `i` (R283, R284). -/
def TepCtx.slot (c : TepCtx) (i : Nat) (r : TepRow) (h : Nat) : TepRow :=
  let rnd (ty : ElemTy) (k : Nat) : RMode := cvmMode (roundCode 0 c.cvm ty) (engineRand c.seed c.step0 (64 * i + k))
  match tepOp h with
  | 0x1 => r.zipV (c.vec h) f32add
  | 0x2 => r.zipV (c.vec h) f32mul
  | 0x3 => { r with x := r.x.map (atEval c.bank) }
  | 0x4 => { r with x := r.x.map fun x => Fmt.fp32.min (Fmt.fp32.max x (tepK c.img (bitsOf h 10 8))) (tepK c.img (bitsOf h 6 4)) }
  | 0x5 => r.zipV (c.vec h) Fmt.fp32.max
  | 0x6 => r.zipV (c.vec h) Fmt.fp32.min
  | 0x7 =>
    let w := if bitsOf h 7 4 = 1 then 2 else 4
    let b := c.mem (c.row (bitsOf h 9 8) i) (64 * w)
    r.zipV ((List.range 64).map fun k => let e := bytesNum b (w * k) w; if w = 2 then e * 2 ^ 16 else e)
      fun x e => f32r (sumExact false [f32v x, if w = 2 then Fmt.bf16.unpack (e / 2 ^ 16) else f32v e])
  | 0x8 =>
    { r with out := r.out ++ [(4, c.row (bitsOf h 9 8) i,
        leBytes 4 (blockMax (r.x.take 32)) ++ leBytes 4 (blockMax ((r.x.drop 32).take 32)))] }
  | 0x9 =>
    let ty := emxqTy (bitsOf h 2 0)
    let sat := satCodeOf 0 c.cvm ty
    let (s0, e0) := mxQuant ty.fmt (rnd ty) sat (r.x.take 32)
    let (s1, e1) := mxQuant ty.fmt (fun k => rnd ty (32 + k)) sat ((r.x.drop 32).take 32)
    { r with x := e0 ++ e1, scales := [s0, s1], fmt := ⟨ty, true⟩ }
  | 0xA =>
    let n := bitsOf h 3 0
    let ty := ecvtTy n
    { r with x := ((List.range 64).zip r.x).map fun (k, x) =>
               if n = 7 then convElem r.fmt.ty ty .rne 0 x else convElem r.fmt.ty ty (rnd ty k) (satCodeOf 0 c.cvm ty) x,
             fmt := ⟨ty, false⟩ }
  | 0xB =>
    let n := bitsOf h 1 0
    { r with out := r.out ++ [if n = 0 then (0, i, r.bytes) else (4, c.row n i, r.bytes)] }
  | _ => r

/-- The program on one row: what it writes, in order. -/
def TepCtx.run (c : TepCtx) (prog : List Nat) (ty : TileType) (i : Nat) (x : List Nat) : List (Nat × Nat × List Byte) :=
  (prog.foldl (c.slot i) ⟨x, [], tileFmt ty, []⟩).out

/-- What the pointers of a program touch in team memory for row `i`: pitch too small, and (offset, bytes) (R275, R284). An ESTORE before the
conversion writes the row in the format that it has there. -/
def tepTouches (img : List Byte) (deltas : List Nat) (prog : List Nat) (ty : TileType) (i : Nat) : List (Bool × Nat × Nat) :=
  let base (n : Nat) := tepOff img n + deltas[n]?.getD 0
  let row (n bytes : Nat) : Bool × Nat × Nat := (tepPitch img n < bytes, base n + i * tepPitch img n, bytes)
  let fmts := (prog.foldl (fun (fs : List RowFmt × RowFmt) h => (fs.1 ++ [fs.2.after h], fs.2.after h)) ([], tileFmt ty)).1
  (prog.zip fmts).filterMap fun (h, f) =>
    match tepOp h with
    | 0x1 | 0x2 | 0x5 | 0x6 => if bitAt h 11 then some (false, base (bitsOf h 10 8), 256) else none
    | 0x7 => some (row (bitsOf h 9 8) (if bitsOf h 7 4 = 1 then 128 else 256))
    | 0x8 => some (row (bitsOf h 9 8) 8)
    | 0xB => if bitsOf h 1 0 = 0 then none else some (row (bitsOf h 1 0) f.bytes)
    | _ => none

end Sys2Proof.Machine
end

