-- ==== Sys2Proof/Machine/Matrix.lean ====
section
/-! DEFINITION. The matrix engine (09_matrix.md R262 to R282): tiles, the MATRIX instructions, passes, and drains. -/
namespace Sys2Proof.Machine
open Sys2Proof

/-! ### Tiles (R262 to R264) -/

/-- The tile is in the team's mask. -/
def Team.hasTile (t : Team) (k : Nat) : Bool := t.shape.tiles.getLsbD k

/-- The type of a tile. -/
def Team.typeOf (t : Team) (k : Nat) : TileType := t.tileTy[k]?.getD .f32

/-- The physical tile of a tile of the team (R262). -/
def Team.physTile (t : Team) (k : Nat) : Nat := t.phys[((List.range k).filter t.hasTile).length]?.getD 0

/-- First byte of a tile in tile memory. -/
def Team.tileBase (t : Team) (k : Nat) : Nat := t.coreN * 393216 + t.physTile k * 24576

/-- An element of a tile. -/
def State.tileElem (s : State) (t : Team) (k i j : Nat) : Nat := s.tmem.num (t.tileBase k + 256 * i + 4 * j) 4

/-- A row of a tile. -/
def State.tileRow (s : State) (t : Team) (k i : Nat) : List Nat := (List.range 64).map fun j => s.tileElem t k i j

/-- Writes a row of a tile. -/
def State.setTileRow (s : State) (t : Team) (k i : Nat) (x : List Nat) : State :=
  { s with tmem := s.tmem.writeN (t.tileBase k + 256 * i) (x.flatMap (leBytes 4)) }

/-- Entries in use in the reorder window of a tile (R264). -/
def State.windowUsed (s : State) (team k : Nat) : Nat :=
  (s.tileOps.filter fun (_, o) => o.team = team && o.tiles.contains k).length

/-- The active beats (R267). -/
def Group.beats (g : Group) : List Nat := [0, 1, 2].filter fun r => g.mask.extractLsb' (32 * r) 32 ≠ 0

/-- The rows of beats, ascending. -/
def beatRows (beats : List Nat) : List Nat := beats.flatMap fun r => (List.range 32).map (32 * r + ·)

/-! ### Operand formats (R266) -/

/-- A row format of MMA: bits of an element, K, whether MX, and the element format; none for integers. -/
structure MmaFmt where
  bits : Nat
  k : Nat
  mx : Bool
  fp : Option Fmt
  deriving DecidableEq, Repr

/-- The formats of R266. -/
def mmaFmt (n : Nat) : MmaFmt :=
  match n with
  | 0 => ⟨16, 32, false, some .bf16⟩
  | 1 => ⟨16, 32, false, some .fp16⟩
  | 2 => ⟨8, 64, false, some .e4m3⟩
  | 3 => ⟨8, 64, false, some .e5m2⟩
  | 4 => ⟨8, 64, true, some .e4m3⟩
  | 5 => ⟨8, 64, true, some .e5m2⟩
  | 6 => ⟨6, 64, true, some .e3m2⟩
  | 7 => ⟨6, 64, true, some .e2m3⟩
  | 8 => ⟨4, 128, true, some .e2m1⟩
  | 9 => ⟨8, 64, false, none⟩
  | _ => ⟨4, 128, false, none⟩

/-- Bytes of an operand row (R266). -/
def MmaFmt.rowBytes (f : MmaFmt) : Nat := f.k * f.bits / 8 + if f.mx then f.k / 32 else 0

/-- The smallest pitch, in units of 16 bytes (R266). -/
def MmaFmt.minPitch (f : MmaFmt) : Nat := (f.rowBytes + 15) / 16

/-- Element `k` of a packed row. -/
def MmaFmt.raw (f : MmaFmt) (row k : Nat) : Nat := row / 2 ^ (f.bits * k) % 2 ^ f.bits

/-- Elem (R267): the exact values of one operand row. -/
def MmaFmt.elems (f : MmaFmt) (fm : Fmt) (bs : List Byte) : List FVal :=
  let row := leNat bs
  (List.range f.k).map fun k =>
    let v := fm.unpack (f.raw row k)
    if f.mx then
      let sc := bytesNum bs (f.k * f.bits / 8 + k / 32) 1
      if sc = 255 then .nan else v.scale ((sc : Int) - 127)
    else v

/-- The integers of one operand row. -/
def MmaFmt.ints (f : MmaFmt) (bs : List Byte) : List Int :=
  let row := leNat bs
  (List.range f.k).map fun k => signedOf f.bits (f.raw row k)

/-- One element of a k-step (R61, R267). -/
def mmaElem (f : MmaFmt) (c : Nat) (a b : List Byte) : Nat :=
  match f.fp with
  | some fm => kStep c ((f.elems fm a).zip (f.elems fm b)) 0x7F 0x7F
  | none => kStepInt c ((f.ints a).zip (f.ints b))

/-! ### Faults at issue (R274, R275) -/

/-- A fault of R275: DETAIL holds the code and the part. -/
def mxFault (c : FaultCode) (part code : Nat) (addr : DWord := 0) : FaultInfo :=
  { code := c, detail := part * 256 + code, addr := addr }

/-- The first fault of a list of checks in order. -/
def firstFault : List (Option FaultInfo) → Option FaultInfo
  | [] => none
  | some f :: _ => some f
  | none :: cs => firstFault cs

/-- A check. -/
def chk (bad : Bool) (f : FaultInfo) : Option FaultInfo := if bad then some f else none

/-- Steps 1 and 2 of R275. -/
def tileChecks (t : Team) (k : Nat) (ok : TileType → Bool) : List (Option FaultInfo) :=
  [chk (!t.hasTile k) (mxFault .mmaShape 5 1), chk (!ok (t.typeOf k)) (mxFault .mmaShape 5 2)]

/-- The scratchpad byte of an operand address: a window address with W = 00 or 01 (R268). -/
def State.operand (s : State) (core : Nat) (a : DWord) : Option (Nat × Nat) :=
  if bitsOf a.toNat 63 60 ≤ 5 && 4 ≤ bitsOf a.toNat 63 60 then
    match s.where_ core a 1 with
    | .ok (.spad c off) => some (c, off)
    | _ => none
  else none

/-- Step 8 of R275 on rows of a scratchpad operand. -/
def rowsBad (s : State) (ctx : Nat) (o : Nat × Nat) (a : DWord) (part pitch bytes : Nat) (rows : List Nat) : Option FaultInfo :=
  (rows.find? fun i => !s.spadOwned ctx o.1 (o.2 + i * pitch) bytes).map fun i =>
    mxFault .pageProt part 0 (a + BitVec.ofNat 64 (i * pitch))

/-- Records tile operations of one instruction and its outstanding entry, which waits for them. -/
def State.addTileOps (s : State) (op : Nat) (os : List TileOp) : State :=
  os.foldl (fun s o =>
    let (id, s) := s.fresh
    { s with tileOps := s.tileOps.put id o }.addNeed op id) s

/-! ### Passes (R270) -/

/-- The pass of a key that still takes members. -/
def State.openPass (s : State) (core b fmt pb : Nat) : Option (Nat × Pass) :=
  s.passes.find? fun (_, p) => p.core = core && p.b = b && p.fmt = fmt && p.pb = pb && !p.closed && s.ref < p.since + 8
    && p.members.length < 4

/-- Order of closing of the next pass to close. -/
def State.closeOrder (s : State) : Nat := s.passes.foldl (fun n (_, p) => max n (p.order + 1)) 0

/-- Closes a pass. -/
def State.closePass (s : State) (id : Nat) : State :=
  let n := s.closeOrder
  { s with passes := s.passes.upd id fun p => if p.closed then p else { p with closed := true, order := n } }

/-- Tile and beat of a beat-operation. -/
def TileOp.tileBeat (o : TileOp) : Nat × List Nat × Option Nat :=
  (o.team, o.tiles, match o.kind with | .mma _ _ _ _ _ beat => some beat | _ => none)

/-- A beat-operation enters the core's queue (R270). -/
def State.enterPass (s : State) (core b fmt pb op : Nat) (o : TileOp) : State :=
  let s := (s.passes.filter fun (_, p) => p.core = core && p.b = b && p.fmt = fmt && p.pb = pb && !p.closed
    && s.ref ≥ p.since + 8).foldl (fun s (id, _) => s.closePass id) s
  let fresh (s : State) : State :=
    let (id, s) := s.fresh
    { s with passes := s.passes.put id ⟨core, b, fmt, pb, [op], s.ref, false, 0, none⟩ }
  match s.openPass core b fmt pb with
  | none => fresh s
  | some (id, p) =>
    let same := p.members.any fun m => (s.tileOps.get? m).any fun (x : TileOp) => x.tileBeat = o.tileBeat
    if same then fresh (s.closePass id)
    else
      let s := { s with passes := s.passes.put id { p with members := p.members ++ [op] } }
      if 4 ≤ p.members.length + 1 then s.closePass id else s

/-- PASS_CLOSE (R270): at four members, or once 8 cycles have passed. -/
def execPassClose (pass : Nat) (s : State) : Host.Outcome State Fault Refusal :=
  match s.passes.get? pass with
  | some p => .next (if !p.closed && (4 ≤ p.members.length || p.since + 8 ≤ s.ref) then s.closePass pass else s)
  | none => .next s

/-- Arrays of a core in use: members of passes that started within the last 16 cycles (R270). -/
def State.arraysUsed (s : State) (core : Nat) : Nat :=
  s.passes.foldl (fun n (_, p) =>
    if p.core = core && (match p.started with | some c => s.ref < c + 16 | none => false) then n + p.members.length else n) 0

/-- PASS_START (R270): the closed pass that closed first, once enough arrays are free. -/
def execPassStart (pass : Nat) (s : State) : Host.Outcome State Fault Refusal :=
  match s.passes.get? pass with
  | none => .next s
  | some p =>
    let first := !s.passes.any fun (_, q) => q.core = p.core && q.closed && q.started.isNone && q.order < p.order
    if p.closed && p.started.isNone && first && s.arraysUsed p.core + p.members.length ≤ 4 then
      let old := s.passes.filter fun (_, q) =>
        !(q.core = p.core && (match q.started with | some c => c + 16 ≤ s.ref | none => false)
          && q.members.all fun m => (s.tileOps.get? m).isNone)
      .next { s with passes := Tbl.upd old pass fun p => { p with started := some s.ref } }
    else .next s

/-! ### The MATRIX instructions -/

/-- A tile operation of a group. -/
def mkTileOp (r : GRef) (g : Group) (op : Nat) (tiles : List Nat) (kind : TileOpKind) : TileOp :=
  { team := r.team, grp := r.grp, op := op, tiles := tiles, kind := kind, hdr := g.pc, slot := g.slot }

/-- The checks of an MMA (R275): a fault, or the scratchpad addresses of its operands. -/
def State.mmaCheck (s : State) (t : Team) (g : Group) (f : FmtBR) : Except FaultInfo (Nat × Nat) :=
  let a := g.s f.a.toNat
  let b := g.s f.b.toNat
  let fmt := f.mod.toNat % 16
  let m := mmaFmt fmt
  let pa := f.w2.imm.toNat % 256
  let pb := f.w2.imm.toNat / 256 % 256
  let beats := g.beats
  let oa := s.operand t.coreN a
  let ob := s.operand t.coreN b
  let addr (o : Option (Nat × Nat)) : Nat := match o with | some (c, off) => c * 2 ^ 21 + off | none => 0
  match firstFault (tileChecks t f.d.toNat (fun ty => ty = (if m.fp.isSome then .f32 else .i32)) ++
    [chk oa.isNone (mxFault .illAddr 0 0 a), chk ob.isNone (mxFault .illAddr 1 0 b),
     chk (a.toNat % 16 ≠ 0) (mxFault .align 0 0 a), chk (b.toNat % 16 ≠ 0) (mxFault .align 1 0 b),
     chk (pa < m.minPitch) (mxFault .mmaShape 0 3), chk (pb < m.minPitch) (mxFault .mmaShape 1 3),
     chk (6 ≤ fmt && fmt ≤ 8 && !s.mxcal) (mxFault .mmaShape 0 4),
     rowsBad s t.ctx (oa.getD (0, 0)) a 0 (16 * pa) m.rowBytes (beatRows beats),
     rowsBad s t.ctx (ob.getD (0, 0)) b 1 (16 * pb) m.rowBytes (if beats.isEmpty then [] else List.range 64)]) with
  | some e => .error e
  | none => .ok (addr oa, addr ob)

/-- MMA (R266 to R271). -/
def execMma (f : FmtBR) (s : State) : Host.Outcome State Fault Refusal :=
  s.issue f.len fun r t g =>
    let fs : Bool := f.w1.fs = 1
    let k := f.d.toNat
    let beats := g.beats
    match s.mmaCheck t g f with
    | .error e => .fault e
    | .ok (oa, ob) =>
      if g.flagFull fs || s.engineHeld r || 8 < s.windowUsed r.team k + beats.length then .stay s g
      else if beats.isEmpty then .done s g
      else
        let fmt := f.mod.toNat % 16
        let pb := f.w2.imm.toNat / 256 % 256
        let (op, s) := s.fresh
        let s := s.addOp op (mkOp r g fs .matrix)
        let s := beats.foldl (fun s beat =>
          let o := mkTileOp r g op [k] (.mma fmt oa ob (f.w2.imm.toNat % 256) pb beat)
          let (id, s) := s.fresh
          ({ s with tileOps := s.tileOps.put id o }.addNeed op id).enterPass t.coreN ob fmt pb id o) s
        .done s (g.raiseFlag fs)

/-- The type of MZERO and MLOAD. -/
def mxType (f : FmtBR) : TileType := if f.mod.getLsbD 0 then .i32 else .f32

/-- Sets the type of a tile at issue (R263). -/
def State.setType (s : State) (team k : Nat) (ty : TileType) : State :=
  s.updTeam team fun t => { t with tileTy := t.tileTy.set k ty, voc := t.voc.del k }

/-- The operation reads or writes memory (R271, R272). -/
def TileOpKind.memory : TileOpKind → Bool
  | .zero _ => false
  | _ => true

/-- A MATRIX or VOC instruction with one window entry on each tile: it enters, or holds its group. One that accesses memory follows the
group's outstanding acquires and scratchpad accesses (R109, R271). -/
def State.tileIssue (s : State) (r : GRef) (g : Group) (fs : Bool) (tiles : List Nat) (kind : TileOpKind) (after : State → State) : Res :=
  if g.flagFull fs || (kind.memory && s.engineHeld r) || tiles.any fun k => 8 ≤ s.windowUsed r.team k then .stay s g
  else
    let (op, s) := s.fresh
    let s := s.addOp op (mkOp r g fs .matrix)
    .done (after (s.addTileOps op [mkTileOp r g op tiles kind])) (g.raiseFlag fs)

/-- MZERO (R272). -/
def execMzero (f : FmtBR) (s : State) : Host.Outcome State Fault Refusal :=
  s.issue f.len fun r t g =>
    let k := f.d.toNat
    match firstFault [chk (!t.hasTile k) (mxFault .mmaShape 5 1)] with
    | some e => .fault e
    | none => s.tileIssue r g (f.w1.fs = 1) [k] (.zero g.beats) fun s => s.setType r.team k (mxType f)

/-- The checks of an MLOAD (R275): a fault, or what it does to its tile. -/
def State.mloadCheck (s : State) (t : Team) (g : Group) (f : FmtBR) : Except FaultInfo TileOpKind :=
  let a := g.s f.a.toNat
  let p := (g.s f.b.toNat).toNat
  let o := s.operand t.coreN a
  let beats := g.beats
  match firstFault
      [chk (!t.hasTile f.d.toNat) (mxFault .mmaShape 5 1), chk o.isNone (mxFault .illAddr 0 0 a),
       chk (a.toNat % 16 ≠ 0 || p % 16 ≠ 0) (mxFault .align 0 0 a), chk (p < 256 || 2 ^ 20 < p) (mxFault .mmaShape 0 3),
       rowsBad s t.ctx (o.getD (0, 0)) a 0 p 256 (beatRows beats)] with
  | some e => .error e
  | none => .ok (.load (match o with | some (c, off) => c * 2 ^ 21 + off | none => 0) p beats)

/-- MLOAD (R272). -/
def execMload (f : FmtBR) (s : State) : Host.Outcome State Fault Refusal :=
  s.issue f.len fun r t g =>
    match s.mloadCheck t g f with
    | .error e => .fault e
    | .ok kind => s.tileIssue r g (f.w1.fs = 1) [f.d.toNat] kind fun s => s.setType r.team f.d.toNat (mxType f)

/-- MSYNC (R273): waits for every earlier MATRIX and VOC instruction of the group. -/
def execMsync (f : FmtBR) (s : State) : Host.Outcome State Fault Refusal :=
  s.issue f.len fun r _ g =>
    let fs : Bool := f.w1.fs = 1
    if g.flagFull fs then .stay s g
    else
      let ids := (s.ops.filter fun (_, o) => o.owner = r && (match o.kind with | .matrix => true | _ => false)).map (·.1)
      let (op, s) := s.fresh
      .done (s.addOp op { mkOp r g fs .matrix with need := ids }) (g.raiseFlag fs)

/-- EPIBIND (R276): the read follows the group's outstanding acquires and scratchpad accesses (R109). -/
def execEpibind (f : FmtBR) (s : State) : Host.Outcome State Fault Refusal :=
  s.issue f.len fun r t g =>
    let a := g.s f.a.toNat
    if a.toNat % 128 ≠ 0 then .fault (mxFault .align 4 0 a)
    else if t.shape.mem < a.toNat + 128 then .fault (mxFault .pageProt 4 0 a)
    else if s.engineHeld r then .stay s g
    else
      let img := s.teamRead t a.toNat 128
      match tepBad img with
      | some (c, slot) => .fault { code := .epi, detail := c * 256 + slot }
      | none => .done (s.updTeam r.team fun t => { t with tep := some img }) g

/-! ### Draining (R278 to R281) -/

/-- The pieces of a row: 16 bytes each, and a last one of 2 bytes in an MX row. -/
def rowPieces (bytes : Nat) : List (Nat × Nat) :=
  (List.range ((bytes + 15) / 16)).map fun j => (16 * j, min 16 (bytes - 16 * j))

/-- A fault of R196 that step 9 of R275 finds: its DETAIL is that of R196, and names no part (DEDUCED, log entry 109). -/
def drainFault (c : FaultCode) (level : Nat) (a : DWord) : FaultInfo := { code := c, detail := accDetail c 0xFF level, addr := a }

/-- Step 9 of R275 over the rows of an address destination: where each piece goes, a fault, or missing pages. -/
def State.drainPieces (s : State) (t : Team) (a : DWord) (pitch bytes : Nat) (rows : List Nat) :
    Except AccErr (List (Bool × Nat)) :=
  let step (acc : Except AccErr (List (Bool × Nat) × List MissPage)) (on : Nat × Nat) :
      Except AccErr (List (Bool × Nat) × List MissPage) :=
    match acc with
    | .error e => .error e
    | .ok (us, miss) =>
      match s.checkUnit t on.2 { write := true, red := true } (a + BitVec.ofNat 64 on.1) with
      | .error (.fault c l x) => .error (.fault (drainFault c l x))
      | .error (.missing va) =>
        let p : MissPage := ⟨1, va / 2 ^ 16 * 2 ^ 16⟩
        .ok (us, if miss.contains p then miss else p :: miss)
      | .ok (.phys p _ _) => .ok ((false, p.pa) :: us, miss)
      | .ok (.spad x) => .ok ((true, x) :: us, miss)
      | .ok (.far _ _ _ _) => .error (.fault (drainFault .tier 0 a))
  match (rows.flatMap fun i => (rowPieces bytes).map fun (o, n) => (i * pitch + o, n)).foldl step (.ok ([], [])) with
  | .error e => .error e
  | .ok (us, []) => .ok us.reverse
  | .ok (_, miss) => .error (.missing miss.reverse)

/-- Drains of a team that hold entries of its queue (R280). -/
def State.drainQueue (s : State) (team : Nat) : List (Nat × Drain) := s.drains.filter fun (_, d) => d.team = team

/-- The pointer offsets that an MDRAIN takes from s[C] (R278). -/
def drainDeltas (g : Group) (f : FmtBR) : List Nat :=
  (List.range 4).map fun n => 4 * bitsOf (g.s f.c.toNat).toNat (16 * n + 15) (16 * n)

/-- The checks of an MDRAIN in either form (R275): a fault or missing pages, or where its 16-byte pieces go. DESIGN CHOICE (log entry 86):
with no active beat no row of a pointer is read or written, and its pitch is not checked. DESIGN CHOICE (log entry 110): of several parts that
fail one step, operand A is named before B, and the MDRAIN destination before a TEP pointer; at step 8 only a pointer can fail. -/
def State.drainCheck (s : State) (t : Team) (g : Group) (f : FmtBR) (ring : Option Nat) : Except AccErr (List (Bool × Nat)) :=
  let k := f.d.toNat
  let a := g.s f.a.toNat
  let p := (g.s f.b.toNat).toNat
  let ty := t.typeOf k
  let img := t.tep.getD []
  let prog := (match t.tep with | some i => tepProgram i | none => none).getD []
  let fm := outFmt prog ty
  let rows := beatRows g.beats
  let touches := rows.flatMap (tepTouches img (drainDeltas g f) prog ty)
  let addrForm := ring.isNone
  let whereBad : Bool := match s.where_ t.coreN a 1 with | .error .illAddr => true | _ => false
  let ringBad : Option FaultInfo := match ring with
    | none => none
    | some id => match t.rings.get? id with
      | none => some (mxFault .ring 2 id)
      | some x => chk (x.bytes < 96 * fm.pitch) (mxFault .mmaShape 2 5)
  let pre := firstFault (tileChecks t k (· ≠ .state) ++
    [chk (addrForm && whereBad) (mxFault .illAddr 2 0 a),
     chk (addrForm && (a.toNat % 16 ≠ 0 || p % 16 ≠ 0)) (mxFault .align 2 0 a),
     chk (addrForm && p < fm.pitch) (mxFault .mmaShape 2 3),
     chk (touches.any (·.1)) (mxFault .mmaShape 3 3), ringBad,
     (touches.find? fun (_, o, n) => t.shape.mem < o + n).map fun (_, o, _) => mxFault .pageProt 3 0 (BitVec.ofNat 64 o)])
  let post : Option FaultInfo := match t.tep with
    | none => some { code := .epi, detail := 9 * 256 + 0xFF }
    | some _ => (tepTypeBad prog ty).map fun (c, slot) => { code := .epi, detail := c * 256 + slot }
  match pre with
  | some e => .error (.fault e)
  | none =>
    match (if addrForm then s.drainPieces t a p fm.bytes rows else .ok []), post with
    | .error (.fault e), _ => .error (.fault e)
    | _, some e => .error (.fault e)
    | .error (.missing ps), none => .error (.missing ps)
    | .ok chunks, none => .ok chunks

/-- MDRAIN in either form (R275, R278 to R280). -/
def drainIssue (f : FmtBR) (s : State) (ring : Option Nat) : Host.Outcome State Fault Refusal :=
  s.issue f.len fun r t g =>
    let fs : Bool := f.w1.fs = 1
    let k := f.d.toNat
    match s.drainCheck t g f ring with
    | .error e => e.res
    | .ok chunks =>
      let claim : Option (Option (Nat × Nat × Ring)) := match ring with
        | none => some none
        | some id => ((t.rings.get? id).bind fun x => x.claim .ce).map fun (slot, y) => some (id, slot, y)
      if g.flagFull fs || s.engineHeld r || 8 ≤ s.windowUsed r.team k then .stay s g
      else if 4 ≤ (s.drainQueue r.team).length then .stay s (g.block s.ref false)
      else
        match claim with
        | none => .stay s (g.block s.ref false)
        | some cl =>
          let (op, s) := s.fresh
          let s := s.addOp op (mkOp r g fs .matrix)
          let (id, s) := s.fresh
          let d : Drain :=
            { team := r.team, grp := r.grp, tile := k, ty := t.typeOf k, image := t.tep.getD [], deltas := drainDeltas g f, cvm := g.cvm,
              seed := g.srseed.extractLsb' 32 32, step0 := g.srseed.extractLsb' 0 32, beats := g.beats,
              dest := (match cl with | some (n, slot, _) => .ring n slot | none => .mem), chunks := chunks,
              at_ := g.s f.a.toNat, pitch := (g.s f.b.toNat).toNat, hdr := g.pc, slot := g.slot, op := op,
              started := false, bank := 0, out := none }
          let s := { s with drains := s.drains.put id d }.addTileOps op [mkTileOp r g op [k] (.drain id)]
          let s := match cl with | some (n, _, y) => s.updRing r.team n (fun _ => y) | none => s
          .done s ((g.srAdvance 1).raiseFlag fs)

/-- MDRAIN, address form (R278). -/
def execMdrain (f : FmtBR) (s : State) : Host.Outcome State Fault Refusal := drainIssue f s none
/-- MDRAIN, ring form (R278). -/
def execMdrainRing (f : FmtBR) (s : State) : Host.Outcome State Fault Refusal := drainIssue f s (some (f.w2.imm.toNat % 16))

/-- MDRAIN_SWAP_ELIGIBLE (R280): the group has been held at its MDRAIN for 256 cycles. -/
def execMdrainSwapEligible (r : GRef) (s : State) : Host.Outcome State Fault Refusal :=
  let held (g : Group) : Bool := match g.instr with | some (.mdrain _) | some (.mdrainRing _) => g.waiting | _ => false
  if (s.group? r).any (fun g => held g && g.waitFrom + 256 ≤ s.ref) then
    .next (s.updGroup r fun g => { g with eligible := true })
  else .next s

/-- Earlier operations on a tile have all taken effect (R264). -/
def State.tileFirst (s : State) (id : Nat) (o : TileOp) : Bool :=
  !s.tileOps.any fun (k, x) => k < id && x.team = o.team && x.tiles.any o.tiles.contains

/-- The tile operation of a drain. -/
def State.drainOp (s : State) (d : Nat) : Option (Nat × TileOp) := s.tileOps.find? fun (_, o) => o.kind = .drain d

/-- The head of a team's drain queue may start: no drain of the team is running, and the tile is ready. -/
def State.drainReady (s : State) (team : Nat) : Option (Nat × Drain) :=
  match s.drainQueue team with
  | (id, d) :: _ =>
    if d.started then none
    else match s.drainOp id with
      | some (k, o) => if s.tileFirst k o then some (id, d) else none
      | none => none
  | [] => none

/-- The team of a core whose drain the TEP starts next: round-robin by team slot among those with a drain that may start (R280). DESIGN
CHOICE (log entry 84): on a core that has served none the search begins at team slot 1. -/
def State.tepNext (s : State) (core : Nat) : Option Nat :=
  let last := (s.tepLast.get? core).getD 0
  let key (t : Team) : Nat := (t.slot + 192 - (last + 1) % 192) % 192
  (s.teams.foldl (fun (best : Option (Nat × Nat)) (k, t) =>
    if t.core = some core && (s.drainReady k).isSome then
      match best with
      | some (_, n) => if key t < n then some (k, key t) else best
      | none => some (k, key t)
    else best) none).map (·.1)

/-- Splits a row's bytes into its pieces. -/
def splitRow : List Byte → List (List Byte)
  | bs => (List.range ((bs.length + 15) / 16)).map fun j => (bs.drop (16 * j)).take 16

/-- What a drain writes (R284): scratchpad writes and memory writes, each in order. DESIGN CHOICE (log entry 85): a row that is stored to the
drain's destination before its conversion is cut to the row bytes of the final format. -/
def drainWrites (t : Team) (d : Drain) (slotOff : Nat) (fm : RowFmt) (rows : List (Nat × List (Nat × Nat × List Byte))) :
    List WriteUnit × List WriteUnit :=
  let team := t.coreN * 2 ^ 21 + t.base
  let pieces := (rowPieces fm.bytes).length
  let all : List (Bool × WriteUnit) := ((List.range rows.length).zip rows).flatMap fun (n, _, outs) =>
    outs.flatMap fun (target, x, bs) =>
      if target = 4 then [(true, ⟨team + x, bs, none⟩)]
      else match d.dest with
        | .ring _ _ => [(true, ⟨team + slotOff + x * fm.pitch, bs.take fm.bytes, none⟩)]
        | .mem => ((List.range pieces).zip (splitRow (bs.take fm.bytes))).filterMap fun (j, piece) =>
            (d.chunks[n * pieces + j]?).map fun (sp, a) => (sp, ⟨a, piece, none⟩)
  ((all.filter (·.1)).map (·.2), (all.filter (!·.1)).map (·.2))

/-- DRAIN_START (R280, R284): the TEP takes the next team's head, binds the activation bank and reads the tile out. -/
def execDrainStart (team : Nat) (s : State) : Host.Outcome State Fault Refusal :=
  match s.team? team with
  | none => .next s
  | some t =>
    let running := s.drains.any fun (_, d) => d.started && (match s.team? d.team with | some x => x.core = t.core | none => false)
    if running || t.core.isNone || s.tepNext t.coreN ≠ some team then .next s
    else
      match s.drainReady team with
      | none => .next s
      | some (id, d) =>
        let ty := d.ty
        let prog := (tepProgram d.image).getD []
        let fm := outFmt prog ty
        let c : TepCtx := ⟨d.image, d.deltas, d.cvm, d.seed, d.step0, s.teamRead t, t.bank t.cur⟩
        let rows := (beatRows d.beats).map fun i => (i, c.run prog ty i (s.tileRow t d.tile i))
        let slotOff := match d.dest with
          | .ring n slot => (match t.rings.get? n with | some x => x.offset + slot * x.bytes | none => 0)
          | .mem => 0
        .next { s with drains := s.drains.put id { d with started := true, bank := t.cur, out := some (drainWrites t d slotOff fm rows) },
                       tileOps := s.tileOps.filter fun (_, o) => o.kind ≠ .drain id,
                       tepLast := s.tepLast.put t.coreN t.slot }

/-- The address of the piece of a drain's destination that goes to a physical address. -/
def Drain.vaOf (d : Drain) (pa : Nat) : DWord :=
  let n := (rowPieces (outFmt ((tepProgram d.image).getD []) d.ty).bytes).length
  let i := d.chunks.findIdx fun x => x = (false, pa)
  d.at_ + BitVec.ofNat 64 (((beatRows d.beats)[i / n]?).getD 0 * d.pitch + 16 * (i % n))

/-- A drain's writes are performed, its ring slot is committed and its entry frees (R280). A write that its home refuses ends the context (R196,
R386, R411, R423). -/
def State.drainEnd (s : State) (team id : Nat) (d : Drain) (sp ph : List WriteUnit) : State :=
  let world := ((s.team? team).map s.worldOf).getD 0
  let bad (w : WriteUnit) : Option FaultCode := s.lateRefusal world w.addr true
  let s' := sp.foldl (fun s w => s.spadWriteN w.addr w.data) s
  let s' := (ph.filter fun w => (bad w).isNone).foldl (fun s w => s.performWrite none false w.addr w.data) s'
  let s' := match d.dest with
    | .ring n slot => s'.updTeam team fun t => t.fill n slot .l
    | .mem => s'
  let s' := { s' with drains := s'.drains.del id }
  match ph.findSome? fun w => (bad w).map fun c => (c, w) with
  | some (c, w) => s'.fatal ⟨team, d.grp⟩
      { code := c, detail := accDetail c 0xFF 0, slot := some d.slot, hdr := some d.hdr, addr := d.vaOf w.addr }
  | none => s'

/-- DRAIN_COMPLETE (R280): the drain that runs ends, unless a write of it is held at a frame that is MOVING (R394). -/
def execDrainComplete (team : Nat) (s : State) : Host.Outcome State Fault Refusal :=
  match (s.drainQueue team).find? fun (_, d) => d.started with
  | none => .next s
  | some (id, d) =>
    match d.out with
    | none => .next s
    | some (sp, ph) =>
      let (held, s) := s.holdWrites id (ph.map (·.addr))
      .next (if held then s else s.drainEnd team id d sp ph)

/-! ### Effects on tiles -/

/-- A matrix operation takes effect on its tile (R264, R267, R272). -/
def State.matrixEffect (s : State) (t : Team) (o : TileOp) : State :=
  let k := o.tiles.headD 0
  match o.kind with
  | .mma fmt a b pa pb beat =>
    let m := mmaFmt fmt
    let rowB := (List.range 64).map fun j => s.spad.readN (b + 16 * pb * j) m.rowBytes
    (beatRows [beat]).foldl (fun s i =>
      let ra := s.spad.readN (a + 16 * pa * i) m.rowBytes
      s.setTileRow t k i ((rowB.zip (s.tileRow t k i)).map fun (rb, c) => mmaElem m c ra rb)) s
  | .zero beats => (beatRows beats).foldl (fun s i => s.setTileRow t k i (List.replicate 64 0)) s
  | .load src pitch beats =>
    (beatRows beats).foldl (fun s i => { s with tmem := s.tmem.writeN (t.tileBase k + 256 * i) (s.spad.readN (src + i * pitch) 256) }) s
  | _ => s

end Sys2Proof.Machine
end

