-- ==== Sys2Proof/Machine/Vocab.lean ====
section
/-! DEFINITION. The vocabulary projection engine (11_vocabulary.md R321 to R343): state records, the VOC instructions, and the
effects of tile operations in their turn. -/
namespace Sys2Proof.Machine
open Sys2Proof

/-! ### State records (R321, R322) -/

/-- A candidate: the bits of its logit, and its id. -/
structure Cand where
  z : Nat
  id : Nat
  deriving DecidableEq, Repr

/-- Minus infinity as FP32. -/
def negInf : Nat := 0xFF800000
/-- Plus infinity as FP32. -/
def posInf : Nat := 0x7F800000

/-- A slot that holds no candidate (R321). -/
def Cand.empty : Cand := ⟨negInf, 0xFFFFFFFF⟩

/-- The 8 bytes of a candidate. -/
def Cand.bytes (c : Cand) : List Byte := leBytes 4 c.z ++ leBytes 4 c.id

/-- A candidate from bytes at an offset. -/
def Cand.parse (b : List Byte) (off : Nat) : Cand := ⟨bytesNum b off 4, bytesNum b (off + 4) 4⟩

/-- Before (R322): by falling logit, then by rising id. -/
def Cand.before (x y : Cand) : Bool :=
  let a := f32v x.z
  let b := f32v y.z
  b.lt a || (!a.lt b && x.id < y.id)

/-- Inserts a candidate into a list sorted under Before. -/
def candInsert (x : Cand) : List Cand → List Cand
  | [] => [x]
  | y :: ys => if x.before y then x :: y :: ys else y :: candInsert x ys

/-- The first `k` of a list and more candidates under Before (R322). -/
def candMerge (k : Nat) (xs more : List Cand) : List Cand := (more.foldl (fun l c => candInsert c l) xs).take k

/-- A state record (R321), its candidates in one list. -/
structure VocRec where
  m : Nat
  s : Nat
  rt : Nat
  cnt : Nat
  vbase : Nat
  vnext : Nat
  k : Nat
  shard : Nat
  shlast : Nat
  spill : Nat
  spillcap : Nat
  nlab : Nat
  lfound : Nat
  valid : Nat
  ntok : Nat
  lid : List Nat
  lz : List Nat
  list : List Cand
  deriving DecidableEq, Repr

/-- A record from its 512 bytes and its spill positions. -/
def VocRec.parse (b spill : List Byte) : VocRec :=
  let h := bytesNum b 0x1A 2
  { m := bytesNum b 0 4, s := bytesNum b 4 4, rt := bytesNum b 8 4, cnt := bytesNum b 0xC 4, vbase := bytesNum b 0x10 4,
    vnext := bytesNum b 0x14 4, k := bytesNum b 0x18 2, shard := bytesNum b 0x1C 2, shlast := bytesNum b 0x1E 2,
    spill := bytesNum b 0x20 4, spillcap := bytesNum b 0x24 4, nlab := bytesNum b 0x28 1, lfound := bytesNum b 0x29 1,
    valid := bytesNum b 0x2A 1, ntok := bytesNum b 0x2B 1,
    lid := (List.range 4).map fun j => bytesNum b (0x30 + 4 * j) 4, lz := (List.range 4).map fun j => bytesNum b (0x40 + 4 * j) 4,
    list := (List.range h).map fun i => if i < 32 then Cand.parse b (0x80 + 8 * i) else Cand.parse spill (8 * (i - 32)) }

/-- The 512 bytes of a record (R321). -/
def VocRec.bytes (x : VocRec) : List Byte :=
  let slots := (x.list.take 32) ++ List.replicate (32 - x.list.length) Cand.empty
  leBytes 4 x.m ++ leBytes 4 x.s ++ leBytes 4 x.rt ++ leBytes 4 x.cnt ++ leBytes 4 x.vbase ++ leBytes 4 x.vnext
    ++ leBytes 2 x.k ++ leBytes 2 x.list.length ++ leBytes 2 x.shard ++ leBytes 2 x.shlast ++ leBytes 4 x.spill
    ++ leBytes 4 x.spillcap ++ leBytes 1 x.nlab ++ leBytes 1 x.lfound ++ leBytes 1 x.valid ++ leBytes 1 x.ntok
    ++ leBytes 4 0 ++ x.lid.flatMap (leBytes 4) ++ x.lz.flatMap (leBytes 4) ++ leBytes 48 0
    ++ slots.flatMap Cand.bytes ++ leBytes 128 0

/-- The candidates beyond the first 32, as bytes. -/
def VocRec.spillBytes (x : VocRec) : List Byte := (x.list.drop 32).flatMap Cand.bytes

/-- The record says that it is valid. -/
def VocRec.isValid (x : VocRec) : Bool := x.valid % 2 = 1

/-- Bytes of a record's image (R335). -/
def imageBytes (k : Nat) : Nat := (512 + 8 * (k - 32) + 15) / 16 * 16

/-- The image of a record (R335). -/
def VocRec.image (x : VocRec) : List Byte :=
  let spill := x.list.drop 32 ++ List.replicate ((x.k - 32) - (x.list.length - 32)) Cand.empty
  let b := x.bytes ++ spill.flatMap Cand.bytes
  b ++ List.replicate (imageBytes x.k - b.length) 0

/-- Record `r` of a state tile, with its spill positions from team memory. -/
def State.vocRec (s : State) (t : Team) (tile r : Nat) : VocRec :=
  let b := s.tmem.readN (t.tileBase tile + 512 * r) 512
  let h := bytesNum b 0x1A 2
  VocRec.parse b (s.teamRead t (bytesNum b 0x20 4) (8 * (h - 32)))

/-- Writes team memory. -/
def State.teamWrite (s : State) (t : Team) (off : Nat) (bs : List Byte) : State :=
  s.spadWriteN (t.coreN * 2 ^ 21 + t.base + off) bs

/-- Writes record `r` of a state tile, and its spill positions in team memory. -/
def State.putVocRec (s : State) (t : Team) (tile r : Nat) (x : VocRec) : State :=
  let s := { s with tmem := s.tmem.writeN (t.tileBase tile + 512 * r) x.bytes }
  if x.list.length ≤ 32 then s else s.teamWrite t x.spill x.spillBytes

/-- Numbers of the valid records of a tile. -/
def State.vocValid (s : State) (t : Team) (tile : Nat) : List Nat :=
  (List.range 48).filter fun r => (s.vocRec t tile r).isValid

/-- The issue state that a restore rebuilds from record 0 (R323). -/
def State.vocRebuild (s : State) (t : Team) (tile : Nat) : VocIssue :=
  let x := s.vocRec t tile 0
  ⟨x.ntok, x.k, x.nlab, x.spillcap, min x.k x.cnt⟩

/-! ### Arithmetic (R330, R331, R341) -/

/-- A row of H or W as values (R325, R38). -/
def vocRow (fmt : Nat) (bs : List Byte) : List FVal :=
  if fmt = 0 then (List.range (bs.length / 2)).map fun k => Fmt.bf16.unpack (bytesNum bs (2 * k) 2)
  else
    let f := if fmt = 1 then Fmt.e4m3 else Fmt.e5m2
    bs.map fun x => f.unpack x.toNat

/-- The k-steps of a row of `n` chunks of `k` elements, ascending. -/
def vocDot (k : Nat) : Nat → Nat → List FVal → List FVal → Nat
  | 0, acc, _, _ => acc
  | n + 1, acc, h, w => vocDot k n (kStep acc ((h.take k).zip (w.take k)) 0x7F 0x7F) (h.drop k) (w.drop k)

/-- Logit (R330). -/
def logit (fmt d : Nat) (h w : List FVal) (bias : Option Nat) (rt : Nat) : Nat :=
  let k := if fmt = 0 then 32 else 64
  let acc := vocDot k (d / k) 0 h w
  let acc := match bias with | some b => f32add acc b | none => acc
  f32mul acc rt

/-- CR(exp2, Round(x - y, FP32, RNE), FP32). -/
def exp2Diff (x y : Nat) : Nat := crFun 3 .fp32 0 (f32r (sumExact false [f32v x, (f32v y).neg]))

/-- The exact quotient of two values, with a sticky bit below what FP32 can round. -/
def FVal.div (a b : FVal) : FVal :=
  let neg := a.isNeg != b.isNeg
  match a, b with
  | .nan, _ => .nan
  | _, .nan => .nan
  | .inf _, .inf _ => .nan
  | .inf _, .fin _ _ _ => .inf neg
  | .fin _ _ _, .inf _ => .fin neg 0 0
  | .fin _ m e, .fin _ n f =>
    if n = 0 then (if m = 0 then .nan else .inf neg)
    else
      let k := bitLen n + 80
      let q := m * 2 ^ k / n
      .fin neg (2 * q + (if m * 2 ^ k % n = 0 then 0 else 1)) (e - f - (k : Int) - 1)

/-- The operands of a chunk: rows of H and W by number, and bias entries. -/
structure Chunk where
  fmt : Nat
  d : Nat
  nv : Nat
  h : Nat → List FVal
  w : List (List FVal)
  bias : Option (List Nat)

/-- Reads the operands of a chunk from the scratchpads (R325, R342). -/
def State.chunk (s : State) (fmt h w : Nat) (bias : Option Nat) (d nv : Nat) : Chunk :=
  let rb := d * (if fmt = 0 then 2 else 1)
  { fmt := fmt, d := d, nv := nv, h := fun t => vocRow fmt (s.spad.readN (h + t * rb) rb),
    w := (List.range nv).map fun v => vocRow fmt (s.spad.readN (w + v * rb) rb),
    bias := bias.map fun b => (List.range nv).map fun v => s.spad.num (b + 4 * v) 4 }

/-- The logits of token `t` over a chunk. -/
def Chunk.logits (c : Chunk) (t rt : Nat) : List Nat :=
  let h := c.h t
  ((List.range c.nv).zip c.w).map fun (v, w) => logit c.fmt c.d h w (c.bias.map fun b => b[v]?.getD 0) rt

/-- A fault found while a VOC operation runs (R332). -/
structure VocErr where
  code : FaultCode
  detail : Nat
  expect : Nat := 0
  image : Nat := 0
  id : Nat := 0
  bits : Nat := 0

/-- A logit that R331 refuses: NaN, or plus infinity. -/
def logitBad (z : Nat) : Option Nat := if f32v z = .nan then some 1 else if z = posInf then some 2 else none

/-- The first logit that is refused, with its id (R332). -/
def firstBadLogit (first : Nat) : List Nat → Option VocErr
  | [] => none
  | z :: zs =>
    match logitBad z with
    | some d => some { code := .vocNan, detail := d, id := first, bits := z }
    | none => firstBadLogit (first + 1) zs

/-- VOCF on one record (R331). -/
def VocRec.fold (x : VocRec) (c : Chunk) (r : Nat) : Except VocErr VocRec :=
  if x.shlast ≠ x.shard then .error { code := .vocOrder, detail := 4 }
  else if 0xFFFFFFFF < x.vnext + c.nv then .error { code := .vocOrder, detail := 5 }
  else
    let z := c.logits r x.rt
    match firstBadLogit x.vnext z with
    | some e => .error e
    | none =>
      let labs := (List.range 4).map fun j =>
        let id := x.lid[j]?.getD 0
        if j < x.nlab && x.vnext ≤ id && id < x.vnext + c.nv then z[id - x.vnext]? else none
      let x := { x with
        lz := (x.lz.zip labs).map fun (old, l) => l.getD old,
        lfound := x.lfound ||| (((List.range 4).zip labs).foldl (fun n (j, l) => if l.isSome then n + 2 ^ j else n) 0) }
      let cs := ((List.range c.nv).zip z).filter fun (_, z) => z ≠ negInf
      let done (x : VocRec) : VocRec := { x with vnext := x.vnext + c.nv, cnt := (x.cnt + c.nv) % 2 ^ 32 }
      match cs with
      | [] => .ok (done x)
      | (_, z0) :: rest =>
        let cm := rest.foldl (fun m (_, z) => Fmt.fp32.max m z) z0
        let mn := Fmt.fp32.max x.m cm
        let a := exp2Diff x.m mn
        let e := (List.range 64).map fun v => match z[v]? with
          | some zv => if zv = negInf then treeId 0 else exp2Diff zv mn
          | none => treeId 0
        let sum := treeSum (treeOp 0) 6 e
        .ok (done { x with s := f32fma x.s a sum, m := mn,
                           list := candMerge x.k x.list (cs.map fun (v, z) => ⟨z, x.vnext + v⟩) })

/-- A check of R337 on an image against its record: the detail code of the first that fails. -/
def VocRec.imageBad (x : VocRec) (b : List Byte) (i : VocRec) : Option Nat :=
  let zero (off n : Nat) : Bool := bytesNum b off n = 0
  let n := i.list.length
  let form : Bool := i.valid = 1 && zero 0x2C 4 && i.lfound < 16 && zero 0x50 48 && zero 0x180 128 && i.shard ≤ i.shlast
    && n ≤ i.k && ((List.range (x.k - 32)).all fun p => p + 32 < n || Cand.parse b (512 + 8 * p) = Cand.empty)
    && (b.drop (512 + 8 * (x.k - 32))).all (· = 0)
  if !form then some 1
  else if i.ntok ≠ x.ntok || i.k ≠ x.k || i.nlab ≠ x.nlab || i.rt ≠ x.rt || i.lid.take x.nlab ≠ x.lid.take x.nlab then some 2
  else if i.shard ≠ (x.shlast + 1) % 2 ^ 16 then some 3
  else none

/-- VOCM on one record (R338). -/
def VocRec.merge (x i : VocRec) : VocRec :=
  let y : VocRec :=
    if x.m = negInf && i.m = negInf then { x with s := 0 }
    else
      let mn := Fmt.fp32.max x.m i.m
      let t1 := f32mul x.s (exp2Diff x.m mn)
      { x with s := f32fma i.s (exp2Diff i.m mn) t1, m := mn }
  let take (j : Nat) : Bool := j < x.nlab && !bitAt x.lfound j && bitAt i.lfound j
  { y with
    list := candMerge x.k x.list i.list,
    lz := (List.range 4).map fun j => ((if take j then i.lz else x.lz)[j]?).getD 0,
    lfound := (List.range 4).foldl (fun n j => if take j then n ||| 2 ^ j else n) x.lfound,
    shlast := i.shlast, cnt := (x.cnt + i.cnt) % 2 ^ 32 }

/-- The gradients of one record (R341). -/
def VocRec.grads (x : VocRec) (c : Chunk) (r vid0 dl : Nat) : Except VocErr (List Nat) :=
  if x.m = negInf then .error { code := .vocNan, detail := 3 }
  else
    let step (acc : Except VocErr (List Nat)) (vz : Nat × Nat) : Except VocErr (List Nat) :=
      match acc with
      | .error e => .error e
      | .ok gs =>
        let (v, z) := vz
        match logitBad z with
        | some d => .error { code := .vocNan, detail := d, id := vid0 + v, bits := z }
        | none =>
          let p := f32r ((f32v (exp2Diff z x.m)).div (f32v x.s))
          let y : FVal := if 1 ≤ x.nlab && x.lid.head? = some (vid0 + v) then .fin true 1 0 else .fin false 0 0
          let g := f32r ((sumExact false [f32v p, y]).mul (f32v dl))
          if f32v g = .nan then .error { code := .vocNan, detail := 4, id := vid0 + v, bits := g } else .ok (g :: gs)
    match ((List.range c.nv).zip (c.logits r x.rt)).foldl step (.ok []) with
    | .error e => .error e
    | .ok gs => .ok gs.reverse

/-! ### Checks at issue (R326) -/

/-- Records a VOC operation on its tiles. -/
def State.vocIssue (s : State) (r : GRef) (g : Group) (f : FmtBR) (tiles : List Nat) (kind : TileOpKind) (after : State → State) : Res :=
  s.tileIssue r g (f.w1.fs = 1) tiles kind after

/-- Steps 1 and 2 for the tile D names. -/
def stateTile (t : Team) (k : Nat) : List (Option FaultInfo) := tileChecks t k (· = .state)

/-- Step 9 on a team-memory range of a part. -/
def teamRange (t : Team) (part off n : Nat) : Option FaultInfo :=
  chk (t.shape.mem < off + n) (mxFault .pageProt part 0 (BitVec.ofNat 64 off))

/-- Step 5. -/
def alignTo (n part : Nat) (a : Nat) : Option FaultInfo := chk (a % n ≠ 0) (mxFault .align part 0 (BitVec.ofNat 64 a))

/-- Step 4 for an operand in the scratchpad. -/
def operandBad (o : Option (Nat × Nat)) (part : Nat) (a : DWord) : Option FaultInfo := chk o.isNone (mxFault .illAddr part 0 a)

/-- Step 9 for rows of an operand. -/
def State.rowsBadOf (s : State) (ctx : Nat) (o : Option (Nat × Nat)) (a : DWord) (part bytes n : Nat) : Option FaultInfo :=
  rowsBad s ctx (o.getD (0, 0)) a part bytes bytes (List.range n)

/-- The scratchpad address of an operand. -/
def spadAddr (o : Option (Nat × Nat)) : Nat := match o with | some (c, off) => c * 2 ^ 21 + off | none => 0

/-- Sets the issue state of a tile. -/
def State.setVoc (s : State) (team k : Nat) (v : VocIssue) : State := s.updTeam team fun t => { t with voc := t.voc.put k v }

/-- The issue state of a tile (R323). -/
def Team.vocOf (t : Team) (k : Nat) : VocIssue := (t.voc.get? k).getD ⟨0, 0, 0, 0, 0⟩

/-- A setup block whose fields are in range (R327). -/
def setupOk (b : List Byte) : Bool :=
  (match f32v (bytesNum b 0 4) with | .fin false m _ => m ≠ 0 | _ => false)
  && 1 ≤ bytesNum b 4 2 && bytesNum b 4 2 ≤ 256 && bytesNum b 8 4 ≤ 0xFFFFFFFE && 1 ≤ bytesNum b 0xC 1 && bytesNum b 0xC 1 ≤ 48
  && bytesNum b 0xD 1 ≤ 4 && bytesNum b 0xE 2 = 0 && bytesNum b 0x14 4 ≤ 224 && bytesNum b 0x18 8 = 0

/-- The checks of a VOCI (R326, R327): a fault, or the setup block with its targets. -/
def vociCheck (s : State) (t : Team) (g : Group) (f : FmtBR) : Except FaultInfo (List Byte) :=
  let a := (g.s f.a.toNat).toNat
  let b := s.teamRead t a 32
  let ntok := bytesNum b 0xC 1
  let cap := bytesNum b 0x14 4
  let base := bytesNum b 0x10 4
  match firstFault [chk (!t.hasTile f.d.toNat) (mxFault .mmaShape 5 1), alignTo 16 3 a, teamRange t 3 a 32, alignTo 16 4 base,
      chk (!setupOk b) (mxFault .mmaShape 3 7), teamRange t 3 a (32 + 16 * ntok),
      if cap = 0 then none else teamRange t 4 base (8 * cap * ntok)] with
  | some e => .error e
  | none => .ok (s.teamRead t a (32 + 16 * ntok))

/-- VOCI (R327, R328). Its block is read after the group's outstanding acquires and scratchpad accesses (R109, R326). -/
def execVoci (f : FmtBR) (s : State) : Host.Outcome State Fault Refusal :=
  s.issue f.len fun r t g =>
    let k := f.d.toNat
    if s.engineHeld r then .stay s g
    else match vociCheck s t g f with
    | .error e => .fault e
    | .ok b =>
      s.vocIssue r g f [k] (.voci b) fun s =>
        (s.setType r.team k .state).setVoc r.team k ⟨bytesNum b 0xC 1, bytesNum b 4 2, bytesNum b 0xD 1, bytesNum b 0x14 4, 0⟩

/-- VOCI.SPILL (R329). -/
def execVociSpill (f : FmtBR) (s : State) : Host.Outcome State Fault Refusal :=
  s.issue f.len fun r t g =>
    let k := f.d.toNat
    let base := (g.s f.a.toNat).toNat
    let cap := (g.s f.b.toNat).toNat
    let v := t.vocOf k
    match firstFault (stateTile t k ++ [alignTo 16 4 base, chk (224 < cap || 32 + cap < v.t) (mxFault .mmaShape 4 8),
        if cap = 0 then none else teamRange t 4 base (8 * cap * v.ntok)]) with
    | some e => .fault e
    | none => s.vocIssue r g f [k] (.vociSpill base cap) fun s => s.setVoc r.team k { v with cap := cap }

/-- HEAP_SPILL's check (R333): the candidates that may be held, or the trap. -/
def heapNeed (v : VocIssue) (add k sub : Nat) : Except FaultInfo Nat :=
  let need := min v.k (v.t + add)
  if 32 + v.cap < need then .error { code := .heapSpill, detail := need * 65536 + sub * 256 + k } else .ok need

/-- d and nv of VOCF and VOCB (R324). -/
def FmtBR.vocD (f : FmtBR) : Nat := 32 * (f.w2.imm.toNat % 256 + 1)
/-- nv of VOCF and VOCB (R324). -/
def FmtBR.vocNv (f : FmtBR) : Nat := f.w2.imm.toNat / 256 % 64 + 1

/-- The checks of a VOCF (R326): a fault, or what it does. -/
def vocfCheck (s : State) (t : Team) (g : Group) (f : FmtBR) : Except FaultInfo TileOpKind :=
  let k := f.d.toNat
  let fmt := f.mod.toNat % 4
  let d := f.vocD
  let nv := f.vocNv
  let a := g.s f.a.toNat
  let b := g.s f.b.toNat
  let c := g.s f.c.toNat
  let biased : Bool := f.c ≠ 63
  let oa := s.operand t.coreN a
  let ob := s.operand t.coreN b
  let oc := s.operand t.coreN c
  let rb := d * (if fmt = 0 then 2 else 1)
  match firstFault (stateTile t k ++
      [operandBad oa 0 a, operandBad ob 1 b, if biased then operandBad oc 2 c else none,
       alignTo 16 0 a.toNat, alignTo 16 1 b.toNat, if biased then alignTo 16 2 c.toNat else none,
       chk (fmt ≠ 0 && d % 64 ≠ 0) (mxFault .mmaShape 0 3),
       s.rowsBadOf t.ctx oa a 0 rb (t.vocOf k).ntok, s.rowsBadOf t.ctx ob b 1 rb nv,
       if biased then s.rowsBadOf t.ctx oc c 2 (4 * nv) 1 else none]) with
  | some e => .error e
  | none => .ok (.vocf fmt (spadAddr oa) (spadAddr ob) (if biased then some (spadAddr oc) else none) d nv)

/-- VOCF (R331, R333). -/
def execVocf (f : FmtBR) (s : State) : Host.Outcome State Fault Refusal :=
  s.issue f.len fun r t g =>
    let k := f.d.toNat
    let v := t.vocOf k
    match vocfCheck s t g f with
    | .error e => .fault e
    | .ok kind =>
      match heapNeed v f.vocNv k 1 with
      | .error e => .trap s g e g.pc g.slot
      | .ok need => s.vocIssue r g f [k] kind fun s => s.setVoc r.team k { v with t := need }

/-- The checks of a VOCB (R326, R340): a fault, or its three tiles and what it does. -/
def vocbCheck (s : State) (t : Team) (g : Group) (f : FmtBR) : Except FaultInfo (List Nat × TileOpKind) :=
  let k := f.d.toNat
  let fmt := f.mod.toNat % 4
  let d := f.vocD
  let nv := f.vocNv
  let a := g.s f.a.toNat
  let b := g.s f.b.toNat
  let off := (g.s f.c.toNat).toNat
  let inside : Bool := off + 32 ≤ t.shape.mem
  let blk := s.teamRead t off 32
  let bias : DWord := BitVec.ofNat 64 (bytesNum blk 0 8)
  let biased : Bool := inside && bias ≠ 0
  let dl := bytesNum blk 8 4
  let dh := bytesNum blk 0xC 1
  let dw := bytesNum blk 0xD 1
  let c0 := bytesNum blk 0xE 2
  let vid0 := bytesNum blk 0x10 4
  let has (x : Nat) : Bool := x < 16 && t.hasTile x
  let oa := s.operand t.coreN a
  let ob := s.operand t.coreN b
  let oc := s.operand t.coreN bias
  let v := t.vocOf k
  let rb := d * (if fmt = 0 then 2 else 1)
  match firstFault
      [chk (!t.hasTile k) (mxFault .mmaShape 5 1), chk (inside && !has dh) (mxFault .mmaShape 6 1),
       chk (inside && !has dw) (mxFault .mmaShape 7 1), chk (t.typeOf k ≠ .state) (mxFault .mmaShape 5 2),
       chk (inside && t.typeOf dh ≠ .f32) (mxFault .mmaShape 6 2),
       chk (inside && t.typeOf dw ≠ .f32) (mxFault .mmaShape 7 2),
       chk (inside && (dh = k || dh = dw)) (mxFault .mmaShape 6 6), chk (inside && dw = k) (mxFault .mmaShape 7 6),
       operandBad oa 0 a, operandBad ob 1 b, if biased then operandBad oc 2 bias else none,
       alignTo 16 0 a.toNat, alignTo 16 1 b.toNat, if biased then alignTo 16 2 bias.toNat else none, alignTo 32 3 off,
       if inside then alignTo 4 3 dl else none, chk (fmt ≠ 0 && d % 64 ≠ 0) (mxFault .mmaShape 0 3), teamRange t 3 off 32,
       chk (c0 % 64 ≠ 0 || d ≤ c0 || 0xFFFFFFFF - nv < vid0 || bytesNum blk 0x14 12 ≠ 0) (mxFault .mmaShape 3 7),
       s.rowsBadOf t.ctx oa a 0 rb v.ntok, s.rowsBadOf t.ctx ob b 1 rb nv,
       if biased then s.rowsBadOf t.ctx oc bias 2 (4 * nv) 1 else none, teamRange t 3 dl (4 * v.ntok)] with
  | some e => .error e
  | none => .ok ([k, dh, dw],
      .vocb fmt (spadAddr oa) (spadAddr ob) (if biased then some (spadAddr oc) else none) d nv dl dh dw c0 vid0)

/-- VOCB (R340, R341). Its block is read as VOCI reads one. -/
def execVocb (f : FmtBR) (s : State) : Host.Outcome State Fault Refusal :=
  s.issue f.len fun r t g =>
    if s.engineHeld r then .stay s g
    else match vocbCheck s t g f with
    | .error e => .fault e
    | .ok (tiles, kind) => s.vocIssue r g f tiles kind fun s => s

/-- The checks of a VOCM (R326): a fault, or what it does. -/
def vocmCheck (s : State) (t : Team) (g : Group) (f : FmtBR) : Except FaultInfo TileOpKind :=
  let k := f.d.toNat
  let a := g.s f.a.toNat
  let oa := s.operand t.coreN a
  let v := t.vocOf k
  match firstFault (stateTile t k ++
      [operandBad oa 0 a, alignTo 16 0 a.toNat, s.rowsBadOf t.ctx oa a 0 (imageBytes v.k) v.ntok]) with
  | some e => .error e
  | none => .ok (.vocm (spadAddr oa))

/-- VOCM (R333, R336 to R338). -/
def execVocm (f : FmtBR) (s : State) : Host.Outcome State Fault Refusal :=
  s.issue f.len fun r t g =>
    let k := f.d.toNat
    let v := t.vocOf k
    match vocmCheck s t g f with
    | .error e => .fault e
    | .ok kind =>
      match heapNeed v v.k k 3 with
      | .error e => .trap s g e g.pc g.slot
      | .ok need => s.vocIssue r g f [k] kind fun s => s.setVoc r.team k { v with t := need }

/-- Where the 16-byte pieces of a VOCR go (R325, R326 steps 4, 5 and 10). -/
def State.vocDest (s : State) (t : Team) (a : DWord) (n : Nat) : Except AccErr (List (Bool × Nat)) :=
  s.drainPieces t a n n [0]

/-- The checks of a VOCR (R326): a fault or missing pages, or where its 16-byte pieces go. -/
def vocrCheck (s : State) (t : Team) (g : Group) (f : FmtBR) : Except AccErr (List (Bool × Nat)) :=
  let k := f.d.toNat
  let a := g.s f.a.toNat
  let v := t.vocOf k
  let w := s.where_ t.coreN a 1
  let illegal : Bool := match w with | .error .illAddr => true | _ => false
  let far : Bool := match w with | .ok (.far _ _ _ _) => true | _ => false
  match firstFault (stateTile t k ++
      [chk illegal (mxFault .illAddr 2 0 a), chk far (mxFault .tier 2 0 a), alignTo 16 2 a.toNat]) with
  | some e => .error (.fault e)
  | none => s.vocDest t a (v.ntok * imageBytes v.k)

/-- VOCR (R335). -/
def execVocr (f : FmtBR) (s : State) : Host.Outcome State Fault Refusal :=
  s.issue f.len fun r t g =>
    match vocrCheck s t g f with
    | .error e => e.res
    | .ok chunks => s.vocIssue r g f [f.d.toNat] (.vocr (g.s f.a.toNat) chunks) fun s => s

/-! ### Effects in turn (R264, R342) -/

/-- VOCI takes effect (R328). -/
def State.vociEffect (s : State) (t : Team) (k : Nat) (b : List Byte) : State :=
  let ntok := bytesNum b 0xC 1
  let nlab := bytesNum b 0xD 1
  let cap := bytesNum b 0x14 4
  let recs := (List.range 48).flatMap fun r =>
    if ntok ≤ r then leBytes 512 0
    else
      let x : VocRec :=
        { m := negInf, s := 0, rt := bytesNum b 0 4, cnt := 0, vbase := bytesNum b 8 4, vnext := bytesNum b 8 4, k := bytesNum b 4 2,
          shard := bytesNum b 6 2, shlast := bytesNum b 6 2, spill := if cap = 0 then 0 else bytesNum b 0x10 4 + r * 8 * cap,
          spillcap := cap, nlab := nlab, lfound := 0, valid := 1, ntok := ntok,
          lid := (List.range 4).map fun j => if j < nlab then bytesNum b (0x20 + 16 * r + 4 * j) 4 else 0xFFFFFFFF,
          lz := List.replicate 4 negInf, list := [] }
      x.bytes
  { s with tmem := s.tmem.writeN (t.tileBase k) recs }

/-- VOCI.SPILL takes effect (R329): every candidate is read before any is written. -/
def State.vociSpillEffect (s : State) (t : Team) (k base cap : Nat) : State :=
  let xs := (s.vocValid t k).map fun r =>
    (r, { s.vocRec t k r with spill := if cap = 0 then 0 else base + r * 8 * cap, spillcap := cap })
  xs.foldl (fun s (r, x) => s.putVocRec t k r x) s

/-- Computes new records one by one in ascending order; the first that faults stops the instruction (R332). -/
def vocAll (body : Nat → Except VocErr VocRec) : List Nat → Except (Nat × VocErr) (List (Nat × VocRec))
  | [] => .ok []
  | r :: rs =>
    match body r with
    | .error e => .error (r, e)
    | .ok x =>
      match vocAll body rs with
      | .error e => .error e
      | .ok xs => .ok ((r, x) :: xs)

/-- The end of a context by a running VOC operation (R332). -/
def State.vocFatal (s : State) (o : TileOp) (sub r : Nat) (e : VocErr) : State :=
  s.fatal ⟨o.team, o.grp⟩
    { code := e.code, slot := some o.slot, hdr := some o.hdr,
      bytes := leBytes 1 e.detail ++ leBytes 1 (o.tiles.headD 0) ++ leBytes 1 r ++ leBytes 1 sub ++ leBytes 2 e.expect
        ++ leBytes 2 e.image ++ leBytes 4 e.id ++ leBytes 4 e.bits ++ leBytes 48 0 }

/-- Writes the new records of an operation, or ends the context. -/
def State.vocFinish (s : State) (t : Team) (o : TileOp) (sub : Nat) (res : Except (Nat × VocErr) (List (Nat × VocRec))) : State :=
  match res with
  | .error (r, e) => s.vocFatal o sub r e
  | .ok xs => xs.foldl (fun s (r, x) => s.putVocRec t (o.tiles.headD 0) r x) s

/-- VOCM on record `r` from the images at `src` (R336 to R338). -/
def State.vocmRec (s : State) (t : Team) (k src r : Nat) : Except VocErr VocRec :=
  let x := s.vocRec t k r
  let n := imageBytes x.k
  let b := s.spad.readN (src + r * n) n
  let i := VocRec.parse b (b.drop 512)
  match x.imageBad b i with
  | some d => .error { code := .vocOrder, detail := d, expect := (x.shlast + 1) % 2 ^ 16, image := i.shard }
  | none => .ok (x.merge i)

/-- Gradients of the valid records in ascending order (R341). -/
def State.vocGrads (s : State) (t : Team) (k : Nat) (c : Chunk) (vid0 dl : Nat) :
    List Nat → Except (Nat × VocErr) (List (Nat × List Nat))
  | [] => .ok []
  | r :: rs =>
    match (s.vocRec t k r).grads c r vid0 (leNat (s.teamRead t (dl + 4 * r) 4)) with
    | .error e => .error (r, e)
    | .ok g =>
      match State.vocGrads s t k c vid0 dl rs with
      | .error e => .error e
      | .ok gs => .ok ((r, g) :: gs)

/-- Updates columns 0 to n - 1 of a row of a tile. -/
def State.updCols (s : State) (t : Team) (k i n : Nat) (f : Nat → Nat → Nat) : State :=
  s.setTileRow t k i (((List.range 64).zip (s.tileRow t k i)).map fun (c, x) => if c < n then f c x else x)

/-- VOCB takes effect on its gradient tiles (R341). -/
def State.vocbEffect (s : State) (t : Team) (c : Chunk) (dh dw c0 : Nat) (gs : List (Nat × List Nat)) : State :=
  let n := min 64 (c.d - c0)
  let at_ (row : List FVal) (j : Nat) : FVal := row[c0 + j]?.getD .nan
  let s := gs.foldl (fun s (r, g) =>
    s.updCols t dh r n fun j x => kStep x ((g.zip c.w).map fun (gv, w) => (f32v gv, at_ w j)) 0x7F 0x7F) s
  (List.range c.nv).foldl (fun s v =>
    s.updCols t dw v n fun j x => kStep x (gs.map fun (r, g) => (f32v (g[v]?.getD 0), at_ (c.h r) j)) 0x7F 0x7F) s

/-- VOCR takes effect (R335): the images go out in pieces of 16 bytes. A write that its home refuses ends the context (R196, R386, R411,
R423). -/
def State.vocrEffect (s : State) (t : Team) (o : TileOp) (dst : DWord) (chunks : List (Bool × Nat)) : State :=
  let k := o.tiles.headD 0
  let bytes := (s.vocValid t k).flatMap fun r => (s.vocRec t k r).image
  let numbered := (List.range chunks.length).zip chunks
  let world := s.worldOf t
  let bad (x : Nat × Bool × Nat) : Option FaultCode := if x.2.1 then none else s.lateRefusal world x.2.2 true
  let s' := numbered.foldl (fun (s' : State) x =>
    let bs := (bytes.drop (16 * x.1)).take 16
    if (bad x).isSome then s' else if x.2.1 then s'.spadWriteN x.2.2 bs else s'.performWrite none false x.2.2 bs) s
  match numbered.findSome? fun x => (bad x).map fun c => (c, x) with
  | some (c, x) => s'.fatal ⟨o.team, o.grp⟩
      { code := c, detail := accDetail c 0xFF 0, slot := some o.slot, hdr := some o.hdr, addr := dst + BitVec.ofNat 64 (16 * x.1) }
  | none => s'

/-- A tile operation takes effect. -/
def State.tileEffect (s : State) (t : Team) (o : TileOp) : State :=
  let k := o.tiles.headD 0
  match o.kind with
  | .voci b => s.vociEffect t k b
  | .vociSpill base cap => s.vociSpillEffect t k base cap
  | .vocf fmt h w bias d nv =>
    let c := s.chunk fmt h w bias d nv
    s.vocFinish t o 1 (vocAll (fun r => (s.vocRec t k r).fold c r) (s.vocValid t k))
  | .vocb fmt h w bias d nv dl dh dw c0 vid0 =>
    let c := s.chunk fmt h w bias d nv
    match s.vocGrads t k c vid0 dl (s.vocValid t k) with
    | .error (r, e) => s.vocFatal o 2 r e
    | .ok gs => s.vocbEffect t c dh dw c0 gs
  | .vocm src => s.vocFinish t o 3 (vocAll (s.vocmRec t k src) (s.vocValid t k))
  | .vocr dst chunks => s.vocrEffect t o dst chunks
  | .drain _ => s
  | .mma _ _ _ _ _ _ | .zero _ | .load _ _ _ => s.matrixEffect t o

/-- A beat-operation may take effect: its pass has started (R270). -/
def State.passStarted (s : State) (id : Nat) : Bool := s.passes.any fun (_, p) => p.members.contains id && p.started.isSome

/-- The operation may take effect: it is first on its tiles; a drain takes effect by DRAIN_START, a beat of an MMA once its pass
has started. -/
def State.tileMayGo (s : State) (id : Nat) (o : TileOp) : Bool :=
  s.tileFirst id o && (match o.kind with | .drain _ => false | .mma _ _ _ _ _ _ => s.passStarted id | _ => true)

/-- The physical addresses of memory that a tile operation writes. -/
def TileOp.memWrites (o : TileOp) : List Nat :=
  match o.kind with
  | .vocr _ chunks => chunks.filterMap fun x => if x.1 then none else some x.2
  | _ => []

/-- TILE_OP_TAKE_EFFECT (R264): an operation that is first on each of its tiles takes effect, and leaves the window. Its writes to a frame that is
MOVING hold it (R394). -/
def execTileOpTakeEffect (op : Nat) (s : State) : Host.Outcome State Fault Refusal :=
  match s.tileOps.get? op with
  | none => .next s
  | some o =>
    match s.team? o.team with
    | none => .next s
    | some t =>
      if s.tileMayGo op o && t.core.isSome then
        let (held, s) := s.holdWrites op o.memWrites
        .next (if held then s else { s with tileOps := s.tileOps.del op }.tileEffect t o)
      else .next s

end Sys2Proof.Machine
end

