-- ==== Sys2Proof/Machine/Fabric.lean ====
section
/-! DEFINITION. The fabric engine (10_fabric.md R288 to R311; 07_load_store.md R211): the FABRIC instructions, messages to and
from other ranks, the rank chart and the ports. -/
namespace Sys2Proof.Machine
open Sys2Proof

/-! ### Completion of outstanding instructions -/

/-- What the completion point of an outstanding instruction does to its group: its registers are written, and its flag's count drops (R78,
R79). -/
def Op.land (o : Op) (g : Group) : Group :=
  let g := g.applyAll o.writes
  match o.flag with | some n => g.dropFlag n | none => g

/-- An outstanding instruction reaches its completion point, and is gone (R78, R79). A group whose clause waited on the flag is ready from now
(R131). -/
def State.retireOp (s : State) (id : Nat) : State :=
  match s.ops.get? id with
  | none => s
  | some o => ({ s with ops := s.ops.del id }.updGroup o.owner o.land).noteReady o.owner (s.flagHeld o.owner)

/-- A fault code from its number (R91). -/
def faultOfNat (n : Nat) : Option FaultCode :=
  [.illOp, .illField, .illLit, .illPair, .role, .priv, .divUniform, .divDepth, .clause, .align, .illAddr, .pageProt, .tier,
   .sealed, .world, .addrRetired, .dataLost, .rank, .barTimeout, .barConfig, .lock, .redStall, .deadlock, .ring, .copyDesc,
   .copyFault, .mcast, .mmaShape, .epi, .vocNan, .vocOrder, .heapSpill, .collNan, .collAbort, .remoteNack, .taskq, .nestDepth,
   .frameStale, .frameTag, .key, .trapSw, .arith, FaultCode.machine].find? fun c => c.code.toNat = n

/-! ### Checks at issue (R305) -/

/-- A fault of R305. -/
def fabFault (c : FaultCode) (a : DWord) (detail : Nat := 0xFF) : FaultInfo := { code := c, detail := detail, addr := a }

/-- Step 1: the form of an address, its region and its rank. -/
def State.formBad (s : State) (core : Nat) (a : DWord) : Option FaultInfo :=
  match s.where_ core a 4 with
  | .error c => some (fabFault c a)
  | .ok _ => none

/-- The region of a global address. -/
def regionOf (a : DWord) : Option Nat := if bitsOf a.toNat 63 62 = 2 then some (bitsOf a.toNat 44 40) else none

/-- The kind of an address's region, by the own table (R293); 0 for an address of no region. -/
def State.kindOf (s : State) (a : DWord) : Nat :=
  match regionOf a, s.fab.chart with
  | some r, some c => (c.regions[r]?.map (·.kind)).getD 0
  | _, _ => 0

/-- The address names another rank. -/
def State.isFar (s : State) (core : Nat) (a : DWord) : Bool := match s.where_ core a 4 with | .ok (.far _ _ _ _) => true | _ => false

/-- The rank that an address leads to. -/
def State.rankOf (s : State) (core : Nat) (a : DWord) : Nat := match s.where_ core a 4 with | .ok (.far r _ _ _) => r | _ => s.rank

/-- Steps 1 to 3 for the address of a byte range that PUT, PUTSIG or GET moves. -/
def State.bytesBad (s : State) (core : Nat) (xs : List DWord) (n : Nat) : List (Option FaultInfo) :=
  xs.map (s.formBad core) ++ xs.map (fun a => chk (s.kindOf a = 2) (fabFault .pageProt a))
    ++ xs.map (fun a => chk (a.toNat % 4 ≠ 0 || n % 4 ≠ 0) (fabFault .align a))

/-- Pod and remote accesses of a context that has none (R424). -/
def State.fabricBad (s : State) (t : Team) (xs : List DWord) : Option FaultInfo :=
  if ((s.ctx? t.ctx).map (·.fabric)).getD true then none else (xs.find? (s.isFar t.coreN)).map (fabFault .tier)

/-- The 4-byte units of a byte range, for the checks of R196. -/
def rangeUnits (a : DWord) (n : Nat) : List (Nat × Int) := (List.range (n / 4)).map fun i => (0xFF, ((a.toNat + 4 * i : Nat) : Int))

/-- Step 6 for a local byte range; a range of another rank is checked there. -/
def State.rangeCheck (s : State) (t : Team) (grp : Nat) (a : DWord) (n : Nat) (k : AccKind) : Except AccErr (List LaneUnit) :=
  if s.isFar t.coreN a then .ok [] else s.checkAll t grp 0 4 k (rangeUnits a n)

/-- Two checks; missing pages of both are asked for together (R208). -/
def bothChecks (x y : Except AccErr (List LaneUnit)) : Except AccErr (List LaneUnit) :=
  match x, y with
  | .error (.fault f), _ => .error (.fault f)
  | _, .error (.fault f) => .error (.fault f)
  | .error (.missing a), .error (.missing b) => .error (.missing (a ++ b.filter (!a.contains ·)))
  | .error e, _ => .error e
  | _, .error e => .error e
  | .ok a, .ok b => .ok (a ++ b)

/-- A FABRIC instruction must stay at its slot: its flag is full, an acquire is outstanding, or the send queue is full (R300). -/
def State.fabStalled (s : State) (r : GRef) (g : Group) (fs : Bool) : Bool := g.flagFull fs || s.acqHeld r || s.sendFull r.team

/-- A FABRIC instruction that moves the bytes of own buffers must stay: as above, or a COLLWAIT has still to acquire one of them (R125). -/
def State.fabHeld (s : State) (r : GRef) (t : Team) (g : Group) (fs : Bool) (n : Nat) (bufs : List DWord) : Bool :=
  s.fabStalled r g fs || s.collHolds r s.nextId (bufs.flatMap fun a => s.bufferPieces t a n)

/-! ### PUT, PUTSIG and GET (R296, R306) -/

/-- The pieces of a byte range: displacement and bytes, cut at multiples of `cut` bytes of the address (R296). -/
def fabPieces (a n cut : Nat) : List (Nat × Nat) :=
  (List.range (n / cut + 2)).filterMap fun k =>
    let lo := max a ((a / cut + k) * cut)
    let hi := min (a + n) ((a / cut + k + 1) * cut)
    if lo < hi then some (lo - a, hi - lo) else none

/-- The longest piece toward an address: 256 bytes on the torus, else 4 KiB (R296). -/
def State.pieceCut (s : State) (core : Nat) (a : DWord) : Nat :=
  match s.where_ core a 4 with
  | .ok (.far _ _ _ (.torus _ _ _)) => 256
  | _ => 4096

/-- A message of a group toward an address of any rank. -/
def State.fabMsg (s : State) (r : GRef) (t : Team) (g : Group) (op : Nat) (a : DWord) (kind : MsgKind) (after : List Nat) : Msg :=
  let m := mkMsg r t g (some op) s.rank 0 0 0xFF a kind
  match s.where_ t.coreN a 4 with
  | .ok (.far rank reg off _) => { m with rank := rank, region := reg, off := off, after := after }
  | _ => { m with loc := true, after := after }

/-- The messages of a put: destination `a`, source `b`. -/
def State.putMsgs (s : State) (r : GRef) (t : Team) (g : Group) (op : Nat) (a b : DWord) (n : Nat) (after : List Nat) :
    List Nat × State :=
  (fabPieces a.toNat n (s.pieceCut t.coreN a)).foldl (fun (ids, s) (o, k) =>
    let m := s.fabMsg r t g op (a + BitVec.ofNat 64 o) (.put []) after
    let (id, s) := s.addMsg { m with src := some (b + BitVec.ofNat 64 o, k) }
    (ids ++ [id], s)) ([], s)

/-- What the source of a PUT is read after (R119, R121): everything of the group that a release waits for and that can write to this device.
Writes toward other ranks do not touch the source, and PUTs are not ordered among themselves. -/
def State.outstandingHere (s : State) (r : GRef) : List Nat :=
  s.outstandingLocal r
  ++ (s.msgs.filter fun (_, m) => m.owner = some r && !m.inbound && (m.loc || (match m.kind with | .get _ _ => true | _ => false))).map (·.1)

/-- PUT (R306). -/
def execPut (f : FmtBR) (s : State) : Host.Outcome State Fault Refusal :=
  s.issue f.len fun r t g =>
    let fs : Bool := f.w1.fs = 1
    let a := g.s f.a.toNat
    let b := g.s f.b.toNat
    let n := (g.s f.c.toNat).toNat % 2 ^ 32
    let core := t.coreN
    match firstFault (s.bytesBad core [a, b] n ++ [chk (s.isFar core b) (fabFault .tier b), s.fabricBad t [a]]) with
    | some e => .fault e
    | none =>
      match bothChecks (s.rangeCheck t r.grp b n { write := false }) (s.rangeCheck t r.grp a n { write := true }) with
      | .error e => e.res
      | .ok _ =>
        if s.fabHeld r t g fs n [a, b] then .stay s g
        else
          let after := s.outstandingHere r
          let (op, s) := s.fresh
          let (_, s) := (s.addOp op (mkOp r g fs .fabric)).putMsgs r t g op a b n after
          .done s (g.raiseFlag fs)

/-- PUTSIG (R306): as PUT, and a signal increment that follows every byte of it. -/
def execPutsig (f : FmtBR) (s : State) : Host.Outcome State Fault Refusal :=
  s.issue f.len fun r t g =>
    let fs : Bool := f.w1.fs = 1
    let a := g.s f.a.toNat
    let b := g.s f.b.toNat
    let n := (g.s f.c.toNat).toNat % 2 ^ 32
    let d := g.s f.d.toNat
    let core := t.coreN
    let pre := [s.formBad core a, s.formBad core b, s.formBad core d,
      chk (s.kindOf a = 2) (fabFault .pageProt a), chk (s.kindOf b = 2) (fabFault .pageProt b),
      chk (regionOf d ≠ some 1) (fabFault .pageProt d),
      chk (a.toNat % 4 ≠ 0 || n % 4 ≠ 0) (fabFault .align a), chk (b.toNat % 4 ≠ 0) (fabFault .align b),
      chk (d.toNat % 8 ≠ 0) (fabFault .align d), chk (s.isFar core b) (fabFault .tier b), s.fabricBad t [a, d],
      chk (s.rankOf core d ≠ s.rankOf core a) (fabFault .illAddr d)]
    match firstFault pre with
    | some e => .fault e
    | none =>
      let sig := if s.isFar core d then .ok [] else s.checkAll t r.grp 0 8 { write := true, atom := true } [(0xFF, (d.toNat : Int))]
      match bothChecks (bothChecks (s.rangeCheck t r.grp b n { write := false }) (s.rangeCheck t r.grp a n { write := true })) sig with
      | .error e => e.res
      | .ok _ =>
        if s.fabHeld r t g fs n [a, b] then .stay s g
        else
          let after := s.outstandingHere r
          let (op, s) := s.fresh
          let (ids, s) := (s.addOp op (mkOp r g fs .fabric)).putMsgs r t g op a b n after
          let (_, s) := s.addMsg (s.fabMsg r t g op d (.signal f.w2.imm.toNat) ids)
          .done s (g.raiseFlag fs)

/-- GET (R306): complete when its bytes are placed in the local destination. -/
def execGet (f : FmtBR) (s : State) : Host.Outcome State Fault Refusal :=
  s.issue f.len fun r t g =>
    let fs : Bool := f.w1.fs = 1
    let a := g.s f.a.toNat
    let b := g.s f.b.toNat
    let n := (g.s f.c.toNat).toNat % 2 ^ 32
    let core := t.coreN
    match firstFault (s.bytesBad core [a, b] n ++ [chk (s.isFar core a) (fabFault .tier a), s.fabricBad t [b]]) with
    | some e => .fault e
    | none =>
      match bothChecks (s.rangeCheck t r.grp b n { write := false }) (s.rangeCheck t r.grp a n { write := true }) with
      | .error e => e.res
      | .ok _ =>
        if s.fabHeld r t g fs n [a, b] then .stay s g
        else
          let after := s.outstanding r
          let (op, s) := s.fresh
          let s := s.addOp op { mkOp r g fs .fabric with far := s.isFar core b }
          let s := (fabPieces a.toNat n (s.pieceCut core b)).foldl (fun s (o, k) =>
            let m := s.fabMsg r t g op (b + BitVec.ofNat 64 o) (.get k (a + BitVec.ofNat 64 o)) after
            let (id, s) := s.addMsg m
            s.addNeed op id) s
          .done s (g.raiseFlag fs)

/-! ### RADD (R307) -/

/-- RADD in both forms (R305, R307); `seq` is the sequenced one. -/
def radd (f : FmtBR) (s : State) (seq : Bool) : Host.Outcome State Fault Refusal :=
  s.issue f.len fun r t g =>
    let fs : Bool := f.w1.fs = 1
    let n := accBytes f
    let a := g.s f.a.toNat
    let b := g.s f.b.toNat
    let core := t.coreN
    let counters : Bool := regionOf a = some 1
    match firstFault [s.formBad core a, chk (counters && (seq || n ≠ 8)) (fabFault .pageProt a),
        chk (a.toNat % n ≠ 0) (fabFault .align a), s.fabricBad t [a]] with
    | some e => .fault e
    | none =>
      match (if s.isFar core a then .ok [] else
          s.checkAll t r.grp 0 n { write := true, atom := true, seq := seq } [(0xFF, (a.toNat : Int))]) with
      | .error e => e.res
      | .ok us =>
        if s.fabStalled r g fs || s.memStalled r g fs false n us then .stay s g
        else
          let s := s.learnTlb us
          let world := s.worldOf t
          let (op, s) := s.fresh
          let s := s.addOp op { mkOp r g fs .plain with fab := !us.isEmpty }
          let first := f.mod.getLsbD 0
          let c (unit : Nat) : Contrib :=
            { ctx := t.ctx, world := world, unit := unit, index := if first then 0 else bitsOf (g.s f.c.toNat).toNat 23 0,
              bf16 := f.ty = 8, value := b.extractLsb' 0 32, first := first, last := f.mod.getLsbD 1, owner := some r,
              op := some op, copy := none, held := false, waits := false, stalled := false, va := a.toNat, hdr := g.pc,
              slot := g.slot, since := s.ref, src := some f.b.toNat, phase := s.routePhase unit }
          let s := match us with
            | [] =>
              let m := s.fabMsg r t g op a (if seq then .contrib (c 0) else .atom 0 n b 0 63) []
              (s.addMsg { m with bsrc := some f.b.toNat }).2
            | u :: _ =>
              match u.unit with
              | .spad x => (s.spadAtom x 0 n b 0).2
              | .phys p _ _ =>
                if seq then (let (id, s) := s.fresh; { s with contribs := s.contribs.put id (c p.pa) })
                else s.sendReq { mkReq r t g world none p.pa p.nc u [] (.atom 0 n b 0 63) with bsrc := some f.b.toNat, srcOp := some op } false
              | .far _ _ _ _ => s
          .done s (g.raiseFlag fs)

/-- RADD, integer (R307). -/
def execRadd (f : FmtBR) (s : State) : Host.Outcome State Fault Refusal := radd f s false
/-- RADD, sequenced (R307). -/
def execRaddSequenced (f : FmtBR) (s : State) : Host.Outcome State Fault Refusal := radd f s true

/-! ### SIGWAIT and SIGREAD (R308) -/

/-- Steps 1 to 3 for a counter. -/
def State.counterBad (s : State) (core : Nat) (a : DWord) : List (Option FaultInfo) :=
  [s.formBad core a, chk (regionOf a ≠ some 1) (fabFault .pageProt a), chk (a.toNat % 8 ≠ 0) (fabFault .align a)]

/-- SIGWAIT (R308): checked against the counter's value now and at every later change. -/
def execSigwait (f : FmtBR) (s : State) : Host.Outcome State Fault Refusal :=
  let eq := f.mod.getLsbD 0
  let res := s.issue f.len fun r t g =>
    let fs : Bool := f.w1.fs = 1
    let a := g.s f.a.toNat
    let core := t.coreN
    match firstFault (s.counterBad core a ++ [chk (s.isFar core a) (fabFault .tier a)]) with
    | some e => .fault e
    | none =>
      match s.checkAll t r.grp 0 8 { write := false } [(0xFF, (a.toNat : Int))] with
      | .error e => e.res
      | .ok _ =>
        if s.fabStalled r g fs then .stay s g
        else
          let (op, s) := s.fresh
          let s := s.addOp op (mkOp r g fs (.sigwait a (g.s f.b.toNat) eq f.d.toNat false))
          .done s.watchSignals (g.raiseFlag fs)
  -- a condition that is false at the first check makes the group swap-eligible (R130)
  match s.cur, res with
  | some r, .next s' =>
    if s'.ops.any fun (k, o) => s.nextId ≤ k && (match o.kind with | .sigwait _ _ _ _ met => !met | _ => false)
    then .next (s'.updGroup r fun g => { g with eligible := true }) else .next s'
  | _, res => res

/-- SIGREAD (R308): the counter's value at its home, on any rank. -/
def execSigread (f : FmtBR) (s : State) : Host.Outcome State Fault Refusal :=
  s.issue f.len fun r t g =>
    let fs : Bool := f.w1.fs = 1
    let a := g.s f.a.toNat
    let core := t.coreN
    match firstFault (s.counterBad core a ++ [s.fabricBad t [a]]) with
    | some e => .fault e
    | none =>
      match (if s.isFar core a then .ok [] else s.checkAll t r.grp 0 8 { write := false } [(0xFF, (a.toNat : Int))]) with
      | .error e => e.res
      | .ok us =>
        if s.fabStalled r g fs then .stay s g
        else
          let s := s.learnTlb us
          let world := s.worldOf t
          let (op, s) := s.fresh
          let s := s.addOp op { mkOp r g fs .load with far := us.isEmpty, fab := !us.isEmpty }
          let s := match us with
            | [] =>
              let m := s.fabMsg r t g op a (.read [⟨0, 8, false, f.d.toNat, 0xFF⟩]) []
              let (id, s) := s.addMsg m
              s.addNeed op id
            | u :: _ =>
              match u.unit with
              | .phys p _ _ => s.sendReq (mkReq r t g world (some op) p.pa true u [] (.read [⟨p.pa, 8, false, f.d.toNat, 0xFF⟩])) true
              | _ => s
          .done s (g.raiseFlag fs)

/-- The line of a SIGWAIT's counter is lost (R386). -/
def State.sigLost (s : State) (o : Op) (a : DWord) : Bool :=
  match s.team? o.owner.team with
  | none => false
  | some t => match s.checkUnit t 8 { write := false } a with | .ok (.phys p _ _) => s.isLost p.pa | _ => false

/-- SIGWAIT_SATISFIED (R308): a SIGWAIT whose condition has held completes, and acquires; one whose counter is lost ends in DATA_LOST (R386). -/
def execSigwaitSatisfied (op : Nat) (s : State) : Host.Outcome State Fault Refusal :=
  match (s.watchSignals.ops.get? op) with
  | some o =>
    match o.kind with
    | .sigwait _ _ _ _ true => .next ((s.watchSignals.acquire o.owner).retireOp op)
    | .sigwait a _ _ _ false =>
      .next (if s.sigLost o a then s.fatal o.owner { code := .dataLost, detail := 0xFF, slot := some o.slot, hdr := some o.hdr, addr := a }
        else s)
    | _ => .next s
  | none => .next s

/-! ### SEAL and UNSEAL (R116, R309) -/

/-- Region offset of a global address. -/
def regionOff (a : DWord) : Nat := bitsOf a.toNat 39 0

/-- Ranges of SEALs that have issued and are not yet installed. -/
def State.pendingSeals (s : State) : List (Nat × Nat) :=
  s.ops.filterMap fun (_, o) => match o.kind with | .seal start n _ false _ => some (start, n) | _ => none

/-- UNSEALs that have issued and are not yet installed. -/
def State.pendingUnseals (s : State) : List Nat :=
  s.ops.filterMap fun (_, o) => match o.kind with | .seal start _ _ true _ => some start | _ => none

/-- SEAL (R305, R309). Where several refusals hold, the shape of the range (DETAIL 4) goes before the pages, which are found only for a sound range,
and the others follow in the order of the table (DESIGN CHOICE, log entry 35). -/
def execSeal (f : FmtBR) (s : State) : Host.Outcome State Fault Refusal :=
  s.issue f.len fun r t g =>
    let fs : Bool := f.w1.fs = 1
    let a := g.s f.a.toNat
    let n := (g.s f.b.toNat).toNat
    let v := (g.s f.c.toNat).toNat
    let core := t.coreN
    match firstFault [s.formBad core a, chk (regionOf a ≠ some 0) (fabFault .pageProt a),
        chk (a.toNat % 2 ^ 16 ≠ 0 || n % 2 ^ 16 ≠ 0) (fabFault .align a), chk (s.isFar core a) (fabFault .tier a)] with
    | some e => .fault e
    | none =>
      let off := regionOff a
      let refuse (d : Nat) : FaultInfo := fabFault .sealed a d
      let shape := chk (n = 0 || 2 ^ 30 < n || v / 2 ^ 32 ≠ 0) (refuse 4)
      let others := (s.fab.seals.map fun x => (x.start, x.bytes)) ++ s.pendingSeals
      let pages := (List.range (n / 2 ^ 16)).map fun i => (0xFF, ((a.toNat + i * 2 ^ 16 : Nat) : Int))
      match shape with
      | some e => .fault e
      | none =>
        match s.checkAll t r.grp 0 4 { write := false } pages with
        | .error e => e.res
        | .ok _ =>
          match firstFault [chk (others.any fun (b, m) => overlaps off n b m) (refuse 1), chk (256 ≤ others.length) (refuse 2),
              chk (match s.fab.topVersion with | some x => v ≤ x | none => false) (refuse 5)] with
          | some e => .fault e
          | none =>
            if s.fabStalled r g fs then .stay s g
            else
              let after := s.outstanding r
              let (op, s) := s.fresh
              let s := { s with fab := { s.fab with topVersion := some v } }
              .done (s.addOp op { mkOp r g fs (.seal off n v false false) with need := after, fab := true }) (g.raiseFlag fs)

/-- UNSEAL (R305, R309). -/
def execUnseal (f : FmtBR) (s : State) : Host.Outcome State Fault Refusal :=
  s.issue f.len fun r t g =>
    let fs : Bool := f.w1.fs = 1
    let a := g.s f.a.toNat
    let core := t.coreN
    let off := regionOff a
    match firstFault [s.formBad core a, chk (regionOf a ≠ some 0) (fabFault .pageProt a),
        chk (s.isFar core a) (fabFault .tier a),
        chk (!(s.fab.seals.any fun x => x.start = off) || s.pendingUnseals.contains off) (fabFault .sealed a 3)] with
    | some e => .fault e
    | none =>
      if s.fabStalled r g fs then .stay s g
      else
        let after := s.outstanding r
        let (op, s) := s.fresh
        .done (s.addOp op { mkOp r g fs (.seal off 0 0 true false) with need := after, fab := true }) (g.raiseFlag fs)

/-- The physical 64 KiB pages of a range of region 0, in a context. -/
def State.sealPages (s : State) (ctx start n : Nat) : List Nat :=
  let base := match s.fab.chart with | some c => (c.regions[0]?.map (·.base)).getD 0 | none => 0
  let world := s.ctxWorld ctx
  (List.range (n / 2 ^ 16)).filterMap fun i =>
    match s.xlate none ctx world (base + start + i * 2 ^ 16) .read with
    | .ok p => some (p.pa / 2 ^ 16)
    | .error _ => none

/-- SEAL_INSTALLED (R309): once its release holds, the entry stands, or is gone, at every slice, and the instruction completes. -/
def execSealInstalled (op : Nat) (s : State) : Host.Outcome State Fault Refusal :=
  match s.ops.get? op with
  | none => .next s
  | some o =>
    match o.kind, s.team? o.owner.team with
    | .seal start n v ending _, some t =>
      if !s.allDone o.need then .next s
      else
        let pages := s.sealPages t.ctx start n
        let s := if ending then s else s.flushPartials fun p => pages.contains (p.addr / 2 ^ 16)
        let seals := if ending then s.fab.seals.filter (·.start ≠ start) else s.fab.seals ++ [⟨start, n, v, pages⟩]
        .next ({ s with fab := { s.fab with seals := seals } }.retireOp op)
    | _, _ => .next s

/-! ### Bytes that a message carries (R305, R306) -/

/-- What an engine access meets outside a team: virtual and global addresses only. -/
def State.ctxUnit (s : State) (ctx n : Nat) (k : AccKind) (addr : DWord) : Except UnitErr Unit_ :=
  match s.where_ 0 addr n with
  | .error c => .error (.fault c 0 addr)
  | .ok w =>
    if addr.toNat % n ≠ 0 then .error (.fault .align 0 addr)
    else
      match w with
      | .spad _ _ => .error (.fault .illAddr 0 addr)
      | .beyond => .error (.fault .pageProt 0 addr)
      | .far rank reg off route =>
        if k.red || !((s.ctx? ctx).map (·.fabric)).getD true then .error (.fault .tier 0 addr)
        else if !s.regionCheck (some reg) n k then .error (.fault .pageProt 0 addr)
        else .ok (.far rank reg off route)
      | .virt va region =>
        if !s.regionCheck region n k then .error (.fault .pageProt 0 addr)
        else
          match s.xlate none ctx (s.ctxWorld ctx) va (if k.write then .write else .read) (s.targetWorld region) with
          | .ok p => .ok (.phys p region va)
          | .error .missing => .error (.missing va)
          | .error (.fault c l) => .error (.fault c l addr)

/-- The team as which a message reaches its own side: its group's, or that of the COLL whose collective it serves (R317). -/
def State.msgTeam (s : State) (m : Msg) : Option Team :=
  match m.owner with
  | some r => s.team? r.team
  | none => (m.coll.bind fun k => s.fab.colls.get? k).bind fun (c : Coll) => s.team? c.team

/-- A unit of a message's own side: as its team sees it, or, for a pilot command, as its context does. -/
def State.ownUnit (s : State) (m : Msg) (n : Nat) (k : AccKind) (a : DWord) : Except UnitErr Unit_ :=
  match s.msgTeam m with
  | some t => s.checkUnit t n k a
  | none => s.ctxUnit m.ctx n k a

/-- Reads `n` 4-byte units from an address of the own side; a lost line raises DATA_LOST (R386). -/
def State.readOwn (s : State) (m : Msg) (a : DWord) : Nat → Except UnitErr (List Byte × State)
  | 0 => .ok ([], s)
  | n + 1 =>
    match s.ownUnit m 4 { write := false } a with
    | .error e => .error e
    | .ok (.far _ _ _ _) => .error (.fault .tier 0 a)
    | .ok (.spad x) =>
      (match State.readOwn s m (a + 4) n with
      | .ok (bs, s) => .ok (s.spad.readN x 4 ++ bs, s)
      | .error e => .error e)
    | .ok (.phys p _ _) =>
      if s.isLost p.pa then .error (.fault .dataLost 0 a)
      else
        let (w, s) := (s.addTlb p.tlb).performRead none p.nc p.pa 4
        match State.readOwn s m (a + 4) n with
        | .ok (bs, s) => .ok (w ++ bs, s)
        | .error e => .error e

/-- Places bytes at an address of the own side, each unit of 8 bytes or fewer whole; a lost line raises DATA_LOST (R386). -/
def State.placeOwn (s : State) (m : Msg) (a : DWord) : List (List Byte) → Except UnitErr State
  | [] => .ok s
  | u :: us =>
    match s.ownUnit m 4 { write := true } a with
    | .error e => .error e
    | .ok (.far _ _ _ _) => .error (.fault .tier 0 a)
    | .ok (.spad x) => State.placeOwn (s.spadWriteN x u) m (a + BitVec.ofNat 64 u.length) us
    | .ok (.phys p _ _) =>
      if s.isLost p.pa then .error (.fault .dataLost 0 a)
      else State.placeOwn ((s.addTlb p.tlb).performWrite none p.nc p.pa u) m (a + BitVec.ofNat 64 u.length) us

/-- The memory that the bytes placed at an address of the own side go to. -/
def State.ownPas (s : State) (m : Msg) (a : DWord) : List (List Byte) → List Nat
  | [] => []
  | u :: us =>
    (match s.ownUnit m 4 { write := true } a with | .ok (.phys p _ _) => [p.pa] | _ => [])
      ++ State.ownPas s m (a + BitVec.ofNat 64 u.length) us

/-- Bytes in units: up to the next multiple of 8 of the address, then 8 by 8. -/
def unitsAt (a : Nat) (bs : List Byte) : List (List Byte) :=
  let k := if a % 8 = 0 then 0 else 8 - a % 8
  let rest := bs.drop k
  (if k = 0 || bs.isEmpty then [] else [bs.take k])
    ++ (List.range ((rest.length + 7) / 8)).map fun i => (rest.drop (8 * i)).take 8

/-- A message ends in a fault (R196, R298, R305). -/
def State.msgFail (s : State) (id : Nat) (m : Msg) (c : FaultCode) (detail : Nat) (a : DWord) : State :=
  let s := { s.windowBack id m true with msgs := s.msgs.del id }
  match m.owner, m.copy, m.cmd with
  | some r, _, _ => s.fatal r { code := c, detail := detail, slot := some m.slot, hdr := some m.hdr, addr := a }
  | none, some k, _ => s.updCopy k fun x => { x with fault := some (x.fault.getD (c, a)) }
  | none, none, some k => s.cmdFail k c a.toNat
  | none, none, none => if m.coll.isSome then s.fatalCtx m.ctx (s.engineFault c detail a) else s

/-- A message of the own side meets an error: it waits under a token of its own for a page (R305), or ends in a fault. -/
def State.msgErr (s : State) (id : Nat) (m : Msg) (kind : Nat) (e : UnitErr) : State :=
  match e with
  | .missing va =>
    let (tok, s) := s.requestPage m.ctx kind va
    { s with msgs := s.msgs.upd id fun m => { m with token := tok } }
  | .fault c l a => s.msgFail id m c (accDetail c m.lane l) a

/-- Reads the source of a put (R121, R306). -/
def State.readSource (s : State) (id : Nat) : State :=
  match s.msgs.get? id with
  | none => s
  | some m =>
    match m.src with
    | none => s
    | some (b, n) =>
      if !s.allDone m.after || m.token ≠ 0 then s
      else
        match s.readOwn m b (n / 4) with
        | .error e => s.msgErr id m 0 e
        | .ok (bs, s) => { s with msgs := s.msgs.put id { m with kind := .put bs, src := none } }

/-- Reads the sources of an instruction's messages that can be read now. -/
def State.readSources (s : State) (op : Nat) : State :=
  (s.msgs.filter fun (_, m) => m.op = some op && m.src.isSome).foldl (fun s (id, _) => s.readSource id) s

/-- Every source of the instruction has been read (R79). -/
def State.sourcesRead (s : State) (op : Nat) : Bool := !s.msgs.any fun (_, m) => m.op = some op && m.src.isSome

/-! ### Answers to this rank's messages (R196, R211, R294, R298, R305) -/

/-- Splits data over read units. -/
def splitUnits : List ReadUnit → List Byte → List (ReadUnit × List Byte)
  | [], _ => []
  | u :: us, bs => (u, bs.take u.bytes) :: splitUnits us (bs.drop u.bytes)

/-- Puts a message back in its queue. -/
def State.requeue (s : State) (id : Nat) (m : Msg) : State :=
  { s with msgs := s.msgs.put id { m with state := .queued, reply := none, seq := s.fab.seq, resends := 0 },
           fab := { s.fab with seq := s.fab.seq + 1 } }

/-- A group holds the version that a query found, unless it has acquired since it asked: its next read of the page then asks again (R117). -/
def Group.noteVersion (g : Group) (x : SealHeld) (acqs : Nat) : Group :=
  if g.acqs = acqs then
    { g with seals := x :: g.seals.filter fun h => !(h.rank = x.rank && h.region = x.region && h.page = x.page) }
  else g

/-- The data of a message that was done. What it writes to a frame that is MOVING is held, and the message with it (R394). -/
def State.msgDone (s : State) (id : Nat) (m : Msg) (data : List Byte) : State :=
  let gone := { s with msgs := s.msgs.del id }
  match m.kind with
  | .read us =>
    (splitUnits us data).foldl (fun s (u, bs) =>
      match m.copy, m.cmd with
      | some c, _ => s.updCopy c fun x => { x with buf := x.buf.put u.lane bs }
      | none, some k =>
        { s with fab := { s.fab with pilotCmds := s.fab.pilotCmds.upd k fun x => { x with result := some (leNat bs) } } }
      | none, none => s.addWrites m.op (u.writes bs)) gone
  | .atom _ _ _ _ dst => gone.addWrites m.op (atomWrites dst (leNat data))
  | .get _ dst =>
    (match (m.cmd.bind fun k => s.fab.pilotCmds.get? k).filter fun (x : PilotCmd) =>
        bitAt ((s.fab.pilots[x.pilot]?.getD resetPilot).mem.num (0x10000000 + 64 * x.slot + 3) 1) 0 with
    | some x =>
      { gone with fab := { gone.fab with pilots := listUpd gone.fab.pilots x.pilot fun p => { p with mem := p.mem.writeN dst.toNat data } } }
    | none =>
      let (held, s) := s.holdWrites id (s.ownPas m dst (unitsAt dst.toNat data))
      if held then s
      else
        match s.placeOwn m dst (unitsAt dst.toNat data) with
        | .error e => s.msgErr id m 1 e
        | .ok s => { s with msgs := s.msgs.del id })
  | .version page us acqs =>
    if data.isEmpty then s.requeue id { m with kind := .read us }
    else
      let v := leNat (data.take 4)
      let s := match m.owner with
        | some r => s.updGroup r fun g => g.noteVersion ⟨m.rank, m.region, page, v⟩ acqs
        | none => s
      match us with
      | u :: _ =>
        (match s.sealLine m.rank m.region v m.off u.bytes with
        | some (w, bs) =>
          if s.permits (s.ctxWorld m.ctx) w then { s with msgs := s.msgs.del id }.addWrites m.op (u.writes bs)
          else s.msgFail id m .world m.lane (BitVec.ofNat 64 m.va)
        | none => s.requeue id { m with kind := .sealRead u v })
      | [] => { s with msgs := s.msgs.del id }
  | .sealRead u v =>
    let s := gone.addWrites m.op (u.writes data)
    { s with fab := { s.fab with sealLines := ⟨s.ctxWorld m.ctx, m.rank, m.region, v, m.off, data⟩ :: s.fab.sealLines } }
  | _ => gone

/-- Reference cycles of `h` retry units of 64 ns (R211). -/
def retryCycles (h : Nat) : Nat := (h * 64 * 19 + 9) / 10

/-- The atomic of a message at a unit of the own rank, unless it is held there (R306, R394). -/
def State.ownAtom (s : State) (id : Nat) (m : Msg) (p : Phys) (sub n : Nat) (b c : DWord) : State :=
  if s.isLost p.pa then s.msgFail id m .dataLost m.lane (BitVec.ofNat 64 m.va)
  else
    let (held, s) := s.holdWrites id [p.pa]
    if held then s else { ((s.addTlb p.tlb).atomAt 0 p.pa sub n b c).2 with msgs := s.msgs.del id }

/-- A message of the own rank to the own rank is performed (R306). Its writes to a frame that is MOVING are held (R394). -/
def State.performLocal (s : State) (id : Nat) (m : Msg) : State :=
  match m.kind with
  | .put bs =>
    let (held, s) := s.holdWrites id (s.ownPas m (BitVec.ofNat 64 m.va) (unitsAt m.va bs))
    if held then s
    else
      match s.placeOwn m (BitVec.ofNat 64 m.va) (unitsAt m.va bs) with
      | .error e => s.msgErr id m 1 e
      | .ok s => { s with msgs := s.msgs.del id }
  | .get n _ =>
    (match s.readOwn m (BitVec.ofNat 64 m.va) (n / 4) with
    | .error e => s.msgErr id m 0 e
    | .ok (bs, s) => s.msgDone id m bs)
  | .atom sub n b c _ =>
    (match s.ownUnit m n { write := true, atom := true } (BitVec.ofNat 64 m.va) with
    | .error e => s.msgErr id m 1 e
    | .ok (.phys p _ _) => s.ownAtom id m p sub n b c
    | .ok _ => s)
  | _ => s

/-- MESSAGE_ACK (R298, R305): the answer to a message takes effect; a message to the own rank is performed. -/
def execMessageAck (msg : Nat) (s : State) : Host.Outcome State Fault Refusal :=
  match s.msgs.get? msg with
  | none => .next s
  | some m =>
    if m.inbound || m.token ≠ 0 then .next s
    else if m.loc then .next (if m.src.isNone && s.allDone m.after then s.performLocal msg m else s)
    else
      match m.reply with
      | none => .next s
      | some (data, st) =>
        let s := s.windowBack msg m false
        let m := { m with inWindow := false }
        if st = 0 then .next (s.msgDone msg m data)
        else if st < 0x100 then
          match faultOfNat st with
          | some c => .next (s.msgFail msg m c (accDetail c m.lane 0) (BitVec.ofNat 64 m.va))
          | none => .next s
        else if 16 ≤ m.resends then
          .next (s.msgFail msg m .remoteNack (if st < 0x200 then 0 else 2) (BitVec.ofNat 64 m.va))
        else
          .next { s with msgs := s.msgs.put msg { m with state := .refused (s.ref + retryCycles (st % 256)), reply := none } }

/-- REMOTE_RESEND (R211): after the retry-after delay a refused request is sent again. -/
def execRemoteResend (msg : Nat) (s : State) : Host.Outcome State Fault Refusal :=
  match s.msgs.get? msg with
  | none => .next s
  | some m =>
    match m.state with
    | .refused at_ =>
      if s.ref < at_ then .next s
      else
        match s.linkFor m with
        | none => .next s
        | some p => .next (s.sendOn msg { m with resends := m.resends + 1 } p)
    | _ => .next s

/-- RETRANSMIT_TIMEOUT (R298): an unacknowledged message is sent again, under an entropy value chosen anew; the target discards the duplicate
(R296). -/
def execRetransmitTimeout (msg : Nat) (s : State) : Host.Outcome State Fault Refusal :=
  match s.msgs.get? msg with
  | none => .next s
  | some m =>
    if !m.inbound && m.state = .sent && m.reply.isNone then
      let (e, s) := (s.scorePath m true).entropyFor m
      .next { s with msgs := s.msgs.put msg { m with lastSent := s.ref, entropy := e } }
    else .next s

/-- Reference cycles in 64 ms. -/
def ackLimitCycles : Nat := 121600000

/-- ACK_LIMIT (R298): 64 ms after it was first sent, an unacknowledged message ends its operation with REMOTE_NACK. -/
def execAckLimit (msg : Nat) (s : State) : Host.Outcome State Fault Refusal :=
  match s.msgs.get? msg with
  | none => .next s
  | some m =>
    let out : Bool := match m.state with | .sent | .refused _ => true | _ => false
    if !m.inbound && out && (match m.reply with | some (_, 0) => false | _ => true) && m.firstSent + ackLimitCycles ≤ s.ref then
      .next (s.msgFail msg m .remoteNack 1 (BitVec.ofNat 64 m.va))
    else .next s

/-- SIGNAL_INCREMENT (R306): once every byte of the put is performed, its counter is incremented: here in one atomic step, or by a
message to its rank. -/
def execSignalIncrement (op : Nat) (s : State) : Host.Outcome State Fault Refusal :=
  match s.msgs.find? fun (_, m) => m.op = some op && !m.inbound && m.state = .queued
      && (match m.kind with | .signal _ => true | _ => false) with
  | none => .next s
  | some (id, m) =>
    match m.kind with
    | .signal n =>
      if !s.allDone m.after || m.token ≠ 0 then .next s
      else if m.loc then
        match s.ownUnit m 8 { write := true, atom := true } (BitVec.ofNat 64 m.va) with
        | .error e => .next (s.msgErr id m 1 e)
        | .ok (.phys p _ _) => .next (s.ownAtom id m p 0 8 (BitVec.ofNat 64 n) 0)
        | .ok _ => .next s
      else .next (s.leave id m)
    | _ => .next s

/-! ### Messages of other ranks (R28, R211, R294, R296) -/

/-- Why this rank refuses a unit: a fault code, or a missing page of its job context. -/
inductive InErr where
  | code (c : FaultCode)
  | missing (va : Nat)

/-- The checks of a unit named by another rank (R28, R293, R294, R409): `write` it is written, `rmw` by a read-modify-write. -/
def State.inUnit (s : State) (c : Chart) (region off n : Nat) (write rmw : Bool) : Except InErr Phys :=
  let r := c.regions[region]?.getD ⟨0, 0, 0, false, false⟩
  if r.kind = 0 then .error (.code .illAddr)
  else if r.units * 2 ^ 16 < off + n then .error (.code .pageProt)
  else if (rmw && !r.rmw) || (write && !rmw && !r.w) then .error (.code .pageProt)
  else if r.kind = 2 && write && !(rmw && n = 8) then .error (.code .pageProt)
  else
    match s.xlate none c.jobCtx (s.ctxWorld c.jobCtx) (r.base + off) (if write then .write else .read) (s.targetWorld (some region)) with
    | .error .missing => .error (.missing (r.base + off))
    | .error (.fault f _) => .error (.code f)
    | .ok p => if s.isLost p.pa then .error (.code .dataLost) else .ok p

/-- The units of a message: offset, bytes, and for a write the data. -/
def msgUnits (m : Msg) : List (Nat × Nat × List Byte) :=
  let cut (n : Nat) : List (Nat × Nat) := fabPieces m.off n 8
  match m.kind with
  | .read us => us.map fun u => (m.off, u.bytes, [])
  | .write us => us.map fun u => (m.off, u.data.length, u.data)
  | .atom _ n _ _ _ => [(m.off, n, [])]
  | .contrib _ => [(m.off, 4, [])]
  | .put bs => (cut bs.length).map fun (o, n) => (m.off + o, n, (bs.drop o).take n)
  | .signal _ => [(m.off, 8, [])]
  | .get n _ => (cut n).map fun (o, k) => (m.off + o, k, [])
  | .version _ _ _ => []
  | .sealRead u _ => [(m.off, u.bytes, [])]

/-- The message writes, and by a read-modify-write. -/
def msgWrites (m : Msg) : Bool × Bool :=
  match m.kind with
  | .write _ | .put _ => (true, false)
  | .atom _ _ _ _ _ | .contrib _ | .signal _ => (true, true)
  | _ => (false, false)

/-- Checks every unit of a message. -/
def State.inUnits (s : State) (c : Chart) (region : Nat) (write rmw : Bool) :
    List (Nat × Nat × List Byte) → Except InErr (List (Phys × Nat × List Byte))
  | [] => .ok []
  | (off, n, bs) :: us =>
    match s.inUnit c region off n write rmw with
    | .error e => .error e
    | .ok p =>
      match State.inUnits s c region write rmw us with
      | .error e => .error e
      | .ok ps => .ok ((p, n, bs) :: ps)

/-- A retry-after hint from 1 to 255: the spec leaves it open (log entry 1). -/
def State.drawHint (s : State) : Nat × State :=
  let (v, s) := s.drawFree
  (1 + v.toNat % 255, s)

/-- Refuses a message with a hint (R211, R294): `base` 0x100 for a missing page, 0x200 for a missing job context. -/
def State.refuse (s : State) (id : Nat) (m : Msg) (base : Nat) : State :=
  let (h, s) := s.drawHint
  s.answer id m [] (base + h)

/-- The memory that a message of another rank writes as it arrives: its contributions are held on their own (R394). -/
def Msg.writesAt (m : Msg) (ps : List (Phys × Nat × List Byte)) : List Nat :=
  match m.kind with
  | .contrib _ => []
  | _ => if (msgWrites m).1 then ps.map (·.1.pa) else []

/-- Executes a message whose units have passed. -/
def State.inExec (s : State) (id : Nat) (m : Msg) (ctx world : Nat) (ps : List (Phys × Nat × List Byte)) : State :=
  match m.kind with
  | .read _ | .get _ _ | .sealRead _ _ =>
    let (data, s) := ps.foldl (fun ((acc, s) : List Byte × State) (p, n, _) =>
      let (bs, s) := (s.addTlb p.tlb).performRead none p.nc p.pa n
      (acc ++ bs, s)) ([], s)
    s.answer id m data 0
  | .write _ | .put _ => (ps.foldl (fun s (p, _, bs) => (s.addTlb p.tlb).performWrite none p.nc p.pa bs) s).answer id m [] 0
  | .atom sub n b c _ =>
    (match ps with
    | (p, _, _) :: _ => (let (old, s) := (s.addTlb p.tlb).atomAt 0 p.pa sub n b c; s.answer id m (leBytes n old) 0)
    | [] => s)
  | .signal k =>
    (match ps with
    | (p, _, _) :: _ => ((s.addTlb p.tlb).atomAt 0 p.pa 0 8 (BitVec.ofNat 64 k) 0).2.answer id m [] 0
    | [] => s)
  | .contrib c =>
    (match ps with
    | (p, _, _) :: _ =>
      let (k, s) := s.fresh
      { s with contribs := s.contribs.put k { c with ctx := ctx, world := world, unit := p.pa, owner := none, op := none,
                                                     copy := none, held := false, waits := false, stalled := false, since := s.ref,
                                                     issuer := none, rel := false, src := none, cmd := none, phase := s.routePhase p.pa },
               msgs := s.msgs.put id { m with state := .done, after := [k] },
               fab := { s.fab with seen := s.fab.seen ++ [(m.rank, m.seq)] } }
    | [] => s)
  | .version page _ _ =>
    let base := ((s.fab.chart.bind fun c => c.regions[m.region]?).map (·.base)).getD 0
    let v := match s.xlate none ctx world (base + page * 2 ^ 16) .read with
      | .ok p => (s.fab.seals.find? fun x => x.pages.contains (p.pa / 2 ^ 16)).map (·.version)
      | .error _ => none
    s.answer id m (match v with | some v => leBytes 4 v | none => []) 0

/-- FABRIC_MESSAGE_ARRIVAL (R294, R296): a message of another rank is executed exactly once, or refused. -/
def execFabricMessageArrival (msg : Nat) (s : State) : Host.Outcome State Fault Refusal :=
  match s.msgs.get? msg, s.fab.chart with
  | some m, some c =>
    if !m.inbound || m.state ≠ .sent then .next s
    else if s.fab.seen.contains (m.rank, m.seq) then .next { s with msgs := s.msgs.del msg }
    else
      match s.ctx? c.jobCtx with
      | none => .next (s.refuse msg m 0x200)
      | some x =>
        if x.state ≠ .live || x.pending.isSome then .next (s.refuse msg m 0x200)
        else
          let (w, rmw) := msgWrites m
          match s.inUnits c m.region w rmw (msgUnits m) with
          | .error (.code f) => .next (s.answer msg m [] f.code.toNat)
          | .error (.missing va) =>
            let (tok, s) := s.newToken
            .next ((s.requestPages c.jobCtx tok (BitVec.ofNat 32 m.rank) [⟨4, va⟩]).refuse msg m 0x100)
          | .ok ps =>
            let (held, s) := s.holdWrites msg (m.writesAt ps)
            .next (if held then s else s.inExec msg m c.jobCtx x.world ps)
  | _, _ => .next s

/-- FABRIC_CREDIT_RETURN (R297, R300): a torus neighbour returns a credit. -/
def execFabricCreditReturn (port : Nat) (s : State) : Host.Outcome State Fault Refusal :=
  if port < 36 then
    .next { s with fab := { s.fab with ports := listUpd s.fab.ports port fun p => { p with credit := p.credit + 1 } } }.pump
  else .next s

/-! ### Ports (R302, R303) -/

/-- The number of lanes of a mask. -/
def laneCount (m : BitVec 4) : Nat := ((List.range 4).filter m.getLsbD).length

/-- Changes a port. -/
def State.updPort (s : State) (n : Nat) (f : Port → Port) : State :=
  { s with fab := { s.fab with ports := listUpd s.fab.ports n f } }

/-- A port after a write of PORTCTL; `busy` while it has messages outstanding. -/
def Port.write (p : Port) (v : DWord) (busy : Bool) : Port :=
  let p := { p with laneen := v.extractLsb' 4 4, ratecap := v.getLsbD 3, drain := v.getLsbD 1, enable := v.getLsbD 0 }
  if !p.enable then p.become 0
  else if v.getLsbD 2 || p.state = 0 then p.become 1
  else if p.drain then (if p.state = 2 && !busy then p.become 3 else p)
  else if p.state = 3 then p.become 2 else p

/-- A write of PORTCTL (R303). A drained port that has nothing outstanding is in state 3; a port that is enabled begins to
train, and one that is disabled goes down. -/
def State.writePortctl (s : State) (n : Nat) (v : DWord) : State :=
  s.updPort n fun p => p.write v (s.portBusy n)

/-- PORT_RETRAIN (R303): a write of PORTCTL with RETRAIN. -/
def execPortRetrain (port : Nat) (v : DWord) (s : State) : Host.Outcome State Fault Refusal := viaLink s <|
  .next (if v.getLsbD 2 then s.writePortctl port v else s)

/-- PORT_TRAINING_DONE (R301, R302): the link is up at the rate, the lanes and the extension version agreed, or has failed. -/
def execPortTrainingDone (port : Nat) (up fast : Bool) (ver : BitVec 8) (lanes : BitVec 4) (s : State) :
    Host.Outcome State Fault Refusal :=
  match s.fab.ports[port]? with
  | none => .next s
  | some p =>
    let lanes := lanes &&& p.laneen
    let ok := up && 3 ≤ laneCount lanes && (36 ≤ port || ver = 1 || ver = 2)
    if p.state ≠ 1 then .next s
    else
      .next (s.updPort port fun p =>
        if ok then
          { p.become (if p.drain then 3 else 2) with
            lanes := lanes, rate := !fast || p.ratecap, extver := if port < 36 then ver else 0, proto := 36 ≤ port }
        else { p.become 4 with lanes := 0 })

/-- PORT_LANE_FAILURE (R302): the lane is retired; with fewer than three left the port fails. -/
def execPortLaneFailure (port lane : Nat) (s : State) : Host.Outcome State Fault Refusal :=
  match s.fab.ports[port]? with
  | none => .next s
  | some p =>
    if !p.lanes.getLsbD lane then .next s
    else
      let lanes := p.lanes &&& ~~~(1#4 <<< lane)
      .next (s.updPort port fun p =>
        if laneCount lanes < 3 then { p.become 4 with lanes := lanes } else { p with lanes := lanes })

/-! ### Loading the chart (R288 to R295) -/

/-- The header's own checks (R289): ERRCODE 1. -/
def headerOk (h : List Byte) : Bool :=
  let n (o k : Nat) := bytesNum h o k
  let lin : Bool := n 6 2 = 1
  n 0 4 = 0x6B3D29A1 && n 4 2 = 1 && n 6 2 ≤ 1 && 1 ≤ n 0x10 4 && n 0x10 4 ≤ 131072 && n 0x14 4 < n 0x10 4 && n 0x18 2 ≤ 4095
  && 1 ≤ n 0x1A 2 && n 0x1A 2 ≤ 4096 && n 0x1E 2 = 0 && n 0x4B 1 = 0 && n 0x50 48 = 0
  && (if lin then n 0x28 8 = 0 && n 0x48 1 ≤ 15 && n 0x49 1 ≤ 15 && n 0x4A 1 ≤ 7 else n 0x48 3 = 0)

/-- The runs of a table (R290). -/
def readRuns (m : Memory) (a n : Nat) : List Run :=
  (List.range n).map fun k => let e := m.readN (a + 16 * k) 16; ⟨bytesNum e 0 4, bytesNum e 4 4, bytesNum e 8 2, bytesNum e 12 4⟩

/-- Runs are contiguous from a rank to the last (R290). -/
def runsCover (nrank : Nat) : Nat → List Run → Bool
  | k, [] => k = nrank
  | k, r :: rs => r.first = k && 1 ≤ r.count && runsCover nrank (k + r.count) rs

/-- No two ranks of one pod share a position (R290). -/
def runsApart : List Run → Bool
  | [] => true
  | r :: rs => rs.all (fun x => x.pod ≠ r.pod || !overlaps r.pos r.count x.pos x.count) && runsApart rs

/-- The run table's checks (R290): ERRCODE 2. -/
def runsOk (m : Memory) (a n nrank rank pod : Nat) : Bool :=
  let rs := readRuns m a n
  (List.range n).all (fun k => m.num (a + 16 * k + 10) 2 = 0)
  && rs.all (fun r => r.pod ≤ 4095 && r.pos + r.count ≤ 2048) && runsCover nrank 0 rs && runsApart rs
  && (match rs.find? fun r => r.first ≤ rank && rank < r.first + r.count with | some r => r.pod = pod | none => false)

/-- The placement table (R291); none where an entry is malformed: ERRCODE 4. -/
def readPlace (m : Memory) (a : Nat) : Option (List (Option (Nat × Nat × Nat))) :=
  let es := (List.range 2048).map fun k => m.num (a + 4 * k) 4
  if es.all fun e => bitsOf e 30 11 = 0 then
    some (es.map fun e => if bitAt e 31 then some (bitsOf e 3 0, bitsOf e 7 4, bitsOf e 10 8) else none)
  else none

/-- The region table (R293). -/
def readRegions (m : Memory) (a : Nat) : List Region :=
  (List.range 32).map fun k =>
    let e := m.readN (a + 16 * k) 16
    ⟨bytesNum e 0 8, bytesNum e 8 4, bytesNum e 12 1, bitAt (bytesNum e 13 1) 0, bitAt (bytesNum e 13 1) 1⟩

/-- The region table's checks (R293): ERRCODE 6. -/
def regionsOk (m : Memory) (a : Nat) : Bool :=
  let rs := readRegions m a
  let r (k : Nat) : Region := rs[k]?.getD ⟨0, 0, 0, false, false⟩
  (List.range 32).all (fun k => m.num (a + 16 * k + 13) 1 < 4 && m.num (a + 16 * k + 14) 2 = 0)
  && rs.all (fun x => x.base % 2 ^ 16 = 0 && x.base < 2 ^ 56 && x.kind ≤ 3)
  && (r 0).kind = 1 && (r 1).kind = 2 && (r 1).units = 128 && (r 2).kind = 1 && (r 3).kind = 3
  && (r 3).base = (r 0).base && (r 3).units = (r 0).units

/-- A passage-plan image whose header is right (R313). -/
def planOk (h : List Byte) : Bool :=
  let n (o k : Nat) := bytesNum h o k
  n 0 4 = 0x3C71A0B3 && n 4 2 = 3 && n 6 2 = 0 && n 8 4 ≤ 24512 && 64 + n 8 4 + n 0x10 4 ≤ 24576 && n 0x14 4 = 0 && n 0x20 32 = 0

/-- The image of a plan at an address: its header and its code and data bytes. -/
def readPlan (m : Memory) (a : Nat) : List Byte := m.readN a (64 + m.num (a + 8) 4)

/-- The chart that a LOAD reads, or the ERRCODE that refuses it (R289 to R295). -/
def State.readChart (s : State) : Except Nat Chart :=
  let a := s.fab.rchbase.toNat
  let h := s.mem.readN a 128
  let n (o k : Nat) := bytesNum h o k
  let lin : Bool := n 6 2 = 1
  let plans := (List.range 8).map fun k => s.mem.num (n 0x40 8 + 8 * k) 8
  let place := if lin then some [] else readPlace s.mem (n 0x28 8)
  if !headerOk h then .error 1
  else if !runsOk s.mem (n 0x20 8) (n 0x1A 2) (n 0x10 4) (n 0x14 4) (n 0x18 2) then .error 2
  else
    let runs := readRuns s.mem (n 0x20 8) (n 0x1A 2)
    let changes : Bool := match s.fab.chart with
      | some c => c.nrank ≠ n 0x10 4 || c.rank ≠ n 0x14 4 || c.runs ≠ runs
      | none => false
    if changes && !s.ctxs.isEmpty then .error 3
    else
      match place with
      | none => .error 4
      | some place =>
        if plans.any fun p => p ≠ 0 && !planOk (s.mem.readN p 64) then .error 5
        else if !regionsOk s.mem (n 0x38 8) then .error 6
        else
          .ok { job := BitVec.ofNat 64 (n 8 8), nrank := n 0x10 4, rank := n 0x14 4, pod := n 0x18 2, runs := runs, lin := lin,
                dim := (n 0x48 1 + 1, n 0x49 1 + 1, n 0x4A 1 + 1), place := place, endpoints := n 0x1C 2, endTable := n 0x30 8,
                cached := (s.fab.chart.map (·.cached)).getD [], regions := readRegions s.mem (n 0x38 8), plans := plans,
                jobCtx := n 0x4C 4 }

/-- Copies the plans of the plan table into a pilot's slots (R313, R315). -/
def Pilot.copyPlans (p : Pilot) (m : Memory) (plans : List Nat) : Pilot :=
  let imgs := plans.map fun a => if a = 0 then none else some (readPlan m a)
  { p with
    plans := imgs,
    mem := ((List.range imgs.length).zip imgs).foldl (fun mem (k, i) =>
      match i with | some bs => mem.writeN (0x10000 + 24576 * k) bs | none => mem) p.mem }

/-- A write to RCHCTL that is refused (R295). -/
def State.rchRefuse (s : State) (code : Nat) : State := { s with fab := { s.fab with rchErr := code, rchErrFlag := true } }

/-- RCHSTAT.BUSY (R295). -/
def Fabric.rchBusy (f : Fabric) : Bool := f.rchLoad || f.rchInv

/-- RCHCTL_LOAD (R295): a LOAD begins; one written while BUSY is set is refused. -/
def execRchctlLoad (v : DWord) (s : State) : Host.Outcome State Fault Refusal := viaLink s <|
  .next (if !v.getLsbD 0 then s
    else if s.fab.rchBusy then s.rchRefuse s.fab.rchErr
    else { s with fab := { s.fab with rchLoad := true } })

/-- An ENDINV begins, if it is asked for. -/
def State.markInv (s : State) (inv : Bool) : State := { s with fab := { s.fab with rchInv := s.fab.rchInv || inv } }

/-- RCHCTL_ENDINV (R295): an ENDINV begins; one written while BUSY is set is refused. -/
def execRchctlEndinv (v : DWord) (s : State) : Host.Outcome State Fault Refusal := viaLink s <|
  .next (if !v.getLsbD 1 then s
    else if s.fab.rchBusy then s.rchRefuse s.fab.rchErr
    else s.markInv true)

/-- A LOAD ends: the new levels are installed at one instant, or it is refused and the chart stays (R295). It reads HBM4, and so ends only
once the memory is READY (R381). -/
def State.loadChart (s : State) : State :=
  let s := { s with fab := { s.fab with rchLoad := false } }
  match s.readChart with
  | .error code => s.rchRefuse code
  | .ok c =>
    let sameJob : Bool := match s.fab.chart with | some x => x.job = c.job | none => false
    { s with fab := { s.fab with
      chart := some c, rchErr := 0, rchErrFlag := false, topVersion := if sameJob then s.fab.topVersion else none,
      pilots := s.fab.pilots.map fun p => if p.state = 3 then p.copyPlans s.mem c.plans else p } }

/-- The LOAD and the ENDINV in progress end: an ENDINV drops every cached endpoint entry (R295). -/
def State.rchDone (s : State) : State :=
  let s := if s.fab.rchLoad && s.stk.ready then s.loadChart else s
  if s.fab.rchInv then
    { s with fab := { s.fab with rchInv := false, chart := s.fab.chart.map fun (c : Chart) => { c with cached := [] } } }
  else s

/-- A port corrects a link error: CERR counts it, and stays at its largest value (R303). -/
def State.linkError (s : State) (port : Nat) : State :=
  s.updPort port fun p => { p with cerr := if p.cerr = BitVec.allOnes 32 then p.cerr else p.cerr + 1 }

end Sys2Proof.Machine
end

