-- ==== Sys2Proof/Machine/Pilots.lean ====
section
/-! DEFINITION. The port pilots and the collectives (10_fabric.md R312 to R320; 04_ordering.md R125). What a plan computes comes
from outside, as stores into its pilot's memory and as the events below; of a plan that is shipped, the result is computed (R319). -/
namespace Sys2Proof.Machine
open Sys2Proof

/-! ### Pilots (R312, R315) -/

/-- Changes a pilot. -/
def State.updPilot (s : State) (n : Nat) (f : Pilot → Pilot) : State :=
  { s with fab := { s.fab with pilots := listUpd s.fab.pilots n f } }

/-- A pilot by number. -/
def State.pilot (s : State) (n : Nat) : Pilot := s.fab.pilots[n]?.getD resetPilot

/-- The pilots of an X-die: those of its ports (R20). -/
def dieOfPilot (n : Nat) : Nat := if n < 36 then n / 18 else (n - 36) / 2

/-- Running pilots, ascending. -/
def State.running (s : State) : List Nat := (List.range 40).filter fun n => (s.pilot n).state = 3

/-- The lead pilot of an X-die (R316). -/
def State.leadPilot (s : State) (die : Nat) : Option Nat := s.running.find? fun n => dieOfPilot n = die

/-- Bytes of a pilot firmware image that are loaded and checked: the resident firmware of R312. -/
def firmwareBytes : Nat := 65536

/-- The pilot verifies the image at PILOTIMG (R315). -/
def State.imageGood (s : State) (p : Pilot) : Bool := Config.verifies 1 (s.comp.readN (p.img.toNat / 4096 * 4096) firmwareBytes)

/-- A write of PILOTCTL (R315): DRAIN and RUN are stored; DRAIN takes a running pilot out of new collectives and drains its port;
LOAD begins in states 0 and 5; RUN with DRAIN clear puts a verified pilot into service. -/
def State.writePilotctl (s : State) (n : Nat) (v : DWord) : State :=
  let drain := v.getLsbD 2
  let run := v.getLsbD 0
  let plans := (s.fab.chart.map (·.plans)).getD []
  let mem := s.mem
  let s := s.updPilot n fun p => { p with drain := drain, run := run }
  let p := s.pilot n
  if drain && p.state = 3 then (s.updPilot n fun p => { p with state := 4 }).updPort n fun q => { q with drain := true }
  else if v.getLsbD 1 && (p.state = 0 || p.state = 5) then s.updPilot n fun p => { p with state := 1, verified := false }
  else if run && !drain && p.state = 0 && p.verified then
    (s.updPilot n fun p => { p.copyPlans mem plans with state := 3 }).updPort n fun q =>
      if q.state = 3 then { q.become 2 with drain := false } else { q with drain := false }
  else s

/-- PILOT_DRAIN (R315): a write of PILOTCTL with DRAIN. -/
def execPilotDrain (pilot : Nat) (v : DWord) (s : State) : Host.Outcome State Fault Refusal := viaLink s <|
  .next (if v.getLsbD 2 then s.writePilotctl pilot v else s)

/-- PILOT_LOAD (R315): a write of PILOTCTL with LOAD. -/
def execPilotLoad (pilot : Nat) (v : DWord) (s : State) : Host.Outcome State Fault Refusal := viaLink s <|
  .next (if v.getLsbD 1 then s.writePilotctl pilot v else s)

/-- PILOT_RUN (R315): a write of PILOTCTL with RUN. -/
def execPilotRun (pilot : Nat) (v : DWord) (s : State) : Host.Outcome State Fault Refusal := viaLink s <|
  .next (if v.getLsbD 0 then s.writePilotctl pilot v else s)

/-- PILOT_DRAINED (R315): the collectives that ran on the pilot have finished. -/
def execPilotDrained (pilot : Nat) (s : State) : Host.Outcome State Fault Refusal :=
  if (s.pilot pilot).state = 4 && !(s.fab.colls.any fun (_, c) => c.pilots.contains pilot) then
    .next (s.updPilot pilot fun p => { p with state := 0 })
  else .next s

/-- PILOT_VERIFY_DONE (R315): the image, once loaded, is under verification (state 2); then it is verified (state 0) or refused
(state 5), with no firmware left running. -/
def execPilotVerifyDone (pilot : Nat) (s : State) : Host.Outcome State Fault Refusal :=
  let p := s.pilot pilot
  if p.state = 1 then .next (s.updPilot pilot fun p => { p with state := 2 })
  else if p.state = 2 then
    let img := s.comp.readN (p.img.toNat / 4096 * 4096) firmwareBytes
    .next (s.updPilot pilot fun q =>
      if s.imageGood p then { q with state := 0, verified := true, mem := q.mem.writeN 0 img }
      else { q with state := 5, verified := false, mem := q.mem.zero 0 firmwareBytes })
  else .next s

/-! ### Collectives (R316 to R318) -/

/-- A collective of a context on an id that has not completed. -/
def State.openColl (s : State) (ctx id : Nat) : Bool := s.fab.colls.any fun (_, c) => c.ctx = ctx && c.id = id && c.status.isNone

/-- The latest collective of a context on an id. -/
def State.lastColl (s : State) (ctx id : Nat) : Option (Nat × Coll) :=
  (s.fab.colls.filter fun (_, c) => c.ctx = ctx && c.id = id).getLast?

/-- A COLLWAIT waits for the collective. -/
def State.collWaited (s : State) (key : Nat) : Bool :=
  s.ops.any fun (_, o) => match o.kind with | .collwait (some k) _ => k = key | _ => false

/-- Changes a collective. -/
def State.updColl (s : State) (key : Nat) (f : Coll → Coll) : State :=
  { s with fab := { s.fab with colls := s.fab.colls.upd key f } }

/-- COLL (R305, R316): one whose id is still busy holds its group, and one whose source a COLLWAIT has still to acquire (R125). -/
def execColl (f : FmtBR) (s : State) : Host.Outcome State Fault Refusal :=
  s.issue f.len fun r t g =>
    let fs : Bool := f.w1.fs = 1
    let a := g.s f.a.toNat
    let id := f.w2.imm.toNat % 16
    let core := t.coreN
    match firstFault [s.formBad core a, chk (a.toNat % 128 ≠ 0) (fabFault .align a), chk (s.isFar core a) (fabFault .tier a)] with
    | some e => .fault e
    | none =>
      match s.checkAll t r.grp 0 4 { write := false } (rangeUnits a 128) with
      | .error e => e.res
      | .ok _ =>
        let d := CollDesc.parse (s.peek t a 128)
        if s.fabStalled r g fs || s.openColl t.ctx id || s.collHolds r s.nextId (s.bufferPieces t d.src d.srcBytes) then
          .stay s (g.block s.ref false)
        else
          let after := s.outstanding r
          let seq := match s.lastColl t.ctx id with | some (_, c) => c.seq + 1 | none => 0
          let kept : Tbl Coll := s.fab.colls.filter fun (k, c) => !(c.ctx = t.ctx && c.id = id) || s.collWaited k
          let (op, s) := s.fresh
          let (key, s) := s.fresh
          let c : Coll :=
            { ctx := t.ctx, id := id, desc := [], addr := a, team := r.team, seq := seq, started := false, pilots := [], args := [],
              status := none }
          let s := { s with fab := { s.fab with colls := kept.put key c } }
          .done (s.addOp op { mkOp r g fs (.coll key) with need := after, fab := true }) (g.raiseFlag fs)

/-- COLLWAIT (R318): waits for the current collective on the id. -/
def execCollwait (f : FmtBR) (s : State) : Host.Outcome State Fault Refusal :=
  s.issue f.len fun r t g =>
    let fs : Bool := f.w1.fs = 1
    if s.fabStalled r g fs then .stay s g
    else
      let key := (s.lastColl t.ctx (f.w2.imm.toNat % 16)).map (·.1)
      let (op, s) := s.fresh
      .done (s.addOp op { mkOp r g fs (.collwait key f.d.toNat) with fab := true }) (g.raiseFlag fs)

/-- A descriptor keeps R317. -/
def State.descGood (s : State) (core lead : Nat) (d : CollDesc) : Bool :=
  let loc (a : DWord) : Bool := match s.where_ core a 4 with | .ok (.far _ _ _ _) => false | .ok _ => true | .error _ => false
  d.zeros && d.slot ≤ 7 && ((s.pilot lead).plans[d.slot]?.join).isSome && d.op ≤ 3 && d.ty ≤ 3
  && (if 2 ≤ d.op then d.red = 0 else d.red ≤ 2) && 1 ≤ d.n && d.n ≤ 2 ^ 32 && loc d.src && loc d.dst
  && 1 ≤ d.parts && d.parts ≤ 131072 && 1 ≤ d.stride && (if d.op = 3 then d.root < d.parts else d.root = 0)
  && (d.indexOf s.rank).isSome && d.first + (d.parts - 1) * d.stride < s.nrank

/-- The record under which a COLL's descriptor waits for a page: a message that never leaves (R305, R316). -/
def Msg.holdsColl (op : Nat) (m : Msg) : Bool := !m.inbound && m.op = some op && m.kind = .get 0 0

/-- The page has not been answered for. -/
def State.collHeld (s : State) (op : Nat) : Bool := s.msgs.any fun x => x.2.holdsColl op && x.2.token ≠ 0

/-- The lead pilot reads and checks the descriptor of a COLL (R316): its acceptance is the completion point. None while no pilot
can accept it. -/
def State.acceptColl (s : State) (op : Nat) : State :=
  match s.ops.get? op with
  | none => s
  | some o =>
    match o.kind, s.team? o.owner.team with
    | .coll key, some t =>
      (match s.fab.colls.get? key, s.leadPilot (dieOf t.coreN) with
      | some c, some lead =>
        if !s.allDone o.need || s.collHeld op then s
        else
          let s := { s with msgs := s.msgs.filter fun x => !x.2.holdsColl op }
          let m := { mkMsg o.owner t (t.groups[o.owner.grp]?.getD (Shape.startGroup t.shape 0 0 0 0 .active)) (some op) 0 0 0 0xFF c.addr (.get 0 0) with hdr := o.hdr, slot := o.slot }
          match s.readOwn m c.addr 32 with
          | .error (.missing va) =>
            let (tok, s) := s.requestPage t.ctx 0 va
            let (id, s) := s.fresh
            { s with msgs := s.msgs.put id { m with token := tok, state := .done } }
          | .error (.fault e _ a) => s.fatal o.owner { code := e, detail := 0xFF, slot := some o.slot, hdr := some o.hdr, addr := a }
          | .ok (bs, s) =>
            if s.descGood t.coreN lead (CollDesc.parse bs) then (s.updColl key fun c => { c with desc := bs }).retireOp op
            else s.fatal o.owner
              { code := .collAbort, slot := some o.slot, hdr := some o.hdr, addr := c.addr, bytes := bs.take 64 }
      | _, _ => s)
    | _, _ => s

/-- The participants' torus coordinates (R291, R319): none for one outside the own pod. -/
def State.partCoords (s : State) (d : CollDesc) : List (Option (Nat × Nat × Nat)) :=
  (List.range d.parts).map fun k =>
    match s.fab.chart with
    | none => none
    | some ch => (ch.runOf (d.rankOf k)).bind fun r => if r.pod = ch.pod then ch.placement (r.pos + (d.rankOf k - r.first)) else none

/-- The own participant index. -/
def State.ownPart (s : State) (c : Coll) : Nat := ((CollDesc.parse c.desc).indexOf s.rank).getD 0

/-- PLAN_START (R313, R316): the running pilots whose slot holds the plan are called, each with its own copy of the descriptor in its memory;
where that stands is open (log entry 91). -/
def execPlanStart (coll : Nat) (s : State) : Host.Outcome State Fault Refusal :=
  match s.fab.colls.get? coll with
  | none => .next s
  | some c =>
    if c.started || c.desc.isEmpty || c.status.isSome then .next s
    else
      let d := CollDesc.parse c.desc
      let ps := s.running.filter fun n => ((s.pilot n).plans[d.slot]?.join).isSome
      if ps.isEmpty then .next s
      else
        let xyz : Nat := match s.fab.chart.bind Chart.own with
          | some (x, y, z) => x + 16 * y + 256 * z
          | none => 0
        let mask := ps.foldl (fun m n => m + 2 ^ n) 0
        let at_ (n : Nat) : Nat := Config.descCopy n coll % 512 * 128
        let s := s.updColl coll fun c =>
          { c with started := true, pilots := ps, descAt := ps.map fun n => (n, at_ n),
                   args := [BitVec.ofNat 64 (s.ownPart c), BitVec.ofNat 64 d.parts, BitVec.ofNat 64 c.seq,
                            BitVec.ofNat 64 mask, BitVec.ofNat 64 xyz] }
        .next (ps.foldl (fun s n => s.updPilot n fun p => { p with mem := p.mem.writeN (at_ n) c.desc }) s)

/-- The status of R318. -/
def collStatus (index rank code : Nat) : DWord := BitVec.ofNat 64 (index % 2 ^ 32 * 2 ^ 32 + rank % 2 ^ 24 * 256 + code)

/-- A collective ends with the aborted status (R312, R318). -/
def State.abortColl (s : State) (coll index rank : Nat) : State :=
  s.updColl coll fun c => { c with status := some (collStatus index rank 0x51), pilots := [] }

/-- PLAN_FAULT (R312): the plan stops on the pilot, and the collective ends with the aborted status. -/
def execPlanFault (coll pilot : Nat) (s : State) : Host.Outcome State Fault Refusal :=
  match s.fab.colls.get? coll with
  | none => .next s
  | some c =>
    if c.started && c.status.isNone && c.pilots.contains pilot then
      .next (s.abortColl coll 0 (s.ownPart c))
    else .next s

/-- A message of a pilot command. -/
def cmdMsg (key ctx rank region off : Nat) (va : DWord) (kind : MsgKind) : Msg :=
  { inbound := false, rank := rank, region := region, off := off, kind := kind, state := .queued, owner := none, ctx := ctx,
    op := none, copy := none, team := none, port := 0, seq := 0, resends := 0, firstSent := 0, lastSent := 0, after := [],
    va := va.toNat, lane := 0xFF, hdr := 0, slot := 0, token := 0, reply := none, cmd := some key }

/-- A message of a collective, from the X-die of one of its pilots. -/
def collMsg (key : Nat) (c : Coll) (rank region off : Nat) (va : DWord) (kind : MsgKind) : Msg :=
  { cmdMsg 0 c.ctx rank region off va kind with
    cmd := none, coll := some key, die := dieOfPilot ((c.descAt.head?.map (·.1)).getD 0) }

/-- The signal counter of a completed collective is incremented by 1 (R317): here at once, unless its page is missing or its frame is moving, or by
a message to its rank. -/
def State.collSignal (s : State) (key : Nat) (c : Coll) : State :=
  let d := CollDesc.parse c.desc
  if d.counter = 0 then s
  else
    match s.ctxUnit c.ctx 8 { write := true, atom := true } d.counter with
    | .error (.fault e _ a) => s.fatalCtx c.ctx (s.engineFault e 0xFF a)
    | .ok (.far rank reg off _) => (s.addMsg (collMsg key c rank reg off d.counter (.atom 0 8 1 0 63))).2
    | _ =>
      let m := { collMsg key c s.rank 0 0 d.counter (.atom 0 8 1 0 63) with loc := true }
      let (id, s) := s.addMsg m
      s.performLocal id m

/-- The collective that a command of a pilot's window serves: the one whose plan wrote its GO, else one that runs there (R314). -/
def State.collOn (s : State) (pilot slot : Nat) : Option (Nat × Coll) :=
  let here (k : Nat) (c : Coll) : Bool := c.started && c.status.isNone && c.pilots.contains pilot
    && (match (s.pilot pilot).goBy.get? slot with | some x => x = k | none => true)
  s.fab.colls.find? fun (k, c) => here k c

/-- The context of a rank ends that finds a NaN or an infinity in element `index`, at an address, or 0 for a partial result (R320). -/
def State.collNan (s : State) (c : Coll) (index : Nat) (a : DWord) : State := s.fatalCtx c.ctx (s.engineFault .collNan index a)

/-- A collective that runs: its plan has been called, and it has not completed. -/
def Coll.runs (c : Coll) : Bool := c.started && c.status.isNone

/-- The page under which the pilots of a collective wait: a message that never leaves (R305). -/
def Msg.holdsPage (coll : Nat) (m : Msg) : Bool := !m.inbound && m.coll = some coll && m.kind = .get 0 0

/-- The pilots of a collective wait for a page of the own source (R305). -/
def State.collPage (s : State) (coll ctx va : Nat) : State :=
  let (tok, s) := s.requestPage ctx 0 va
  let (id, s) := s.fresh
  { s with msgs := s.msgs.put id { cmdMsg 0 ctx 0 0 0 (BitVec.ofNat 64 va) (.get 0 0) with cmd := none, coll := some coll, token := tok, state := .done } }

/-- Reads elements of the own source, each as the COLL's team would, or, once it has retired, as its context would. -/
def State.readElems (s : State) (c : Coll) (w : Nat) (a : DWord) : Nat → Except UnitErr (List Nat × State)
  | 0 => .ok ([], s)
  | n + 1 =>
    let unit := match s.team? c.team with
      | some t => s.checkUnit t w { write := false } a
      | none => s.ctxUnit c.ctx w { write := false } a
    let got : Except UnitErr (List Byte × State) := match unit with
      | .error e => .error e
      | .ok (.far _ _ _ _) => .error (.fault .tier 0 a)
      | .ok (.spad x) => .ok (s.spad.readN x w, s)
      | .ok (.phys p _ _) => if s.isLost p.pa then .error (.fault .dataLost 0 a) else .ok (s.performRead none p.nc p.pa w)
    match got with
    | .error e => .error e
    | .ok (bs, s) =>
      match State.readElems s c w (a + BitVec.ofNat 64 w) n with
      | .ok (vs, s) => .ok (leNat bs :: vs, s)
      | .error e => .error e

/-- The pilots read and check the own source (R320): at a NaN or an infinity the context ends. Which of several they find first is open. -/
def State.collRead (s : State) (coll : Nat) : State :=
  match s.fab.colls.get? coll with
  | none => s
  | some c =>
    if !c.runs || c.src.isSome || s.msgs.any (fun x => x.2.holdsPage coll && x.2.token ≠ 0) then s
    else
      let s := { s with msgs := s.msgs.filter fun x => !x.2.holdsPage coll }
      let d := CollDesc.parse c.desc
      match s.readElems c d.esize d.src d.n with
      | .error (.missing va) => s.collPage coll c.ctx va
      | .error (.fault e _ a) => s.fatalCtx c.ctx (s.engineFault e 0xFF a)
      | .ok (vs, s) =>
        let bads := (List.range vs.length).filter fun i => d.bad (vs[i]?.getD 0)
        if bads.isEmpty then s.updColl coll fun c => { c with src := some vs }
        else
          let (v, s) := s.drawFree
          let i := (bads[v.toNat % bads.length]?).getD 0
          s.collNan c i (d.src + BitVec.ofNat 64 (i * d.esize))

/-- What another participant brings: a digest of the shared fields that differs from the own one aborts the collective (R316). -/
def State.collPeer (s : State) (coll k : Nat) (shared : List Byte) (src : List Nat) : State :=
  match s.fab.colls.get? coll with
  | none => s
  | some c =>
    if !c.runs || k = s.ownPart c || (CollDesc.parse c.desc).parts ≤ k || c.peers.any (·.1 = k) then s
    else if Config.digest 1 shared ≠ Config.digest 1 (sharedBytes c.desc) then s.abortColl coll 0 k
    else s.updColl coll fun c => { c with peers := c.peers.put k src }

/-- Another participant halts a collective (R312, R318, R320). -/
def State.collHalt (s : State) (coll k index : Nat) : State :=
  match s.fab.colls.get? coll with
  | none => s
  | some c => if c.runs && k ≠ s.ownPart c && k < (CollDesc.parse c.desc).parts then s.abortColl coll index k else s

/-- The sources of all participants, once all are there. -/
def Coll.sources (c : Coll) (own parts : Nat) : Option (List (List Nat)) :=
  match c.src with
  | none => none
  | some vs =>
    if (List.range parts).all fun k => k = own || c.peers.any (·.1 = k) then
      some ((List.range parts).map fun k => if k = own then vs else (c.peers.get? k).getD [])
    else none

/-- The collective's slot holds one of the plans that are shipped (R319). -/
def State.shipped (s : State) (c : Coll) : Bool :=
  c.descAt.any fun (n, _) => ((s.pilot n).plans[(CollDesc.parse c.desc).slot]?.join).any Config.shippedPlan

/-- Who halts a collective of a shipped plan whose sources are all there, and at which element: the own rank at a partial result, or another
participant. Which of several comes first is a matter of timing (R320). -/
def CollDesc.halts (d : CollDesc) (dims : List RingDim) (srcs : List (List Nat)) (own : Nat) : List (Nat × Nat) :=
  (badPartials d dims srcs own).map (own, ·)
    ++ (List.range d.parts).flatMap fun k => if k = own then [] else (haltsOf d dims srcs k).map (k, ·)

/-- The pilots of a shipped plan have every source: they form the result, checking the partial results that this rank forms, and send it to the
destination, in units (R319, R320). A context that may not reach other ranks ends when they send the source (R424). -/
def State.collPlace (s : State) (coll : Nat) : State :=
  match s.fab.colls.get? coll with
  | none => s
  | some c =>
    let d := CollDesc.parse c.desc
    let own := s.ownPart c
    if !c.runs || c.places.isSome || !s.shipped c || c.src.isNone then s
    else if 1 < d.parts && !((s.ctx? c.ctx).map (·.fabric)).getD true then s.fatalCtx c.ctx (s.engineFault .tier 0xFF 0)
    else
      match c.sources own d.parts with
      | none => s
      | some srcs =>
        let dims := ringDims (s.partCoords d)
        match d.halts dims srcs own with
        | [] =>
          match d.result dims srcs with
          | none => s.updColl coll fun c => { c with places := some [] }
          | some vs =>
            let m := { collMsg coll c s.rank 0 0 d.dst (.put (vs.flatMap (leBytes d.esize))) with loc := true }
            let (id, s) := s.addMsg m
            s.updColl coll fun c => { c with places := some [id] }
        | x :: xs =>
          let (v, s) := s.drawFree
          let (k, i) := ((x :: xs)[v.toNat % (xs.length + 1)]?).getD x
          if k = own then s.collNan c i 0 else s.abortColl coll i k

/-- A collective may complete once its last plan returns: the source has been read, and a shipped plan's result is placed (R318). -/
def State.collDone (s : State) (c : Coll) : Bool :=
  c.src.isSome && (!s.shipped c || c.places.any s.allDone)

/-- PLAN_RETURN (R318, R320): a pilot's plan returns. With all of them back, and the writes performed, the collective completes; a plan that
does not return 0 halts it, at no element; a plan that is not a shipped one may have formed a NaN or an infinity then: which element it names
is free. -/
def execPlanReturn (coll pilot : Nat) (result : DWord) (s : State) : Host.Outcome State Fault Refusal :=
  match s.fab.colls.get? coll with
  | none => .next s
  | some c =>
    if !(c.runs && c.pilots.contains pilot) then .next s
    else if result = 0 then
      let busy := s.fab.pilotCmds.any fun (_, x) => x.coll = coll && x.pilot = pilot
      let rest := c.pilots.filter (· ≠ pilot)
      if busy then .next s
      else if !rest.isEmpty then .next (s.updColl coll fun c => { c with pilots := rest })
      else if s.collDone c then
        .next ((s.updColl coll fun c => { c with pilots := [], status := some (collStatus 0 0 0) }).collSignal coll c)
      else .next s
    else
      let (v, s) := s.drawFree
      if v.getLsbD 0 && (CollDesc.parse c.desc).ty < 2 && !s.shipped c then .next (s.collNan c (bitsOf v.toNat 63 32) 0)
      else .next (s.abortColl coll 0 (s.ownPart c))

/-- How a plan reaches pilot memory. -/
inductive PlanAccess where
  | read
  | write
  | execute
  deriving DecidableEq, Repr

/-- What plans may do in pilot memory (R312): the plan in slot `slot`, at `n` bytes from `addr`. -/
def planMay (slot addr n : Nat) (k : PlanAccess) : Bool :=
  let inside (lo len : Nat) : Bool := lo ≤ addr && addr + n ≤ lo + len
  (inside 0 0x10000 && k ≠ .write) || inside (0x10000 + 24576 * slot) 24576 || (inside 0x10000000 4096 && k ≠ .execute)

/-- The plan of a collective reaches its pilot's memory: an access outside the table of R312 stops it, and the collective is aborted (R318). -/
def State.planAccess (s : State) (coll pilot addr n : Nat) (k : PlanAccess) (f : State → State) : State :=
  match s.fab.colls.get? coll with
  | none => s
  | some c =>
    if !(c.runs && c.pilots.contains pilot) then s
    else if planMay (CollDesc.parse c.desc).slot addr n k then f s
    else s.abortColl coll 0 (s.ownPart c)

/-- The plan of a collective loads from its pilot's memory, or executes there: what it does with the bytes is its own (log entry 37). -/
def State.pilotLoad (s : State) (coll pilot addr n : Nat) (exec : Bool) : State :=
  s.planAccess coll pilot addr n (if exec then .execute else .read) id

/-- The slots of the command window whose GO lies among `n` bytes from `addr` (R314). -/
def goSlots (addr n : Nat) : List Nat := (List.range 64).filter fun k => overlaps addr n (0x10000000 + 64 * k + 0x34) 4

/-- A store of a pilot into its memory, by its firmware or by the plan of a collective (R312). The pilot holds which collective's plan wrote a GO
last. -/
def State.pilotStore (s : State) (plan : Option Nat) (pilot addr : Nat) (bs : List Byte) : State :=
  let put (s : State) : State := s.updPilot pilot fun x => { x with mem := x.mem.writeN addr bs }
  match plan with
  | none => put s
  | some coll =>
    s.planAccess coll pilot addr bs.length .write fun s =>
      (put s).updPilot pilot fun x => { x with goBy := (goSlots addr bs.length).foldl (fun t k => t.put k coll) x.goBy }

/-- The words of the L1 of a core that hold bytes of a local range and are not owned leave it: the acquire of COLLWAIT over its
destination (R125). -/
def State.acquireRange (s : State) (t : Team) (a : DWord) (n : Nat) : State :=
  let pieces := s.bufferPieces t a n
  let inside (pa : Nat) : Bool := pieces.any fun x => !x.1 && overlaps x.2.1 x.2.2 pa 4
  { s with l1 := s.l1.filter fun (k, w) =>
      k / 2 ^ 40 ≠ t.coreN || !inside (4 * (k % 2 ^ 40)) || (match w with | .v _ => false | _ => true) }

/-- The result of a COLLWAIT whose collective has completed is there, and with CODE 0 the COLLWAIT acquires: its destination, and the versions
of sealed pages (R117, R125, R318). -/
def State.formCollwait (s : State) (op : Nat) : State :=
  match s.ops.get? op with
  | none => s
  | some o =>
    match o.kind, s.team? o.owner.team with
    | .collwait key dst, some t =>
      let status : Option (DWord × Option CollDesc) := match key with
        | none => some (collStatus 0 0 0xFF, none)
        | some k =>
          (match s.fab.colls.get? k with
          | some c => c.status.map fun st => (st, some (CollDesc.parse c.desc))
          | none => some (collStatus 0 0 0xFF, none))
      (match status with
      | none => s
      | some (st, d) =>
        let code := st.toNat % 256
        if dst = 63 && code = 0x51 then
          s.fatal o.owner { code := .collAbort, slot := some o.slot, hdr := some o.hdr, detail := 0xFF }
        else
          let s := match d with
            | some d => if code = 0 then (s.acquireRange t d.dst d.dstBytes).updGroup o.owner Group.acquired else s
            | none => s
          { s with ops := s.ops.put op { o with kind := .plain, need := [], writes := if dst = 63 then [] else [.s dst st] } })
    | _, _ => s

/-! ### The command window (R314) -/

/-- Pilot address of a slot of the command window. -/
def slotAt (n : Nat) : Nat := 0x10000000 + 64 * n

/-- A field of a command slot. -/
def State.cmdField (s : State) (pilot slot off n : Nat) : Nat := (s.pilot pilot).mem.num (slotAt slot + off) n

/-- Writes a field of a command slot. -/
def State.setCmdField (s : State) (pilot slot off n x : Nat) : State :=
  s.updPilot pilot fun p => { p with mem := p.mem.writeN (slotAt slot + off) (leBytes n x) }

/-- A message of a pilot command toward an address. -/
def State.cmdMsgTo (s : State) (key ctx : Nat) (a : DWord) (kind : MsgKind) : Msg :=
  let die := dieOfPilot (((s.fab.pilotCmds.get? key).map (·.pilot)).getD 0)
  match s.where_ 0 a 4 with
  | .ok (.far rank reg off _) => { cmdMsg key ctx rank reg off a kind with die := die }
  | _ => { cmdMsg key ctx s.rank 0 0 a kind with loc := true, die := die }

/-- Changes a command. -/
def State.updCmd (s : State) (key : Nat) (f : PilotCmd → PilotCmd) : State :=
  { s with fab := { s.fab with pilotCmds := s.fab.pilotCmds.upd key f } }

/-- A command waits for a page under a token of its own (R305). -/
def State.cmdPage (s : State) (key ctx kind va : Nat) : State :=
  let (tok, s) := s.requestPage ctx kind va
  s.updCmd key fun x => { x with token := tok, pageVa := va }

/-- A command waits for a message. -/
def State.cmdSend (s : State) (key : Nat) (m : Msg) : State :=
  let (id, s) := s.addMsg m
  s.updCmd key fun x => { x with ids := x.ids ++ [id] }

/-- A command that R304 or R314 refuses: its SUB, its flag byte, TYPE, MOD or IMM24. -/
def badCmd (sub flags ty md imm : Nat) : Bool :=
  5 < sub || 16 ≤ flags || (bitAt flags 1 && 1 < sub) || (bitAt flags 0 && sub ≠ 2)
  || (if sub = 1 then imm = 0 || 2 ^ 24 ≤ imm else imm ≠ 0)
  || (if sub = 3 then !(ty = 0 || ty = 6 || ty = 8) || (if ty = 0 then md ≠ 0 else 4 ≤ md || bitAt flags 3)
      else ty ≠ 0 || (if sub = 4 then 2 ≤ md else md ≠ 0) || bitAt flags 3)

/-- The checks of R196 from step 6 at every unit of `w` bytes of an own range that a command names: the first that fails (R305, R314). -/
def State.cmdRange (s : State) (ctx w : Nat) (k : AccKind) (a : DWord) (n : Nat) : Option UnitErr :=
  if s.isFar 0 a then none
  else (List.range (n / w)).findSome? fun i => match s.ctxUnit ctx w k (a + BitVec.ofNat 64 (w * i)) with | .error e => some e | .ok _ => none

/-- Addresses of other ranks in a context that may not reach them (R424). -/
def State.cmdFabric (s : State) (ctx : Nat) (xs : List DWord) : Option FaultInfo :=
  if ((s.ctx? ctx).map (·.fabric)).getD true then none else (xs.find? (s.isFar 0)).map (fabFault .tier)

/-- Sends what a command asks for (R314): the effect and the checks of the instruction with the same SUB. What the pilots send, they have
checked: the source has been read first (R320). -/
def State.runCmd (s : State) (key : Nat) (x : PilotCmd) (ctx : Nat) : State :=
  let fld (off n : Nat) := s.cmdField x.pilot x.slot off n
  let sub := fld 0 1
  let flags := fld 3 1
  let aPilot := bitAt flags 0
  let bPilot := bitAt flags 1
  let a : DWord := BitVec.ofNat 64 (fld 8 8)
  let b : DWord := BitVec.ofNat 64 (fld 0x10 8)
  let n := fld 0x18 8 % 2 ^ 32
  let d : DWord := BitVec.ofNat 64 (fld 0x20 8)
  let imm := fld 4 4 % 2 ^ 24
  let w := if bitAt flags 3 then 8 else 4
  let err (c : FaultCode) (x : DWord) : State := s.cmdFail key c x.toNat
  let far (x : DWord) : Bool := s.isFar 0 x
  let bad (xs : List (Option FaultInfo)) : Option FaultInfo := firstFault xs
  let pieces (x : DWord) : List (Nat × Nat) := fabPieces x.toNat n (s.pieceCut 0 x)
  let owner (k : MsgKind) : Msg := cmdMsg key ctx s.rank 0 0 a k
  if badCmd sub flags (fld 1 1) (fld 2 1) (fld 4 4) then err .illField 0
  else if sub ≤ 3 && sub ≠ 2 && !((s.fab.colls.get? x.coll).any fun c => c.src.isSome) then s
  else
    match sub with
    | 0 | 1 =>
      let checks := s.bytesBad 0 (if bPilot then [a] else [a, b]) n ++ [chk (!bPilot && far b) (fabFault .tier b)]
        ++ [s.cmdFabric ctx (if sub = 1 then [a, d] else [a])]
        ++ (if sub = 1 then s.counterBad 0 d ++ [chk (s.rankOf 0 d ≠ s.rankOf 0 a) (fabFault .illAddr d)] else [])
      let range := (s.cmdRange ctx 4 { write := true } a n).or (if sub = 1 then s.cmdRange ctx 8 { write := true, atom := true } d 8 else none)
      (match bad checks, range with
      | some e, _ => err e.code e.addr
      | none, some (.fault c _ y) => err c y
      | none, some (.missing va) => s.cmdPage key ctx 1 va
      | none, none =>
        let data : Except UnitErr (List Byte × State) :=
          if bPilot then .ok ((s.pilot x.pilot).mem.readN b.toNat n, s) else s.readOwn (owner (.put [])) b (n / 4)
        match data with
        | .error (.fault c _ y) => err c y
        | .error (.missing va) => s.cmdPage key ctx 0 va
        | .ok (bs, s) =>
          let s := (pieces a).foldl (fun s (o, k) =>
            s.cmdSend key (s.cmdMsgTo key ctx (a + BitVec.ofNat 64 o) (.put ((bs.drop o).take k)))) s
          let ids := ((s.fab.pilotCmds.get? key).map (·.ids)).getD []
          let s := if sub = 1 then s.cmdSend key { s.cmdMsgTo key ctx d (.atom 0 8 (BitVec.ofNat 64 imm) 0 63) with after := ids } else s
          s.updCmd key fun x => { x with sent := true })
    | 2 =>
      (match bad (s.bytesBad 0 (if aPilot then [b] else [a, b]) n ++ [chk (!aPilot && far a) (fabFault .tier a), s.cmdFabric ctx [b]]),
          if aPilot then none else s.cmdRange ctx 4 { write := true } a n, s.cmdRange ctx 4 { write := false } b n with
      | some e, _, _ => err e.code e.addr
      | none, some (.fault c _ y), _ | none, none, some (.fault c _ y) => err c y
      | none, some (.missing va), _ => s.cmdPage key ctx 1 va
      | none, none, some (.missing va) => s.cmdPage key ctx 0 va
      | none, none, none =>
        let s := (pieces b).foldl (fun s (o, k) =>
          s.cmdSend key (s.cmdMsgTo key ctx (b + BitVec.ofNat 64 o) (.get k (a + BitVec.ofNat 64 o)))) s
        s.updCmd key fun x => { x with sent := true })
    | 3 =>
      let ty := fld 1 1
      let md := fld 2 1
      let seq : Bool := ty = 6 || ty = 8
      let first := bitAt md 0
      let c : Contrib :=
        { ctx := ctx, world := s.ctxWorld ctx, unit := 0, index := if first then 0 else n % 2 ^ 24, bf16 := ty = 8,
          value := b.extractLsb' 0 32, first := first, last := bitAt md 1, owner := none, op := none, copy := none, held := false,
          waits := false, stalled := false, va := a.toNat, hdr := 0, slot := 0, since := s.ref, cmd := some key }
      (match bad [s.formBad 0 a, chk (regionOf a = some 1 && (seq || w ≠ 8)) (fabFault .pageProt a),
          chk (a.toNat % w ≠ 0) (fabFault .align a)] with
      | some e => err e.code e.addr
      | none =>
        let sent (s : State) : State := s.updCmd key fun x => { x with sent := true }
        match s.ctxUnit ctx w { write := true, atom := true, seq := seq } a with
        | .error (.fault c _ y) => err c y
        | .error (.missing va) => s.cmdPage key ctx 1 va
        | .ok (.far _ _ _ _) => sent (s.cmdSend key (s.cmdMsgTo key ctx a (if seq then .contrib c else .atom 0 w b 0 63)))
        | .ok (.phys p _ _) =>
          if seq then
            let (k, s) := s.fresh
            let s := { s with contribs := s.contribs.put k { c with unit := p.pa, phase := s.routePhase p.pa } }
            sent (s.updCmd key fun x => { x with ids := x.ids ++ [k] })
          else
            let m := { s.cmdMsgTo key ctx a (.atom 0 w b 0 63) with loc := true }
            let (id, s) := s.addMsg m
            sent ((s.updCmd key fun x => { x with ids := x.ids ++ [id] }).performLocal id m)
        | .ok (.spad _) => err .illAddr a)
    | 4 =>
      (match bad (s.counterBad 0 a ++ [chk (far a) (fabFault .tier a)]) with
      | some e => err e.code e.addr
      | none =>
        match s.ctxUnit ctx 8 { write := false } a with
        | .error (.fault c _ y) => err c y
        | .error (.missing va) => s.cmdPage key ctx 0 va
        | .ok _ =>
          if s.counterLost 0 ctx a then err .dataLost a
          else s.updCmd key fun x => { x with sent := true, wait := some (a, b.toNat, bitAt (fld 2 1) 0) })
    | _ =>
      (match bad (s.counterBad 0 a ++ [s.cmdFabric ctx [a]]) with
      | some e => err e.code e.addr
      | none =>
        let sent (s : State) : State := s.updCmd key fun x => { x with sent := true }
        if far a then sent (s.cmdSend key (s.cmdMsgTo key ctx a (.read [⟨0, 8, false, 0, 0xFF⟩])))
        else
          match s.ctxUnit ctx 8 { write := false } a with
          | .error (.fault c _ y) => err c y
          | .error (.missing va) => s.cmdPage key ctx 0 va
          | .ok _ =>
            match s.counterAt 0 ctx a with
            | some v => s.updCmd key fun x => { x with sent := true, result := some v }
            | none => err .dataLost a)

/-- PILOT_COMMAND (R314): GO issues a slot; a command that has been issued is sent once its release holds, and ends when all of it
is done. -/
def execPilotCommand (pilot slot : Nat) (s : State) : Host.Outcome State Fault Refusal :=
  if 64 ≤ slot then .next s
  else
    match s.fab.pilotCmds.find? fun (_, x) => x.pilot = pilot && x.slot = slot with
    | some (key, x) =>
      let ctx := (s.fab.colls.get? x.coll).map (·.ctx)
      if !x.sent then .next (match ctx with | some c => if x.token = 0 && x.after.all (fun k => (s.fab.pilotCmds.get? k).isNone) then s.runCmd key x c else s | none => s)
      else if s.allDone x.ids && (x.wait.isNone || x.result.isSome) then
        let s := { s with fab := { s.fab with pilotCmds := s.fab.pilotCmds.del key } }
        let s := match x.result with
          | some v => if 4 ≤ s.cmdField pilot slot 0 1 then s.setCmdField pilot slot 0x28 8 v else s
          | none => s
        .next (s.setCmdField pilot slot 0x30 4 2)
      else .next s
    | none =>
      let st := (s.pilot pilot).state
      match s.collOn pilot slot with
      | some (coll, _) =>
        if (st = 3 || st = 4) && s.cmdField pilot slot 0x34 4 = 1 then
          let (key, s) := s.fresh
          let earlier := (s.fab.pilotCmds.filter fun (_, x) => x.pilot = pilot && x.coll = coll).map (·.1)
          let release := bitAt (s.cmdField pilot slot 3 1) 2
          let x : PilotCmd :=
            { pilot := pilot, slot := slot, coll := coll, ids := [], after := if release then earlier else [], sent := false,
              wait := none, result := none, token := 0 }
          let s := { s with fab := { s.fab with pilotCmds := s.fab.pilotCmds.put key x } }
          .next ((s.setCmdField pilot slot 0x30 4 1).setCmdField pilot slot 0x34 4 0)
        else .next s
      | none => .next s

end Sys2Proof.Machine
end

