-- ==== Sys2Proof/Machine/Place.lean ====
section
/-! DEFINITION. Launch headers (12_tasks.md R353 to R356), the resources of a core that a team takes (01_machine.md R13 to R15,
R456; 05_sequencer.md R128, R129, R149; 07_load_store.md R222; 09_matrix.md R262) and the setting up of a team (R357). -/
namespace Sys2Proof.Machine
open Sys2Proof

/-! ### Reading memory for the task engine (R353, R455) -/

/-- The error of reading a range byte by byte in a context, a lost line included. -/
inductive EngErr where
  | missing (va : Nat)
  | fault (c : FaultCode) (va : Nat)
  deriving DecidableEq, Repr

/-- Bytes of a local virtual range, read by the task engine in the world of a context (R353, R455). -/
def State.engRead (s : State) (ctx va n : Nat) (acc : Acc) : Except EngErr (List Byte) :=
  let world := s.ctxWorld ctx
  match s.xlateRange none ctx world va acc n with
  | .error (.missing, a) => .error (.missing a)
  | .error (.fault c _, a) => .error (.fault c a)
  | .ok (ps, _) =>
    match ps.find? s.isLost with
    | some _ => .error (.fault .dataLost va)
    | none => .ok (ps.map fun p => (s.combine p 1).mem.read p)

/-- Writes bytes of a local virtual range for the task engine (R455). -/
def State.engWrite (s : State) (ctx va : Nat) (bs : List Byte) : Except EngErr State :=
  let world := s.ctxWorld ctx
  match s.xlateRange none ctx world va .write bs.length with
  | .error (.missing, a) => .error (.missing a)
  | .error (.fault c _, a) => .error (.fault c a)
  | .ok (ps, _) =>
    match ps.find? s.isLost with
    | some _ => .error (.fault .dataLost va)
    | none => .ok (s.writeBytes none ps bs)

/-! ### Headers -/

/-- What a launch command, launch block or descriptor gives in place of the header's values; 0 for the header's (R355). -/
structure Override where
  g : Nat := 0
  v : Nat := 0
  roles : Nat := 0
  kib : Nat := 0
  deriving DecidableEq, Repr

/-- One declaration record from its 32 bytes (R354). -/
def Decl.parse (b : List Byte) : Decl :=
  { kind := bytesNum b 0 1, id := bytesNum b 1 1, b2 := bytesNum b 2 2, w4 := bytesNum b 4 4, w8 := bytesNum b 8 4,
    b10 := bytesNum b 0x10 4, q8 := bytesNum b 8 8 }

/-- The bytes of a record that its kind names (R354). -/
def namedBytes (kind : Nat) : List Nat :=
  match kind with
  | 1 => [0, 1, 2] ++ List.range' 4 4
  | 2 => [0, 1, 2] ++ List.range' 4 8
  | 3 => List.range 8
  | 4 => [0, 1] ++ List.range' 4 12
  | 5 => List.range 3
  | 6 => [0, 1] ++ List.range' 8 8
  | _ => [0, 1] ++ List.range' 4 16

/-- The bytes of a record that its kind does not name are zero (R354).
DEDUCED (log entry 9): a record that breaks this is refused under check 3. -/
def restZero (r : List Byte) : Bool :=
  ((List.range 32).all fun k => (namedBytes (bytesNum r 0 1)).contains k || bytesNum r k 1 = 0)

/-- The outcome of a header: its shape, a page to wait for, or the number of the check that refuses it (R355, R356). -/
inductive HdrRes where
  | ok (x : Shape)
  | missing (va : Nat)
  | refused (detail : Nat)
  deriving DecidableEq, Repr

/-- Check 2 on the fixed part (R353, R355). -/
def fixedBad (b : List Byte) : Bool :=
  let g := bytesNum b 0x07 1
  let v := bytesNum b 0x08 1
  let roles := bytesNum b 0x10 8
  let declared := bitAt (bytesNum b 0x09 1) 0
  g = 0 || 32 < g || v < 16 || 64 < v || v % 8 ≠ 0 || 1 < bytesNum b 0x09 1
  || bytesNum b 0x0C 4 % 1024 ≠ 0 || 2048 * 1024 < bytesNum b 0x0C 4
  || (!declared && roles ≠ 0) || 1024 < bytesNum b 0x18 2 || bytesNum b 0x1A 6 ≠ 0
  || !cvmOk (BitVec.ofNat 64 (bytesNum b 0x20 8))
  || bytesNum b 0x28 8 % 4 ≠ 0 || 2 ^ 56 ≤ bytesNum b 0x28 8
  || 3 < bytesNum b 0x30 1 || (b.drop 0x31).take 15 ≠ List.replicate 15 0

/-- Check 2 on the values that the launch puts in place of the header's. -/
def overrideBad (b : List Byte) (o : Override) : Bool :=
  32 < o.g || (o.v ≠ 0 && (o.v < 16 || 64 < o.v || o.v % 8 ≠ 0))
  || (o.kib ≠ 0 && (2048 < o.kib || o.kib * 1024 < bytesNum b 0x0C 4))

/-- The core list of a chain record: 2 to 8 distinct cores 0 to 7, then 0xFF (R99). -/
def chainBad (x : Nat) : Bool := (chainOf (BitVec.ofNat 64 x)).isNone

/-- A range in the local tier, from its first 128 bytes to its last: local virtual, or in a region of the own rank (R110, R222). -/
def State.isLocal (s : State) (a : DWord) (n : Nat) : Bool :=
  match s.where_ 0 a 128, s.where_ 0 (a + BitVec.ofNat 64 (n - 128)) 128 with
  | .ok (.virt _ r), .ok (.virt _ q) => r = q && a.toNat + n ≤ 2 ^ 64
  | _, _ => false

/-- A record against the ranges of R99, R149, R222 and R354. -/
def State.declBad (s : State) (task : Bool) (d : Decl) : Bool :=
  match d.kind with
  | 1 => 48 ≤ d.id || 2 < d.b2 % 256 || d.w4 = 0 || (d.b2 % 256 = 1 && 256 < d.w4) || (d.b2 % 256 = 2 && 65535 < d.w4)
  | 2 => 16 ≤ d.id || d.b2 % 256 < 2 || 16 < d.b2 % 256 || d.w4 < 256 || 262144 < d.w4 || d.w4 % 256 ≠ 0 || d.w8 % 256 ≠ 0
  | 3 => 8 ≤ d.id || d.b2 < 64 || 4096 < d.b2 || d.b2 &&& (d.b2 - 1) ≠ 0 || d.w4 % 32 ≠ 0
  | 4 => 64 ≤ d.id || 65536 < d.w4 || d.w4 % 128 ≠ 0 || d.q8 % 128 ≠ 0 || !s.isLocal (BitVec.ofNat 64 d.q8) d.w4
  | 5 => 16 ≤ d.id
  | 6 => 16 ≤ d.id || chainBad d.q8
  | 7 => !task || 2 ≤ d.id || d.w4 % 4 ≠ 0 || d.q8 % 4 ≠ 0 || d.b10 % 4 ≠ 0
  | _ => true

/-- Bytes of a ring. -/
def Decl.ringEnd (d : Decl) : Nat := d.w8 + d.b2 % 256 * d.w4

/-- Check 3: kinds, ranges, repeated ids, more than four ranges of a lock, rings that overlap (R99, R355). -/
def State.declsBad (s : State) (task : Bool) (ds : List Decl) : Bool :=
  let rings := ds.filter (·.kind = 2)
  ds.any (s.declBad task)
  || ds.any (fun d => (if d.kind = 4 then 4 else 1) < (ds.filter fun e => e.kind = d.kind && e.id = d.id).length)
  || ((List.range rings.length).any fun i => (List.range i).any fun j =>
      match rings[i]?, rings[j]? with
      | some a, some b => overlaps a.w8 (a.b2 % 256 * a.w4) b.w8 (b.b2 % 256 * b.w4)
      | _, _ => false)

/-- Check 4, against the effective values (R355): a cluster barrier also needs cluster placement (R149). -/
def Shape.declsBad (x : Shape) (cluster : Bool) : Bool :=
  (x.decls.any fun d => match d.kind with
    | 1 => (d.b2 % 256 = 0 && x.g < d.w4) || (d.b2 % 256 = 1 && !cluster)
    | 2 => x.mem < d.ringEnd
    | 3 => x.mem < d.w4 + 32 * d.b2
    | 7 => x.mem < d.b10 + d.w4
    | _ => false)
  || x.roles / 4 ^ x.g ≠ 0

/-- The effective shape of a header under a launch's values. -/
def effShape (b : List Byte) (ds : List Decl) (o : Override) : Shape :=
  { g := if o.g = 0 then bytesNum b 0x07 1 else o.g, v := if o.v = 0 then bytesNum b 0x08 1 else o.v,
    roles := if o.roles = 0 then bytesNum b 0x10 8 else o.roles, tiles := BitVec.ofNat 16 (bytesNum b 0x0A 2),
    mem := if o.kib = 0 then bytesNum b 0x0C 4 else o.kib * 1024, cvm := BitVec.ofNat 64 (bytesNum b 0x20 8),
    trapvec := BitVec.ofNat 64 (bytesNum b 0x28 8), cfg := BitVec.ofNat 64 (bytesNum b 0x30 1), decls := ds }

/-- The header below an entry PC and its records pass through the capacity-tier cache as they are read (R353, R400). -/
def State.passHeader (s : State) (ctx : Nat) (entry : DWord) : State :=
  let w := s.ctxWorld ctx
  let s := s.passRead none ctx w (entry.toNat - 64) .fetch 64
  match s.engRead ctx (entry.toNat - 64) 64 .fetch with
  | .ok b => let n := min 1024 (bytesNum b 0x18 2); s.passRead none ctx w (entry.toNat - 64 - 32 * n) .fetch (32 * n)
  | .error _ => s

/-- Reads and checks the header below an entry PC (R353 to R356). -/
def State.readHeader (s : State) (ctx : Nat) (entry : DWord) (task cluster : Bool) (o : Override) : HdrRes :=
  if entry.toNat < 64 || 2 ^ 56 ≤ entry.toNat then .refused 5
  else match s.engRead ctx (entry.toNat - 64) 64 .fetch with
  | .error (.missing va) => .missing va
  | .error (.fault _ _) => .refused 5
  | .ok b =>
    let n := bytesNum b 0x18 2
    let m := if 1024 < n then 0 else n
    if entry.toNat < 64 + 32 * m then .refused 5
    else match s.engRead ctx (entry.toNat - 64 - 32 * m) (32 * m) .fetch with
    | .error (.missing va) => .missing va
    | .error (.fault _ _) => .refused 5
    | .ok recs =>
      let raw := (List.range m).map fun i => (recs.drop (32 * i)).take 32
      let ds := raw.map Decl.parse
      let x := effShape b ds o
      if bytesNum b 0 4 ≠ 0x4C487E11 || bytesNum b 4 2 ≠ 1 || bytesNum b 6 1 ≠ b2n task then .refused 1
      else if fixedBad b || overrideBad b o then .refused 2
      else if s.declsBad task ds || !raw.all restZero then .refused 3
      else if x.declsBad cluster then .refused 4
      else .ok x

/-! ### What a core holds (R14, R128, R129, R149, R262) -/

/-- The teams on a core. -/
def State.onCore (s : State) (core : Nat) : List (Nat × Team) := s.teams.filter fun (_, t) => t.core = some core

/-- Vector allocations, in registers, of the groups that a partition holds. -/
def State.allocs (s : State) (core p : Nat) : List Nat :=
  (s.onPart core p).map fun (_, t, _) => t.shape.v

/-- Groups of a shape that fall on partition `p` when its first group lies on `b` (R13). -/
def Shape.groupsOn (x : Shape) (b p : Nat) : Nat := ((List.range x.g).filter fun i => (b + i) % 8 = p).length

/-- A partition with these allocations needs a backing region (R129). -/
def needsBacking (a : List Nat) : Bool := 8 < a.length || 98304 < 384 * a.foldl (· + ·) 0

/-- The backing bytes that the groups of the teams on a partition hold (R129). -/
def State.backedOn (s : State) (core p : Nat) : Nat :=
  (s.onCore core).foldl (fun n (_, t) => n + if t.backed.getLsbD p then 384 * t.shape.v * t.shape.groupsOn t.part p else 0) 0

/-- Reserves the backing allocations of a core: every group on a partition that needs a backing region holds one until its team leaves the core
(R129). -/
def State.reserveBacking (s : State) (core : Nat) : State :=
  let need : BitVec 8 := (List.range 8).foldl (fun m p => if needsBacking (s.allocs core p) then m ||| 1#8 <<< p else m) 0
  { s with teams := s.teams.map fun (k, t) => (k, if t.core = some core then { t with backed := t.backed ||| need } else t) }

/-- Backing bytes of a partition with these allocations (R129). -/
def backingOf (a : List Nat) : Nat := if needsBacking a then 384 * a.foldl (· + ·) 0 else 0

/-- A team's bytes in the scratchpad begin at a multiple of 4 KiB (R254) and stand clear of the others. -/
def State.memClear (s : State) (core base n : Nat) : Bool :=
  base % 4096 = 0 && base + n ≤ 2 ^ 21 && (s.onCore core).all fun (_, t) => n = 0 || t.shape.mem = 0 || !overlaps t.base t.shape.mem base n

/-- The physical tiles in use on a core (R262). -/
def State.tilesUsed (s : State) (core : Nat) : List Nat := (s.onCore core).flatMap fun (_, t) => t.phys

/-- Free physical tiles, ascending. -/
def State.tilesFree (s : State) (core : Nat) : List Nat := (List.range 16).filter fun n => !(s.tilesUsed core).contains n

/-- Tiles of a mask, ascending. -/
def tilesOf (m : BitVec 16) : List Nat := (List.range 16).filter m.getLsbD

/-- Physical barriers in use on a core: the distinct barriers of its teams (R149). -/
def State.barsOn (s : State) (core : Nat) : List Nat := ((s.onCore core).flatMap fun (_, t) => t.bars.map (·.2)).eraseDups

/-- The scope number of a barrier level on a core (R149). -/
def scopeOf (level core : Nat) : Nat := if level = 1 then clusterOf core else dieOf core

/-- The shared barrier that a grid already has under an id at a place (R149). -/
def State.sharedBar (s : State) (grid : Option Nat) (id level core : Nat) : Option Nat :=
  (s.bars.find? fun (_, b) => b.level ≠ 0 && b.id = id && b.level = level && b.grid = grid && grid.isSome
    && b.scope = scopeOf level core).map (·.1)

/-- Die barrier hub entries in use on a C-die (R149). -/
def State.hubUsed (s : State) (die : Nat) : Nat :=
  (s.bars.filter fun (_, b) => (b.level = 1 && b.scope / 8 = die) || (b.level = 2 && b.scope = die)).length

/-- Barriers that a shape takes anew on a core: physical ones, and hub entries. -/
def State.newBars (s : State) (x : Shape) (grid : Option Nat) (core : Nat) : Nat × Nat :=
  let ds := x.decls.filter (·.kind = 1)
  let here := s.barsOn core
  let fresh (d : Decl) : Bool := match s.sharedBar grid d.id (d.b2 % 256) core with
    | some k => !here.contains k
    | none => true
  ((ds.filter fresh).length, (ds.filter fun d => d.b2 % 256 ≠ 0 && (s.sharedBar grid d.id (d.b2 % 256) core).isNone).length)

/-- The lock that a grid has bound to an id in a cluster (R222). -/
def State.boundLock (s : State) (grid : Option Nat) (id cluster : Nat) : Option Nat :=
  (s.locks.find? fun (_, l) => l.cluster = cluster && l.id = id && l.grid = grid && grid.isSome).map (·.1)

/-- Ids of the locks that a shape declares. -/
def Shape.lockIds (x : Shape) : List Nat := ((x.decls.filter (·.kind = 4)).map (·.id)).eraseDups

/-- Locks that a shape takes anew in a cluster. -/
def State.newLocks (s : State) (x : Shape) (grid : Option Nat) (cluster : Nat) : Nat :=
  (x.lockIds.filter fun id => (s.boundLock grid id cluster).isNone).length

/-- A core whose resources are being scrubbed takes no team (R433). -/
def State.coreScrubs (s : State) (core : Nat) : Bool :=
  s.sec.scrubs.any fun x => x.ranges.any fun r => match r with
    | .regs c _ | .tiles c _ | .spad c _ _ => c = core
    | .frame _ => false

/-- The cluster of a core is admitted (R449). -/
def State.admitted (s : State) (core : Nat) : Bool := s.hst.cladm.getLsbD (clusterOf core)

/-- Team slots that are free on a core: the lowest, if there is one (R456). -/
def State.freeSlot (s : State) (core : Nat) : Option Nat :=
  (List.range 192).find? fun n => !(s.onCore core).any fun (_, t) => t.slot = n

/-- Groups in the pending set of a partition once `n` more of `v` registers are placed: those that the active set has no room for (R128). -/
def State.pendingWith (s : State) (core p n v : Nat) : Nat :=
  let here := s.onPart core p
  let act := here.filter fun (_, _, g) => g.place = .active || g.place = .trapSlot
  let regs := act.foldl (fun n (_, t, _) => n + t.shape.v) 0
  let seats := min (8 - act.length) (if v = 0 then 8 else (256 - regs) / v)
  (here.filter fun (_, _, g) => g.place = .pending).length + (n - seats)

/-- A team of a shape has room at a site (R14, R128, R129, R149, R222, R262). `own` is the cluster of a team that returns: its shared
barriers and locks stay bound there while it is saved. -/
def State.fits (s : State) (x : Shape) (grid : Option Nat) (own : Option Nat) (site : Site) : Bool :=
  let core := site.core
  let add (p : Nat) : List Nat := s.allocs core p ++ List.replicate (x.groupsOn site.part p) x.v
  let used := (s.onCore core).foldl (fun n (_, t) => n + t.shape.mem) 0
  let backing := (List.range 8).foldl (fun n p => n + if needsBacking (add p) then backingOf (add p) else s.backedOn core p) 0
  let (bars, hub) := s.newBars x grid core
  core < 128 && site.part < 8 && s.admitted core && !s.coreScrubs core && (s.freeSlot core).isSome
  && ((List.range 8).all fun p => (add p).length ≤ 24 && s.pendingWith core p (x.groupsOn site.part p) x.v ≤ 16)
  && s.memClear core site.base x.mem && used + x.mem + backing ≤ 2 ^ 21
  && (tilesOf x.tiles).length ≤ (s.tilesFree core).length
  && (s.barsOn core).length + bars ≤ 48
  && (own.any (fun c => c / 8 = dieOf core) || s.hubUsed (dieOf core) + hub ≤ 64)
  && (own = some (clusterOf core)
      || (s.locks.filter fun (_, l) => l.cluster = clusterOf core).length + s.newLocks x grid (clusterOf core) ≤ 64)

/-- Places where team memory may begin. -/
def basesOf (core : Nat) : List Site :=
  (List.range 8).flatMap fun p => (List.range 512).map fun b => ⟨core, p, 4096 * b⟩

/-- A team of a shape has room somewhere on a core. -/
def State.fitsCore (s : State) (x : Shape) (grid : Option Nat) (own : Option Nat) (core : Nat) : Bool :=
  (basesOf core).any (s.fits x grid own)

/-- Frame slots of a context that no team holds (R350). -/
def State.freeFrame (s : State) (ctx : Nat) : Option Nat :=
  match s.ctx? ctx with
  | none => none
  | some c => (List.range c.slots).find? fun n => !s.teams.any fun (_, t) => t.ctx = ctx && t.frameSlot = n

/-- Bytes of a team's frame with `p` parked copies (R227). -/
def Shape.frameBytes (x : Shape) (p : Nat) : Nat :=
  256 + 1024 * x.g + 384 * x.v * x.g + x.mem + 24576 * (tilesOf x.tiles).length + 11264 + 128 * p + 16

/-! ### Setting up a team -/

/-- Where a group goes on its partition: the active set while it has room (R128). -/
def State.seatPlace (s : State) (core p v : Nat) : Place :=
  let act := (s.onPart core p).filter fun (_, _, g) => g.place = .active || g.place = .trapSlot
  if act.length < 8 && 384 * (act.foldl (fun n (_, t, _) => n + t.shape.v) 0 + v) ≤ 98304 then .active else .pending

/-- A group enters the queue of its partition's trap slot, in the order in which the traps were raised (R155). -/
def State.queueTrap (s : State) (core p : Nat) (r : GRef) (raised : Nat) : State :=
  let x := s.part core p
  let before (q : GRef) : Bool := (s.group? q).any fun (g : Group) => g.trapAt ≤ raised
  s.putPart core p { x with trapQueue := x.trapQueue.takeWhile before ++ r :: x.trapQueue.dropWhile before }

/-- Seats the groups of a team on its core's partitions, in order: the active set while there is room; a group in its handler
takes its place in the trap slot's queue (R128, R155). -/
def State.seatGroups (s : State) (k : Nat) : List Group → State
  | [] => s
  | g :: rest =>
    match s.team? k with
    | none => s
    | some t =>
      let i := t.groups.length
      let r : GRef := ⟨k, i⟩
      let core := t.coreN
      let p := t.partOf i
      let x := s.part core p
      let place : Place := if g.retired then .gone else s.seatPlace core p t.shape.v
      let s := (s.putPart core p { x with order := x.order + 1 }).putTeam k
        { t with groups := t.groups ++ [{ g with place := place, entered := x.order, readySince := s.ref, sleepUntil := none }] }
      State.seatGroups (if g.intrap && !g.retired then s.queueTrap core p r g.trapAt else s) k rest

/-- Seats a team: its groups, the trap slots that stand free (R155), and the backing allocations (R129). -/
def State.seatTeam (s : State) (k core : Nat) (gs : List Group) : State :=
  let s := s.seatGroups k gs
  ((List.range 8).foldl (fun s p => s.grantTrap core p) s).reserveBacking core

/-- A ring as it stands at placement (R252). -/
def Decl.ring (d : Decl) : Ring :=
  let n := d.b2 % 256
  { slots := n, bytes := d.w4, offset := d.w8, tail := 0, state := List.replicate n .f, phase := List.replicate n false }

/-- A logbook as it stands at placement (R256). -/
def Decl.logbook (d : Decl) : Logbook := { records := d.b2, base := d.w4, wr := 0, rd := 0, taken := none }

/-- A table of the declarations of a kind, by id. -/
def Shape.table {α : Type} (x : Shape) (kind : Nat) (f : Decl → α) : Tbl α :=
  (x.decls.filter (·.kind = kind)).foldl (fun (m : Tbl α) d => m.put d.id (f d)) []

/-- A new barrier (R149, R151). -/
def newBarrier (t : Team) (d : Decl) (scope : Nat) : Barrier :=
  { id := d.id, level := d.b2 % 256, grid := t.grid, scope := scope, ctx := t.ctx, expected := d.w4, arrivals := 0, phase := 0,
    drops := 0, members := [], ids := [], open_ := [], waiters := [], lookout := 0, inert := false }

/-- The member entries of a team's groups. -/
def membersOf (k g : Nat) : List BarMember := (List.range g).map fun i => ⟨⟨k, i⟩, none, false, false, none⟩

/-- Binds the team's barrier declarations (R149). -/
def State.bindBar (s : State) (k : Nat) (d : Decl) : State :=
  match s.team? k with
  | none => s
  | some t =>
    let lv := d.b2 % 256
    let ms := membersOf k t.shape.g
    match s.sharedBar t.grid d.id lv t.coreN with
    | some b =>
      { s with bars := s.bars.upd b fun x => { x with members := x.members ++ ms } }.updTeam k
        fun t => { t with bars := t.bars.put d.id b }
    | none =>
      let (b, s) := s.fresh
      { s with bars := s.bars.put b { newBarrier t d (if lv = 0 then k else scopeOf lv t.coreN) with members := ms } }.updTeam k
        fun t => { t with bars := t.bars.put d.id b }

/-- Binds one declared lock (R222). -/
def State.bindLock (s : State) (k id : Nat) : State :=
  match s.team? k with
  | none => s
  | some t =>
    match s.boundLock t.grid id (clusterOf t.coreN) with
    | some l => s.updTeam k fun t => { t with locks := t.locks.put id l }
    | none =>
      let (l, s) := s.fresh
      let lock : Lock :=
        { cluster := clusterOf t.coreN, grid := t.grid, team := k, id := id, ctx := t.ctx,
          ranges := (t.shape.decls.filter fun d => d.kind = 4 && d.id = id).map fun d => (BitVec.ofNat 64 d.q8, d.w4),
          phys := [], holder := none, pushing := false, ids := [], queue := [] }
      { s with locks := s.locks.put l lock }.updTeam k fun t => { t with locks := t.locks.put id l }

/-- Sets up what the declarations give: rings, logbooks, tables, barriers and locks (R357). -/
def State.setUp (s : State) (k : Nat) : State :=
  match s.team? k with
  | none => s
  | some t =>
    let x := t.shape
    let s := s.putTeam k
      { t with rings := x.table 2 Decl.ring, logs := x.table 3 Decl.logbook, bars := [], locks := [],
               mcast := x.table 5 fun d => BitVec.ofNat 8 d.b2, chains := x.table 6 fun d => (chainOf (BitVec.ofNat 64 d.q8)).getD [] }
    let s := (x.decls.filter (·.kind = 1)).foldl (fun s d => s.bindBar k d) s
    x.lockIds.foldl (fun s id => s.bindLock k id) s

/-- Takes a site: team slot, partition, memory and tiles (R13, R14, R262, R456). -/
def State.takeSite (s : State) (t : Team) (site : Site) : Team :=
  { t with core := some site.core, cluster := clusterOf site.core, part := site.part, base := site.base,
           slot := (s.freeSlot site.core).getD 0, phys := (s.tilesFree site.core).take (tilesOf t.shape.tiles).length }

/-- Zeroes the tiles and the memory of a new team (R262, R357). -/
def State.clearTeam (s : State) (t : Team) : State :=
  { s with spad := s.spad.zero (t.coreN * 2 ^ 21 + t.base) t.shape.mem,
           tmem := t.phys.foldl (fun m p => m.zero (t.coreN * 393216 + p * 24576) 24576) s.tmem }

/-- %s1 and %srseed of a team's groups (R357). -/
def Team.s1 (t : Team) : DWord := if t.isTask then BitVec.ofNat 64 t.taskId else 0

/-- The hamper entries that the header's records give (R354, R366). -/
def Shape.hamper (x : Shape) : List Hamper :=
  (x.table 7 fun d => (⟨BitVec.ofNat 64 d.q8, d.w4, d.b10⟩ : Hamper)).map (·.2)

/-- Places a team whose record, with shape and frame slot, is `t`, at a site: its resources, tables, memory and groups (R357,
R376). It runs at once unless a hamper must land first. -/
def State.placeNew (s : State) (k : Nat) (t : Team) (site : Site) : State :=
  let t := s.takeSite t site
  let t := { t with groups := [], tileTy := List.replicate 16 .f32, bank0 := List.replicate tableBytes 0,
                    bank1 := List.replicate tableBytes 0, cur := 0, needHdr := false, order := s.te.order, placed := s.te.order,
                    state := if t.hamper.isEmpty then .running else .loading }
  let s := { s with te := { s.te with order := s.te.order + 1 } }.clearTeam t
  let s := (s.putTeam k t).setUp k
  let g := t.shape.startGroup t.entry t.arg t.s1 t.seed .active
  (s.seatTeam k site.core (List.replicate t.shape.g g)).acquireCore site.core

end Sys2Proof.Machine
end

