-- ==== Sys2Proof/Machine/Frames.lean ====
section
/-! DEFINITION. Context frames (07_load_store.md R208 to R210, R226 to R231; 08_copy.md R245, R253, R257; 09_matrix.md R287;
14_security.md R428, R429): saving a team, and restoring it. -/
namespace Sys2Proof.Machine
open Sys2Proof

/-! ### The bytes of a frame -/

/-- A number that fills `n` bytes, and the bytes that follow as zeros, up to `m` bytes in all. -/
def padTo (m : Nat) (b : List Byte) : List Byte := b ++ List.replicate (m - b.length) 0

/-- An instruction that is withdrawn when its group stops while it is held (R282). -/
def Group.heldDrain (g : Group) : Bool :=
  g.waiting && (match g.instr with | some (.mdrain _) | some (.mdrainRing _) => true | _ => false)

/-- A short-latency blocking instruction, whose wait a frame can hold (R228). -/
def Group.frameWait (g : Group) : Bool :=
  g.waiting && (match g.instr with
    | some (.barWait _) | some (.barSync _) | some (.ringWait _) | some (.ringReserve _) | some (.ringLogwait _)
    | some (.fenceAcq _) | some (.fenceRel _) | some (.fenceAr _) | some (.fenceCopy _) | some (.fenceTier _)
    | some (.waitf _) | some (.atload _) => true
    | none => g.resume.isSome
    | _ => false)

/-- The group has stopped as a save wants it (R208, R160): at a clause boundary, withdrawn, in a wait that the frame holds, or in a
SLEEP. -/
def Group.stopped (g : Group) : Bool :=
  g.retired || (g.clause.isNone && !g.waiting) || g.withdrawn || g.heldDrain || (g.frameWait && !g.woken) || g.sleepUntil.isSome

/-- The slot at which a group resumes (R228). -/
def Group.resumeSlot (g : Group) : Nat :=
  match g.clause with
  | some c => c.slot
  | none => g.resume.getD 0

/-- A group record (R228). -/
def Group.record (g : Group) : List Byte :=
  let status := b2n g.intrap + 2 * b2n g.retired + 4 * b2n (g.withdrawn || g.heldDrain) + 8 * b2n (g.waiting && !g.heldDrain)
  leBytes 8 g.pc.toNat ++ (List.range 64).flatMap (fun r => leBytes 8 (g.s r).toNat)
    ++ (List.range 8).flatMap (fun r => leBytes 12 (g.p r).toNat)
    ++ padTo 320 (g.divTop.reverse.flatMap DivEntry.bytes)
    ++ leBytes 8 g.cvm.toNat ++ leBytes 8 g.srseed.toNat ++ leBytes 8 g.trapvec.toNat ++ leBytes 8 g.trappc.toNat
    ++ leBytes 8 g.trapinfo.toNat ++ leBytes 12 g.trapmask.toNat ++ (List.range 12).flatMap (fun n => leBytes 1 (g.flagCount n))
    ++ leBytes 2 g.depth ++ leBytes 2 g.trapdepth ++ leBytes 1 g.trapcode.toNat ++ leBytes 1 g.cfg.toNat
    ++ leBytes 1 status ++ leBytes 1 g.resumeSlot ++ List.replicate 16 0

/-- The vector registers of a group in a frame (R227). -/
def Group.vectors (g : Group) (v : Nat) : List Byte :=
  (List.range v).flatMap fun r => (List.range 96).flatMap fun l => leBytes 4 ((g.v r).lane l).toNat

/-- The code of a slot's state (R253). -/
def SlotState.code : SlotState → Nat
  | .f => 0 | .cs => 1 | .ce => 2 | .l => 3 | .lf => 4 | .d => 5

/-- The state that a code stands for. -/
def SlotState.ofCode (n : Nat) : SlotState :=
  match n with
  | 0 => .f | 1 => .cs | 2 => .ce | 3 => .l | 4 => .lf | _ => .d

/-- A ring's 32 bytes (R253). -/
def Ring.image (x : Ring) : List Byte :=
  leBytes 1 1 ++ leBytes 1 x.slots ++ leBytes 1 x.tail ++ leBytes 1 (x.countOf (· = .f)) ++ leBytes 4 x.bytes ++ leBytes 4 x.offset
    ++ leBytes 1 (x.countOf fun st => st = .l || st = .lf) ++ leBytes 1 0 ++ leBytes 2 x.phaseBits
    ++ leBytes 6 ((List.range x.slots).foldl (fun n i => n + (x.at i).code * 8 ^ i) 0) ++ List.replicate 10 0

/-- A ring from its 32 bytes; none when undeclared. -/
def Ring.ofImage (b : List Byte) : Option Ring :=
  if bytesNum b 0 1 = 0 then none
  else
    let n := bytesNum b 1 1
    some { slots := n, bytes := bytesNum b 4 4, offset := bytesNum b 8 4, tail := bytesNum b 2 1,
           state := (List.range n).map fun i => SlotState.ofCode (bytesNum b 0x10 6 / 8 ^ i % 8),
           phase := (List.range n).map fun i => bitAt (bytesNum b 0x0E 2) i }

/-- A logbook's 32 bytes (R257). -/
def Logbook.image (x : Logbook) : List Byte :=
  leBytes 1 1 ++ leBytes 1 0 ++ leBytes 2 x.records ++ leBytes 4 x.base ++ leBytes 4 x.wr ++ leBytes 4 x.rd
    ++ leBytes 4 (x.taken.getD 0xFFFFFFFF) ++ List.replicate 12 0

/-- A logbook from its 32 bytes; none when undeclared. -/
def Logbook.ofImage (b : List Byte) : Option Logbook :=
  if bytesNum b 0 1 = 0 then none
  else
    some { records := bytesNum b 2 2, base := bytesNum b 4 4, wr := bytesNum b 8 4, rd := bytesNum b 0x0C 4,
           taken := if bytesNum b 0x10 4 = 0xFFFFFFFF then none else some (bytesNum b 0x10 4) }

/-- A barrier's 16 bytes for a team (R229). -/
def Barrier.image (b : Barrier) (k : Nat) : List Byte :=
  let mask := b.members.foldl (fun n m => if m.who.team = k && m.inPhase then n + 2 ^ m.who.grp else n) 0
  leBytes 1 b.id ++ leBytes 1 b.level ++ leBytes 2 b.expected ++ leBytes 2 b.arrivals ++ leBytes 2 b.phase ++ leBytes 4 mask
    ++ leBytes 4 (b.lookout / 256)

/-- A lock's 16 bytes for a team: not held, or held by one of its groups, or queued (R229). -/
def Lock.image (l : Lock) (k : Nat) : List Byte :=
  let (st, g) : Nat × Nat := match l.holder with
    | some r => if r.team = k then (2, r.grp) else (1, 0)
    | none => (1, 0)
  let (st, g) : Nat × Nat := if st = 2 then (st, g) else match l.queue.find? fun w => w.who.team = k with
    | some w => (3, w.who.grp)
    | none => (st, g)
  padTo 16 (leBytes 1 st ++ leBytes 1 g)

/-- The code of a tile type (R287). -/
def TileType.code : TileType → Nat
  | .f32 => 0 | .i32 => 1 | .state => 2

/-- The type of a code. -/
def TileType.ofCode (n : Nat) : TileType := if n = 1 then .i32 else if n = 2 then .state else .f32

/-- The engine and synchronisation state of a frame, without parked copies (R229, R287, R323). -/
def State.engineImage (s : State) (k : Nat) (t : Team) : List Byte :=
  let bars := t.bars.filterMap fun (_, b) => (s.bars.get? b).map fun x => x.image k
  let tys := (tilesOf t.shape.tiles).foldl (fun n i => n + (t.typeOf i).code * 4 ^ i) 0
  (List.range 16).flatMap (fun i => match t.rings.get? i with | some x => x.image | none => List.replicate 32 0)
    ++ (List.range 8).flatMap (fun i => match t.logs.get? i with | some x => x.image | none => List.replicate 32 0)
    ++ bars.flatten ++ (List.range (48 - bars.length)).flatMap (fun _ => (0xFF : Byte) :: List.replicate 15 0)
    ++ (List.range 64).flatMap (fun i => match (t.locks.get? i).bind s.locks.get? with
        | some l => l.image k | none => List.replicate 16 0)
    ++ (List.range 16).flatMap (fun i => padTo 8 (leBytes 1 ((t.mcast.get? i).getD 0).toNat))
    ++ (List.range 16).flatMap (fun i =>
        let cs := (t.chains.get? i).getD []
        cs.map (BitVec.ofNat 8) ++ List.replicate (8 - cs.length) 0xFF)
    ++ padTo 16 (leBytes 1 t.cur) ++ t.bank0 ++ t.bank1 ++ List.replicate 16 0
    ++ leBytes 4 tys ++ leBytes 1 (b2n t.tep.isSome) ++ List.replicate 11 0 ++ t.tep.getD (List.replicate 128 0) ++ List.replicate 48 0

/-- The position of a copy as one index per dimension; the end of the box is the last dimension's size (R230, R245). -/
def endPos : List Nat → Nat → List Nat
  | [], _ => []
  | [_], p => [p]
  | n :: ns, p => p % n :: endPos ns (p / n)

/-- The number of a position. -/
def posOf : List Nat → List Nat → Nat
  | n :: ns, i :: is => i + n * posOf ns is
  | _, i :: _ => i
  | _, [] => 0

/-- A parked copy's record (R230). -/
def Copy.record (c : Copy) : List Byte :=
  let b := c.desc.getD []
  let d := CopyDesc.parse b
  padTo 64 b ++ leBytes 1 c.grp ++ leBytes 1 0xF ++ leBytes 2 0 ++ leBytes 4 (c.placed / d.dsize)
    ++ leBytes 8 (match c.fault with | some (_, a) => a.toNat | none => if c.token ≠ 0 then c.pageVa else 0)
    ++ padTo 28 ((endPos d.sizes c.pos).flatMap (leBytes 4)) ++ List.replicate 20 0

/-- The record of an outstanding CQUIESCE or CQUIESCE.SET (R245). -/
def quiesceRecord (o : Op) : List Byte :=
  List.replicate 64 0 ++ leBytes 1 o.owner.grp ++ leBytes 1 (o.flag.getD 0xF) ++ List.replicate 62 0

/-- A CQUIESCE or CQUIESCE.SET. -/
def Op.isQuiesce (o : Op) : Bool := match o.kind with | .cquiesce => true | _ => false

/-- What parks in a team's frame, in order: copies and outstanding CQUIESCEs, by number. -/
def State.parkList (s : State) (k : Nat) : List (Nat × List Byte) :=
  let cs : Tbl (List Byte) := (s.copies.filter fun (_, c) => c.team = k).map fun (n, c) => (n, c.record)
  (s.ops.filter fun (_, o) => o.owner.team = k && o.isQuiesce).foldl (fun (m : Tbl (List Byte)) (n, o) => m.put n (quiesceRecord o)) cs

/-- The physical address of a byte of an allocated tile. -/
def Team.tileAt (t : Team) (i : Nat) : Nat := t.coreN * 393216 + (t.phys[i]?.getD 0) * 24576

/-- The body of a frame (R227). -/
def State.frameBody (s : State) (k : Nat) (t : Team) : List Byte :=
  t.groups.flatMap Group.record ++ t.groups.flatMap (fun g => g.vectors t.shape.v)
    ++ s.teamRead t 0 t.shape.mem
    ++ (List.range (tilesOf t.shape.tiles).length).flatMap (fun i => s.tmem.readN (t.tileAt i) 24576)
    ++ s.engineImage k t ++ (s.parkList k).flatMap (·.2)

/-- The code of a save's cause (R226). -/
def SaveCause.code : SaveCause → Nat
  | .page => 0 | .preempt => 1 | .debug => 2 | .security => 3

/-- The header of a frame (R226). -/
def frameHeader (c : Ctx) (t : Team) (cause flags counter parked token body : Nat) (pf : BitVec 32) (nonce : List Byte) : List Byte :=
  leBytes 4 0x5A434650 ++ leBytes 2 2 ++ leBytes 2 flags ++ leBytes 1 c.world ++ leBytes 3 0 ++ leBytes 4 t.ctx ++ leBytes 8 counter
    ++ leBytes 1 t.shape.g ++ leBytes 1 t.shape.v ++ leBytes 2 t.shape.tiles.toNat ++ leBytes 4 t.shape.mem ++ leBytes 1 cause
    ++ leBytes 1 t.first ++ leBytes 2 parked ++ leBytes 4 pf.toNat ++ leBytes 2 token ++ leBytes 6 0 ++ padTo 12 nonce ++ leBytes 4 0
    ++ leBytes 4 t.index ++ leBytes 4 t.gridIdx ++ leBytes 1 t.depth ++ leBytes 7 0 ++ leBytes 8 t.shape.roles ++ leBytes 8 body
    ++ List.replicate 160 0

/-- The frame of a slot (R350). -/
def Ctx.frameAt (c : Ctx) (slot : Nat) : Nat := c.frameBase + slot * c.slotBytes

/-! ### Saving -/

/-- Outstanding instructions of a team that the frame cannot hold (R83). -/
def State.opsOut (s : State) (k : Nat) : Bool := s.ops.any fun (_, o) => o.owner.team = k && !o.isQuiesce

/-- Requests, messages, contributions, tile operations and drains of a team, its copies' included. -/
def State.trafficOut (s : State) (k : Nat) : Bool :=
  let own (c : Option Nat) : Bool := match c with
    | some n => match s.copies.get? n with | some c => c.team = k | none => false
    | none => false
  s.reqs.any (fun (_, q) => q.owner.any (·.team = k))
  || s.msgs.any (fun (_, m) => !m.inbound && (m.owner.any (·.team = k) || own m.copy))
  || s.contribs.any (fun (_, c) => c.owner.any (·.team = k) || own c.copy)
  || s.tileOps.any (fun (_, o) => o.team = k) || s.drains.any (fun (_, d) => d.team = k)

/-- The table unit is idle and no ATLOAD waits (R188). -/
def Team.tablesIdle (t : Team) : Bool := t.atq.isEmpty && t.unit = .idle

/-- A swap transfer of one of the team's groups is in progress. -/
def State.swapping (s : State) (k : Nat) : Bool :=
  s.parts.any fun (_, p) => p.swap.any fun x => x.incoming.team = k || x.outgoing.any (·.team = k)

/-- The team can be saved now: its groups have stopped, and everything that a frame cannot hold is over (R83, R188, R208, R245,
R282, R310). -/
def State.canSave (s : State) (k : Nat) (t : Team) : Bool :=
  t.core.isSome && t.groups.all Group.stopped && t.relq.isEmpty && !s.opsOut k && !s.trafficOut k && t.tablesIdle && !s.swapping k
  && (t.bars.all fun (_, b) => (s.bars.get? b).all fun (x : Barrier) => x.open_.isEmpty)
  && (s.locks.all fun (_, l) => !(l.pushing && l.holder.any (·.team = k)))

/-- Missing pages that the team's copies wait for (R245). -/
def State.copyPages (s : State) (k : Nat) : List MissPage :=
  ((s.copies.filter fun x => x.2.team = k && x.2.token ≠ 0).map fun x => (⟨3, x.2.pageVa⟩ : MissPage)).eraseDups

/-- A team's groups leave the trap slot, its queue and the swap of a partition. -/
def Part.dropTeam (p : Part) (k : Nat) : Part :=
  { p with trapOwner := p.trapOwner.filter fun r => r.team ≠ k, trapQueue := p.trapQueue.filter fun r => r.team ≠ k,
           swap := p.swap.filter fun x => x.incoming.team ≠ k && !x.outgoing.any fun r => r.team = k }

/-- The team leaves its core: trap slots and queues are freed (R155), and its other resources with its record's. -/
def State.leaveCore (s : State) (k : Nat) : State :=
  match s.team? k with
  | none => s
  | some t =>
    let s := { s with parts := s.parts.map fun (n, p) => (n, Part.dropTeam p k) }
    s.putTeam k { t with core := none, phys := [], backed := 0 }

/-- The holder's changed words of every lock that the team's groups hold are written back (R225). -/
def State.writeLocks (s : State) (k core : Nat) : State :=
  s.locks.foldl (fun s (_, l) => if l.holder.any (·.team = k) then s.writeBack core l.phys else s) s

/-- The lookouts of the team's barriers stop at a multiple of 256 cycles (R153, R229). -/
def State.roundLookouts (s : State) (t : Team) : State :=
  t.bars.foldl (fun s (_, b) => { s with bars := s.bars.upd b fun x => { x with lookout := x.lookout / 256 * 256 } }) s

/-- A fault of a team's frame or descriptor, of no single group, ends the context (R157, R373, R429, R455). -/
def State.fatalTeam (s : State) (k : Nat) (code : FaultCode) (detail : Nat) (addr : DWord) (bytes : List Byte := []) : State :=
  match s.team? k with
  | none => s
  | some t =>
    s.fatalCtx t.ctx
      { code := code, kind := 0, core := t.coreN, grp := 0xFF, team := t.index, grid := t.gridIdx, pc := t.entry,
        info := trapInfo detail 0 0 0, addr := addr, clk := s.clk t.coreN, detail := bytes }

/-- An error of the engine's own access for a team: a page request under a token of its own, or the context ends (R455). -/
def State.engFail (s : State) (k : Nat) (kind : Nat) : EngErr → State
  | .missing va =>
    match s.team? k with
    | none => s
    | some t =>
      let (tok, s) := s.requestPage t.ctx kind va
      s.updTeam k fun t => { t with ioToken := tok, ioVa := va }
  | .fault c va => s.fatalTeam k c 0 (BitVec.ofNat 64 va)

/-- The frame of a protected context: flags, header, body and tag as they stand in memory, the plaintext beside them; a debug halt
in confidential-debug mode writes plaintext (R428). -/
def State.sealFrame (s : State) (cause : SaveCause) (header : Nat → List Byte → List Byte) (body : List Byte) (ctx counter world : Nat) :
    List Byte × List Byte :=
  let nonce := leBytes 4 ctx ++ leBytes 8 counter
  let key := (s.sec.keys.get? (30 + world)).getD 0
  if cause = .debug && s.sec.mode = 2 then
    let h := header 3 nonce
    (h ++ body ++ List.replicate 16 0, h ++ body)
  else
    let h := header 1 nonce
    let enc := (Config.cipher key (nonce ++ body)).take body.length
    (h ++ padTo body.length enc ++ padTo 16 ((Config.digest key (h ++ body)).take 16), h ++ body)

/-- A protected frame has been written: the slot's value is its counter, and what its tag stands for is held (R428). -/
def State.noteFrame (s : State) (ctx slot counter : Nat) (f : List Byte × List Byte) : State :=
  { s with sec := { s.sec with prot := s.sec.prot.upd ctx fun p =>
      { p with slots := p.slots.put slot counter, frames := p.frames.put slot f } } }

/-- A copy of the team parks in its frame (R245). -/
def Copy.park (k : Nat) (c : Copy) : Copy :=
  if c.team = k then { c with parked := true, token := 0, flags := c.flags ||| 4 } else c

/-- The team parks: it leaves its core, its copies park, and it waits for its pages or for room (R208, R245, R376). -/
def State.parkTeam (s : State) (k : Nat) (t : Team) (token : Nat) (pages : List MissPage) (pf : BitVec 32) : State :=
  let s := s.leaveCore k
  let s := { s with copies := s.copies.map fun (n, c) => (n, Copy.park k c) }
  let s := s.updTeam k fun u =>
    { u with state := if token ≠ 0 then .suspended else .saved, stopping := none, missing := pages, token := token, answered := false,
             pfcount := pf, saves := u.saves + 1, order := s.te.order, first := 0xFF, ioToken := 0, saveNo := none,
             groups := u.groups.map fun g => { g with sleepUntil := none } }
  let s := { s with te := { s.te with order := s.te.order + 1 } }
  if token = 0 then s else s.requestPages t.ctx token 0xFFFFFFFF pages

/-- The save counter of a save: a protected context takes a new one at its start, and one that waited for a page of its frame keeps it (R428). -/
def State.saveCounter (s : State) (k : Nat) (t : Team) (c : Ctx) : Nat × State :=
  if !c.prot then (t.saves + 1, s)
  else
    match t.saveNo with
    | some n => (n, s)
    | none =>
      let n := ((s.sec.prot.get? t.ctx).map fun p => p.counter + 1).getD 0
      (n, { s with sec := { s.sec with prot := s.sec.prot.upd t.ctx fun p => { p with counter := n } } }.updTeam k fun t => { t with saveNo := some n })

/-- Saves a team that can be saved into its frame (R112, R208, R226 to R231, R245, R428, R455): its pages are requested under one
token after the frame is written. -/
def State.saveTeam (s : State) (k : Nat) (cause : SaveCause) : State :=
  match s.team? k with
  | none => s
  | some t =>
    match s.ctx? t.ctx with
    | none => s
    | some c =>
      let (counter, s0) := s.saveCounter k t c
      let s := (s0.writeLocks k t.coreN).roundLookouts t
      let pages := (joinPages t.missing (s.copyPages k)).take 32
      let (token, s) := if pages.isEmpty then (0, s) else s.newToken
      let cause := if t.missing.isEmpty then cause else .page
      let pf := if t.missing.isEmpty then t.pfcount else t.pfcount + 1
      let parked := (s.parkList k).length
      let body := s.frameBody k t
      let header (flags : Nat) (nonce : List Byte) : List Byte :=
        frameHeader c t cause.code flags counter parked token body.length pf nonce
      let f := if c.prot then s.sealFrame cause header body t.ctx counter c.world
        else (header 0 [] ++ body ++ List.replicate 16 0, [])
      match s.engWrite t.ctx (c.frameAt t.frameSlot) f.1 with
      | .error e => s0.engFail k 1 e
      | .ok s =>
        let s := if c.prot then s.noteFrame t.ctx t.frameSlot counter f else s
        s.parkTeam k t token pages pf

/-! ### Restoring -/

/-- A group from its record and vector registers (R228, R357). What no record holds, its record in the engine keeps. -/
def Group.ofRecord (g : Group) (b vecs : List Byte) (v : Nat) : Group :=
  let dw (o : Nat) : DWord := BitVec.ofNat 64 (bytesNum b o 8)
  let depth := bytesNum b 0x3E8 2
  let top := min depth 16
  let status := bytesNum b 0x3EE 1
  let slot := bytesNum b 0x3EF 1
  let retired := bitAt status 1
  let wait := bitAt status 2 || bitAt status 3
  let g := { g with
    pc := dw 0, cvm := dw 0x3A8, srseed := dw 0x3B0, sr := srInit (dw 0x3B0), trapvec := dw 0x3B8, trappc := dw 0x3C0,
    trapinfo := dw 0x3C8, trapmask := BitVec.ofNat 96 (bytesNum b 0x3D0 12), trapdepth := bytesNum b 0x3EA 2,
    trapcode := BitVec.ofNat 8 (bytesNum b 0x3EC 1), cfg := BitVec.ofNat 64 (bytesNum b 0x3ED 1), intrap := bitAt status 0,
    retired := retired, withdrawn := false, waiting := bitAt status 3, woken := false, clause := none,
    resume := if retired then none else if wait || slot ≠ 0 then some slot else none, sleepUntil := none, eligible := false,
    seals := [], waitIds := [],
    divTop := ((List.range top).map fun i => DivEntry.ofBytes ((b.drop (0x268 + 20 * i)).take 20)).reverse,
    divSpilled := depth - top,
    vreg := Vector.ofFn fun (r : Fin 64) =>
      if r.val < v then VReg.build fun l => BitVec.ofNat 32 (bytesNum vecs (384 * r.val + 4 * l) 4) else VReg.zero }
  let g := (List.range 64).foldl (fun g r => g.setS r (dw (8 + 8 * r))) g
  let g := (List.range 8).foldl (fun g r => g.setP r (BitVec.ofNat 96 (bytesNum b (0x208 + 12 * r) 12))) g
  (List.range 12).foldl (fun g n => g.setFlag n (bytesNum b (0x3DC + n) 1)) g

/-- Every byte of a range is zero. -/
def zeroAt (b : List Byte) (off n : Nat) : Bool := ((b.drop off).take n).all (· = 0)

/-- The zero fields of a group record (R6, R228): the reserved bytes, the unused divergence entries, and those of %cvm, %trapvec, %trappc,
%trapinfo, %cfg and %divdepth (R48, R135, R148). -/
def groupZeros (b : List Byte) : Bool :=
  let depth := min (bytesNum b 0x3E8 2) 16
  zeroAt b 0x3F0 16 && bytesNum b 0x3EE 1 < 16 && bytesNum b 0x3EF 1 < 8
  && zeroAt b (0x268 + 20 * depth) (320 - 20 * depth) && bitsOf (bytesNum b 0x3A8 8) 63 50 = 0
  && codeAddrOk (BitVec.ofNat 64 (bytesNum b 0x3B8 8)) && codeAddrOk (BitVec.ofNat 64 (bytesNum b 0x3C0 8))
  && bitsOf (bytesNum b 0x3C8 8) 31 24 = 0 && bytesNum b 0x3ED 1 < 4 && bytesNum b 0x3E8 2 < 512

/-- The bytes of an activation-table bank that are zero (R186). -/
def bankZeros (b : List Byte) : Bool :=
  bytesNum b 8 4 < 2 && zeroAt b 12 4 && (List.range 256).all fun i => zeroAt b (28 + 16 * i) 4

/-- The zero fields of the engine state (R6, R186, R229, R253, R257), and the refusals of R287 and R323. DESIGN CHOICE (log entry 87): of an
undeclared ring or logbook only the bytes that the layout calls zero must be zero. -/
def engineZeros (b : List Byte) : Bool :=
  ((List.range 16).all fun i => zeroAt b (32 * i + 0x0D) 1 && zeroAt b (32 * i + 0x16) 10)
  && ((List.range 8).all fun i => zeroAt b (0x200 + 32 * i + 1) 1 && zeroAt b (0x200 + 32 * i + 0x14) 12)
  && bankZeros (b.drop 0xB10) && bankZeros (b.drop (0xB10 + tableBytes))
  && ((List.range 64).all fun i => zeroAt b (0x600 + 16 * i + 2) 14)
  && ((List.range 16).all fun i => zeroAt b (0xA00 + 8 * i + 1) 7)
  && zeroAt b 0xB01 15 && zeroAt b 0x2B30 16
  && ((List.range 16).all fun i => bytesNum b 0x2B40 4 / 4 ^ i % 4 ≠ 3)
  && bytesNum b 0x2B44 1 < 2 && zeroAt b 0x2B45 11 && zeroAt b 0x2BD0 48
  && (if bytesNum b 0x2B44 1 = 0 then zeroAt b 0x2B50 128 else (tepBad ((b.drop 0x2B50).take 128)).isNone)

/-- The header of a frame against the team and its context (R226, R231). -/
def headerGood (s : State) (c : Ctx) (t : Team) (parked : Nat) (h : List Byte) : Bool :=
  let flags := bytesNum h 6 2
  let x := t.shape
  bytesNum h 0 4 = 0x5A434650 && bytesNum h 4 2 = 2 && flags / 4 = 0
  && zeroAt h 9 3 && zeroAt h 0x2A 6 && zeroAt h 0x3C 4 && zeroAt h 0x49 7 && zeroAt h 0x60 160
  && (bitAt flags 0 == c.prot) && (!bitAt flags 1 || (c.prot && s.sec.mode = 2 && bytesNum h 0x20 1 = 2)) && (c.prot || zeroAt h 0x30 12)
  && bytesNum h 0x18 1 = x.g && bytesNum h 0x19 1 = x.v && bytesNum h 0x1A 2 = x.tiles.toNat && bytesNum h 0x1C 4 = x.mem
  && bytesNum h 0x22 2 = parked && bytesNum h 0x58 8 + 272 = x.frameBytes parked
  && bytesNum h 8 1 = c.world && bytesNum h 0x0C 4 = t.ctx

/-- Offsets of the parts of a body (R227): vector registers, team memory, tiles, engine state, parked copies. -/
def Shape.parts (x : Shape) : Nat × Nat × Nat × Nat × Nat :=
  let v := 1024 * x.g
  let m := v + 384 * x.v * x.g
  let tl := m + x.mem
  let e := tl + 24576 * (tilesOf x.tiles).length
  (v, m, tl, e, e + 11264)

/-- The zero fields of a parked record, those of its descriptor among them (R230, R236, R237). -/
def parkedZeros (b : List Byte) : Bool := (CopyDesc.parse (b.take 64)).zeros && zeroAt b 0x42 2 && zeroAt b 0x6C 20

/-- The reserved fields of a body (R228 to R230). -/
def bodyGood (x : Shape) (parked : Nat) (b : List Byte) : Bool :=
  let (_, _, _, e, p) := x.parts
  ((List.range x.g).all fun i => groupZeros ((b.drop (1024 * i)).take 1024)) && engineZeros (b.drop e)
  && (List.range parked).all fun i => parkedZeros ((b.drop (p + 128 * i)).take 128)

/-- A frame is refused, with this fault, or its plaintext body may be used (R231, R429). -/
def State.checkFrame (s : State) (c : Ctx) (t : Team) (parked : Nat) (f : List Byte) : Except FaultCode (List Byte) :=
  let n := t.shape.frameBytes parked
  let body := (f.drop 256).take (n - 272)
  let counter := bytesNum f 0x10 8
  if !headerGood s c t parked (f.take 256) then .error .frameTag
  else if !c.prot then (if bodyGood t.shape parked body && zeroAt f (n - 16) 16 then .ok body else .error .frameTag)
  else
    let p := s.sec.prot.get? t.ctx
    let saved := (p.bind fun p => p.frames.get? t.frameSlot).getD ([], [])
    let plain := bitAt (bytesNum f 6 2) 1
    if plain && !bodyGood t.shape parked body then .error .frameTag
    else if (p.bind fun p => p.slots.get? t.frameSlot) ≠ some counter then .error .frameStale
    else if bytesNum f 0x30 4 ≠ t.ctx || bytesNum f 0x34 8 ≠ counter then .error .frameTag
    else if (s.sec.keys.get? (30 + c.world)).isNone then .error .key
    else if plain then .ok body
    else if saved.1 = f then .ok (saved.2.drop 256) else .error .frameTag

/-- The rings or logbooks of a frame. -/
def tableOf {α : Type} (n at_ : Nat) (b : List Byte) (f : List Byte → Option α) : Tbl α :=
  (List.range n).filterMap fun i => (f ((b.drop (at_ + 32 * i)).take 32)).map fun x => (i, x)

/-- A team-level barrier takes its state from the frame; the shared state of another stays (R229). -/
def Barrier.ofFrame (x : Barrier) (k : Nat) (e : List Byte) : Barrier :=
  match (List.range 48).find? fun i => bytesNum e (0x300 + 16 * i) 1 = x.id with
  | none => x
  | some i =>
    let b := (e.drop (0x300 + 16 * i)).take 16
    if x.level ≠ 0 then x
    else
      { x with expected := bytesNum b 2 2, arrivals := bytesNum b 4 2, phase := bytesNum b 6 2, lookout := 256 * bytesNum b 12 4,
               members := x.members.map fun m => if m.who.team = k then { m with inPhase := bitAt (bytesNum b 8 4) m.who.grp } else m }

/-- A parked copy continues from its record (R230, R245): its position comes from the frame; reads of a far source are made
again, and it takes an execution place again in its turn (R232). -/
def Copy.ofRecord (c : Copy) (b : List Byte) : Copy :=
  let desc := b.take 64
  let d := CopyDesc.parse desc
  let idx := (List.range d.sizes.length).map fun i => bytesNum b (0x50 + 4 * i) 4
  { c with parked := false, started := false, desc := some desc, grp := bytesNum b 0x40 1, placed := bytesNum b 0x44 4 * d.dsize,
           pos := posOf d.sizes idx, asked := false, reads := [], buf := [] }

/-- The team's parked copies continue, in queue order. -/
def State.unpark (s : State) (list : List (Nat × List Byte)) (b : List Byte) : State :=
  ((List.range list.length).zip list).foldl (fun s (i, n, _) =>
    let r := (b.drop (128 * i)).take 128
    s.updCopy n fun c => c.ofRecord r) s

/-- The cores of a chain entry of a frame (R229). -/
def chainBytes (b : List Byte) : List Nat := (b.map fun x => x.toNat).takeWhile (· ≠ 0xFF)

/-- The barriers with the team's own state from its frame (R229). -/
def State.frameBars (s : State) (k : Nat) (t : Team) (eng : List Byte) : Tbl Barrier :=
  t.bars.foldl (fun (bs : Tbl Barrier) (x : Nat × Nat) => bs.upd x.2 fun b => b.ofFrame k eng) s.bars

/-- The team's multicast table as a frame gives it (R229). -/
def Team.mcastOf (t : Team) (eng : List Byte) : Tbl (BitVec 8) :=
  t.mcast.map fun x => (x.1, BitVec.ofNat 8 (bytesNum eng (0xA00 + 8 * x.1) 1))

/-- The team's chain table as a frame gives it (R229). -/
def Team.chainsOf (t : Team) (eng : List Byte) : Tbl (List Nat) :=
  t.chains.map fun x => (x.1, chainBytes ((eng.drop (0xA80 + 8 * x.1)).take 8))

/-- Rebuilds the state tiles' issue states (R323). -/
def State.vocAgain (s : State) (k : Nat) (u : Team) : State :=
  (tilesOf u.shape.tiles).foldl (fun s n =>
    if u.typeOf n = TileType.state then s.updTeam k fun v => { v with voc := v.voc.put n (s.vocRebuild u n) } else s) s

/-- A restored team's locks are pushed again into the L1 of its core (R225). -/
def State.pushLocks (s : State) (k core : Nat) : State :=
  s.locks.foldl (fun s ((n, l) : Nat × Lock) =>
    if l.holder.any (fun r => r.team = k) then
      let phys := s.lockPhys core l
      let s := s.pushRanges core phys
      { s with locks := s.locks.upd n fun l => { l with phys := phys } }
    else s) s

/-- Rebuilds a team at a site from its body (R210, R227 to R230). -/
def State.rebuild (s : State) (k : Nat) (t : Team) (site : Site) (h b : List Byte) : State :=
  let x := t.shape
  let (v, m, tl, e, p) := x.parts
  let eng := (b.drop e).take 11264
  let gs := ((List.range x.g).zip t.groups).map fun (i, g) =>
    g.ofRecord ((b.drop (1024 * i)).take 1024) ((b.drop (v + 384 * x.v * i)).take (384 * x.v)) x.v
  let t := s.takeSite t site
  let t := { t with
    groups := [], state := if t.succ then .succeeding else .running, token := 0, answered := false, ioToken := 0, missing := [],
    missFrom := none, placed := s.te.order, pfcount := BitVec.ofNat 32 (bytesNum h 0x24 4), rings := tableOf 16 0 eng Ring.ofImage, logs := tableOf 8 0x200 eng Logbook.ofImage,
    mcast := t.mcastOf eng,
    chains := t.chainsOf eng,
    cur := bytesNum eng 0xB00 1 % 2, bank0 := (eng.drop 0xB10).take tableBytes, bank1 := (eng.drop (0xB10 + tableBytes)).take tableBytes,
    tileTy := (List.range 16).map fun i => TileType.ofCode (bytesNum eng 0x2B40 4 / 4 ^ i % 4),
    tep := if bytesNum eng 0x2B44 1 = 1 then some ((eng.drop 0x2B50).take 128) else none }
  let parked := s.parkList k
  let s := { s with
    spad := s.spad.writeN (site.core * 2 ^ 21 + site.base) ((b.drop m).take x.mem),
    tmem := (List.range t.phys.length).foldl (fun mm i => mm.writeN (t.tileAt i) ((b.drop (tl + 24576 * i)).take 24576)) s.tmem,
    bars := s.frameBars k t eng }
  let s := { s with te := { s.te with order := s.te.order + 1 } }
  let s := ((s.putTeam k t).seatTeam k site.core gs).unpark parked (b.drop p)
  let s := match s.team? k with | some u => s.vocAgain k u | none => s
  (s.acquireCore site.core).pushLocks k site.core

/-- Teams that move together: the team, those of its cluster block, and those of its grid that share its locks in the cluster (R15, R222,
R452). -/
def State.inBlock (s : State) (k : Nat) (t : Team) (j : Nat) (u : Team) : Bool :=
  j = k || (t.grid = u.grid && t.cluster = u.cluster && match t.grid with
    | some g => match s.grids.get? g with
      | some x => (x.width ≠ 0 && t.index / x.width = u.index / x.width) || !t.shape.lockIds.isEmpty
      | none => false
    | none => false)

/-- Nobody holds the lock, or waits for it. -/
def Lock.idle (l : Lock) : Bool := l.holder.isNone && !l.pushing && l.queue.isEmpty

/-- The teams of `drop` bind the lock `keep` in its place, in cluster `cl`. -/
def State.mergeLock (s : State) (cl drop keep : Nat) : State :=
  let bind (t : Team) : Team := { t with locks := t.locks.map fun (i, m) => (i, if m = drop then keep else m) }
  { s with locks := (s.locks.del drop).upd keep fun l => { l with cluster := cl }, teams := s.teams.map fun (j, t) => (j, bind t) }

/-- A lock moves to a cluster with its state. Where the grid has bound its id there already, the teams share one lock (R222): the one that is
in use. -/
def State.moveLock (s : State) (cl n : Nat) : State :=
  match s.locks.get? n with
  | none => s
  | some l =>
    match s.boundLock l.grid l.id cl with
    | none => { s with locks := s.locks.upd n fun l => { l with cluster := cl } }
    | some m => if m = n then s else if (s.locks.get? m).any Lock.idle then s.mergeLock cl m n else s.mergeLock cl n m

/-- A team may move to the cluster of a core (R452): every team that moves with it has left its core, the grid has no other cluster barrier of
an id there, and of two locks of an id one is not in use. -/
def State.mayMove (s : State) (k : Nat) (t : Team) (core : Nat) : Bool :=
  (s.teams.all fun (j, u) => !s.inBlock k t j u || u.core.isNone)
  && (t.bars.all fun (_, n) => (s.bars.get? n).all fun (b : Barrier) => b.level ≠ 1 || (s.sharedBar b.grid b.id 1 core).all (· = n))
  && t.locks.all fun (_, n) => (s.locks.get? n).all fun (l : Lock) =>
    match s.boundLock l.grid l.id (clusterOf core) with
    | none => true
    | some m => m = n || l.idle || (s.locks.get? m).any Lock.idle

/-- A team returned to another cluster: those that move with it follow, and its cluster barriers and locks are bound there with their state
(R452). -/
def State.moveBlock (s : State) (k : Nat) (t : Team) (cl : Nat) : State :=
  if t.cluster = cl then s
  else
    let us := s.teams.filter fun x => s.inBlock k t x.1 x.2
    let bars := us.flatMap fun x => x.2.bars.map (·.2)
    let locks := (us.flatMap fun x => x.2.locks.map (·.2)).eraseDups
    let teams : Tbl Team := s.teams.map fun x => (x.1, if s.inBlock k t x.1 x.2 && x.2.core.isNone then { x.2 with cluster := cl } else x.2)
    let bs : Tbl Barrier := s.bars.map fun x => (x.1, if x.2.level = 1 && bars.contains x.1 then { x.2 with scope := cl } else x.2)
    locks.foldl (fun s n => s.moveLock cl n) { s with teams := teams, bars := bs }

/-- Restores a team from its frame, at a site where it fits (R210, R231, R429, R455). -/
def State.restoreTeam (s : State) (k : Nat) (t : Team) (site : Site) : State :=
  match s.ctx? t.ctx with
  | none => s
  | some c =>
    let parked := (s.parkList k).length
    let at_ := c.frameAt t.frameSlot
    match s.engRead t.ctx at_ (t.shape.frameBytes parked) .read with
    | .error e => s.engFail k 0 e
    | .ok f =>
      let s := s.passRead none t.ctx (s.ctxWorld t.ctx) at_ .read (t.shape.frameBytes parked)
      match s.checkFrame c t parked f with
      | .error code => s.fatalTeam k code 0 (BitVec.ofNat 64 at_)
      | .ok body => (s.rebuild k t site (f.take 256) body).moveBlock k t (clusterOf site.core)

/-- Cores where a team may be restored (R210, R452): those of its cluster, or, when that is retired, of one to which it may move. -/
def State.mayReturn (s : State) (k : Nat) (t : Team) (core : Nat) : Bool :=
  clusterOf core = t.cluster || (!s.hst.cladm.getLsbD t.cluster && s.mayMove k t core)

/-- A team that waits to return goes before another placement on a core, of priority `p` (R378). -/
def State.returnsFirst (s : State) (core p : Nat) : Bool :=
  s.teams.any fun (k, t) => s.waitsReturn t && s.mayReturn k t core && p ≤ t.priority

/-- TEAM_RESTORE (R210, R376, R378): a saved or suspended team returns to a core of its cluster that has room. -/
def execTeamRestore (team : Nat) (site : Site) (s : State) : Host.Outcome State Fault Refusal :=
  match s.team? team with
  | none => .next s
  | some t =>
    let earlier := s.teams.any fun (j, u) => s.waitsReturn u && s.mayReturn j u site.core && u.order < t.order
    if s.waitsReturn t && s.mayReturn team t site.core && !earlier && s.fits t.shape t.grid (some t.cluster) site then
      .next (s.restoreTeam team t site)
    else .next s

/-- TEAM_SUSPEND (R208): once the groups have stopped and what was outstanding is over, the team is saved and its pages are
requested. -/
def execTeamSuspend (team : Nat) (s : State) : Host.Outcome State Fault Refusal :=
  match s.team? team with
  | none => .next s
  | some t =>
    let live := (s.ctx? t.ctx).any fun c => c.state = .live && c.pending.isNone
    if live && t.state = .running && t.stopping = some .page && t.ioToken = 0 && s.canSave team t then
      .next (s.saveTeam team .page)
    else .next s

end Sys2Proof.Machine
end

