-- ==== Sys2Proof/Machine/Protect.lean ====
section
/-! DEFINITION. Creating a protected context (14_security.md R415, R421 to R426): keys, the code seal and the measurement. -/
namespace Sys2Proof.Machine
open Sys2Proof

/-! ### Keys (R415) -/

/-- Writes a fresh random key into a slot. -/
def State.writeKey (s : State) (slot : Nat) : State :=
  { s with sec := { s.sec with keys := s.sec.keys.put slot (s.sec.keyGen + 1), keyGen := s.sec.keyGen + 1 } }

/-- Zeroises a slot. -/
def State.zeroKey (s : State) (slot : Nat) : State := { s with sec := { s.sec with keys := s.sec.keys.del slot } }

/-- Keys of a world, written together when it has none. -/
def State.keyWorld (s : State) (w : Nat) : State :=
  if (s.sec.keys.get? w).isSome then s else (s.writeKey w).writeKey (16 + w)

/-- Frames of a world, ascending. -/
def State.framesOf (s : State) (w : Nat) : List Nat := (s.sec.owner.filter fun x => x.2 = w).map (·.1)

/-- What the memory of a world holds can no longer be deciphered, for its key is gone or another: its bytes read as free values (R412). Of world
1, which owns every other frame, the bytes that have been written (log entry 105). -/
def State.undecipher (s : State) (w : Nat) : State :=
  let f := Config.decrypted (2 * s.sec.keyGen + 1)
  if w = 1 then
    { s with mem := s.mem.foldl (fun (m : Memory) (x : Host.Cell) => m.write x.1 (if s.ownerWorld x.1 = 1 then f x.1 else x.2)) [] }
  else (s.framesOf w).foldl (fun s a => s.fillWith (frameAddr a) frameSize f) s

/-- Keys for a tenant world that has none: what its frames held under another key is lost (R412, R415). -/
def State.rekeyWorld (s : State) (w : Nat) : State :=
  if w < 2 || (s.sec.keys.get? w).isSome then s else (s.undecipher w).keyWorld w

/-! ### Worlds that are torn down (R433) -/

/-- A world is scrubbing: a context of it is ending as a protected one, or its scrub has not ended. -/
def State.worldScrubs (s : State) (w : Nat) : Bool :=
  s.sec.scrubs.any (fun x => x.world = w && !x.reset)
  || s.ctxs.any fun (_, c) => c.world = w && c.prot && (c.state = .ending || c.state = .scrubbing || c.pending.isSome)

/-- A frame is scrubbing. -/
def State.frameScrubs (s : State) (f : Nat) : Bool :=
  s.worldScrubs ((s.sec.owner.get? f).getD 1) || s.sec.scrubs.any fun x => x.ranges.contains (.frame f)

/-- A world holds a live context. -/
def State.worldLive (s : State) (w : Nat) : Bool := s.ctxs.any fun (_, c) => c.world = w

/-- A world holds a live protected context. -/
def State.worldProt (s : State) (w : Nat) : Bool := s.ctxs.any fun (_, c) => c.world = w && c.prot

/-! ### The code seal (R423) -/

/-- The address of the leaf entry for a virtual address (R204). -/
def State.leafEntry (s : State) (va tbl : Nat) : List Nat → Option Nat
  | [] => none
  | lv :: rest =>
    let (lo, n) := levelBits lv
    let ea := tbl + 8 * (va / 2 ^ lo % 2 ^ n)
    let e := s.mem.num ea 8
    if !bitAt e 0 then none
    else if bitAt e 1 then some ea
    else State.leafEntry s va (e / 2 ^ 12 % 2 ^ 36 * 2 ^ 12) rest

/-- Step 1 for one 64 KiB page: its physical address, when it may be sealed. -/
def State.sealablePage (s : State) (world root va : Nat) : Option Nat :=
  match s.walk va root [4, 3, 2, 1, 0] with
  | .error _ => none
  | .ok l =>
    let pa := l.phys + (va - l.va)
    if l.x && !l.w && (s.physKind pa = .hbm || s.physKind pa = .cap) && s.ownerWorld pa = world && !s.codeSealedAt pa then some pa
    else none

/-- Step 1 for a range: the physical pages. -/
def State.sealablePages (s : State) (world root va : Nat) : Nat → Option (List Nat)
  | 0 => some []
  | n + 1 =>
    match s.sealablePage world root va with
    | none => none
    | some pa => (State.sealablePages s world root (va + 2 ^ 16) n).map (pa :: ·)

/-- Sets EO on the leaf of every page (R203, R423): bit 4 of the entry. -/
def State.setEo (s : State) (root va : Nat) : Nat → State
  | 0 => s
  | n + 1 =>
    let s := match s.leafEntry va root [4, 3, 2, 1, 0] with
      | some ea => s.performWrite none false ea [s.mem.read ea ||| 0x10]
      | none => s
    State.setEo s root (va + 2 ^ 16) n

/-- Drops every L1 line of the pages: changed words are written back and partials combined first (R201, R423). -/
def State.dropPages (s : State) (pages : List Nat) : State :=
  let hit (k : Nat) : Bool := pages.contains (4 * (k % 2 ^ 40) / 2 ^ 16 * 2 ^ 16)
  let s := pages.foldl (fun s p => s.combine p (2 ^ 16)) s
  { s with l1 := s.l1.filter fun (k, _) => !hit k, wordOwner := s.wordOwner.filter fun (w, _) => !hit w }

/-- Creation with the code sealed (R423, R425): the seal, and the measurement after it. -/
def State.sealCode (s : State) (ctx root base bytes : Nat) (pages : List Nat) : State × List Byte :=
  let s := s.setEo root base (bytes / 2 ^ 16)
  let s := { s with tlb := s.tlb.filter fun e => e.ctx ≠ ctx }.dropPages pages
  let s := { s with sec := { s.sec with codeSeals := s.sec.codeSeals ++ [⟨ctx, base, bytes, pages⟩] } }
  let code := pages.flatMap fun p => s.mem.readN p (2 ^ 16)
  (s, padTo 64 ((Config.digest 0 (leBytes 8 base ++ leBytes 4 bytes ++ code)).take 64))

/-- The RESULT that refuses a protected creation, or the pages of its code (R422). -/
def State.protRefusal (s : State) (world root base bytes : Nat) (codeMut : Bool) : Except Nat (List Nat) :=
  if s.sec.mode = 0 then .error 4
  else if s.sec.dbg ≠ 0 then .error 3
  else if s.sec.hold || s.worldScrubs world then .error 2
  else if world < 2 || s.worldLive world then .error 5
  else if codeMut then .ok []
  else match s.sealablePages world root base (bytes / 2 ^ 16) with
    | none => .error 7
    | some ps => .ok ps

/-- R425, steps 2 to 4: the frame key, the seal and measurement, and a clear counter table. -/
def State.protect (s : State) (ctx world root base bytes : Nat) (codeMut : Bool) (pages : List Nat) : State :=
  let s := s.writeKey (30 + world)
  let (s, m) := if codeMut then (s, List.replicate 64 0) else s.sealCode ctx root base bytes pages
  let p : Prot := ⟨if codeMut then 0 else base, if codeMut then 0 else bytes, m, 0, [], []⟩
  { s with sec := { s.sec with prot := s.sec.prot.put ctx p } }

end Sys2Proof.Machine
end

