-- ==== Sys2Proof/Machine/Commands.lean ====
section
/-! DEFINITION. Command queues and commands (12_tasks.md R344 to R352, R358, R361 to R363). -/
namespace Sys2Proof.Machine
open Sys2Proof

/-! ### Command queues (R344, R345) -/

/-- The ring of a queue that has none yet. -/
def cmdQ0 : CmdQ := ⟨0, 0, false, 0⟩

/-- Lines of a queue's ring. -/
def CmdQ.lines (q : CmdQ) : Nat := 16 * 2 ^ q.size

/-- A write of CQBASE (R344). -/
def CmdQ.write (q : CmdQ) (v : Nat) : CmdQ :=
  let en := bitAt v 0
  if q.en then { q with en := en }
  else { addr := bitsOf v 47 12 * 4096, size := bitsOf v 3 1, en := en, next := if en then 0 else q.next }

/-- CQBASE_WRITE (R344). -/
def execCqbaseWrite (q : Nat) (v : DWord) (s : State) : Host.Outcome State Fault Refusal := viaLink s <|
  if q < 256 then .next { s with te := { s.te with cq := s.te.cq.put q (((s.te.cq.get? q).getD cmdQ0).write v.toNat) } }
  else .next s

/-- Command queues are watched in stages 3 and 4 (R449). -/
def State.inService (s : State) : Bool := s.hst.stage = 3 || s.hst.stage = 4

/-- CQ_LINE_TAKE (R345): the line at NEXT, once its SEQ is NEXT + 1. -/
def execCqLineTake (q : Nat) (s : State) : Host.Outcome State Fault Refusal := viaLink s <|
  match s.te.cq.get? q with
  | none => .next s
  | some x =>
    let line := s.comp.readN (x.addr + 128 * (x.next % x.lines)) 128
    if s.inService && x.en && bytesNum line 0x78 8 = x.next + 1 then
      let (id, s) := s.fresh
      let c : Cmd := ⟨q, x.next, line, false, 0, [], false, false, []⟩
      .next { s with te := { s.te with cq := s.te.cq.put q { x with next := x.next + 1 }, cmds := s.te.cmds.put id c } }
    else .next s

/-! ### Starting and completing a command (R346, R347) -/

/-- A field of a command line. -/
def Cmd.f (c : Cmd) (off n : Nat) : Nat := bytesNum c.bytes off n

/-- The command may start: every command of its queue that was taken before it has started, and with BARRIER has completed (R346); the keys
of commands rise in the order in which their lines are taken. -/
def State.mayStart (s : State) (id : Nat) (c : Cmd) : Bool :=
  !c.started && s.te.cmds.all fun (n, x) =>
    x.queue ≠ c.queue || id ≤ n || (x.started && !bitAt (c.f 1 1) 0)

/-- Bytes that the ranges do not name are zero. -/
def zeroBut (b : List Byte) (used : List (Nat × Nat)) : Bool :=
  (List.range 128).all fun i => b[i]?.getD 0 = 0 || used.any fun (o, n) => o ≤ i && i < o + n

/-- The line is malformed under R346 and R347. -/
def Cmd.bad (c : Cmd) (used : List (Nat × Nat)) : Bool :=
  let cw := bitAt (c.f 1 1) 1
  4 ≤ c.f 1 1 || (cw && c.f 0x70 8 % 16 ≠ 0)
  || !zeroBut c.bytes ([(0, 2), (4, 4), (0x78, 8)] ++ (if cw then [(0x70, 8)] else []) ++ used)

/-- Handle entries forget a command that has retired (R351). -/
def Handle.forget (cmd : Nat) (h : Handle) : Handle :=
  { h with writer := h.writer.filter (· ≠ cmd), readers := h.readers.filter (· ≠ cmd) }

/-- A command completes: its record is written, with CWRITE and an aligned address (R347). -/
def State.complete (s : State) (id status detail : Nat) : State :=
  match s.te.cmds.get? id with
  | none => s
  | some c =>
    let s := if bitAt (c.f 1 1) 1 && c.f 0x70 8 % 16 = 0 then
        { s with comp := s.comp.writeN (c.f 0x70 8) (leBytes 8 (c.f 0x78 8) ++ leBytes 1 status ++ leBytes 1 detail ++ List.replicate 6 0) }
      else s
    { s with te := { s.te with cmds := s.te.cmds.del id, handles := s.te.handles.map fun (n, h) => (n, h.forget id) } }

/-- Marks a command started. -/
def State.startCmd (s : State) (id : Nat) : State :=
  { s with te := { s.te with cmds := s.te.cmds.upd id fun c => { c with started := true } } }

/-- A command of an opcode begins: `body` gives its effect once it may start and its line is well formed. -/
def command (op id : Nat) (used : Cmd → List (Nat × Nat)) (s : State) (body : Cmd → State) : Host.Outcome State Fault Refusal :=
  match s.te.cmds.get? id with
  | none => .next s
  | some c =>
    if c.f 0 1 ≠ op || !s.mayStart id c then .next s
    else if c.bad (used c) then .next (s.complete id 1 0)
    else .next (body c)

/-- CMD_NOP (R348): completes when it starts. A line with an opcode above 6 completes with status 1. -/
def execCmdNop (cmd : Nat) (s : State) : Host.Outcome State Fault Refusal :=
  match s.te.cmds.get? cmd with
  | none => .next s
  | some c =>
    let op := c.f 0 1
    if !s.mayStart cmd c || (op ≠ 0 && op ≤ 6) then .next s
    else .next (s.complete cmd (if op ≠ 0 || c.bad [] then 1 else 0) 0)

/-- The context that a command names, while it has not ended (R347). -/
def State.cmdCtx (s : State) (c : Cmd) : Option Ctx :=
  match s.ctx? (c.f 4 4) with
  | some x => if x.state = .live && x.pending.isNone then some x else none
  | none => none

/-! ### Contexts (R349, R421, R425, R426) -/

/-- A power of two. -/
def isPow2 (n : Nat) : Bool := n ≠ 0 && n &&& (n - 1) = 0

/-- The ranges of R349, and of R421 for a protected context. -/
def ctxRangesOk (s : State) (c : Cmd) : Bool :=
  let mask : BitVec 64 := BitVec.ofNat 64 (c.f 0x30 8)
  let prot := bitAt (c.f 3 1) 0
  1 ≤ c.f 2 1 && c.f 2 1 ≤ 15 && c.f 3 1 ≤ 1 && c.f 4 4 ≠ 0 && (s.ctx? (c.f 4 4)).isNone
  && c.f 8 8 % 2048 = 0 && c.f 0x10 8 % 128 = 0 && c.f 0x10 8 < 2 ^ 56 && c.f 0x18 8 % 4096 = 0 && c.f 0x18 8 < 2 ^ 56
  && c.f 0x20 8 % 65536 = 0 && c.f 0x20 8 < 2 ^ 56
  && (c.f 0x28 8 = 0 || (2 ^ 10 ≤ c.f 0x28 8 && c.f 0x28 8 ≤ 2 ^ 40))
  && (s.ctxs.all fun (_, x) => x.tqMask &&& mask = 0)
  && isPow2 (c.f 0x38 4) && 8 ≤ c.f 0x38 4 && c.f 0x38 4 ≤ 256 && c.f 0x3C 4 % 4096 = 0
  && c.f 0x40 4 % 4096 = 0 && 8192 ≤ c.f 0x40 4 && 1 ≤ c.f 0x44 2 && c.f 0x44 2 ≤ 4096
  && (!prot || (c.f 0x48 8 % 65536 = 0 && c.f 0x48 8 < 2 ^ 56 && c.f 0x50 4 % 65536 = 0 && 65536 ≤ c.f 0x50 4 && c.f 0x50 4 ≤ 2 ^ 30
    && c.f 0x54 1 < 4))

/-- The context that a CTXCREATE makes. -/
def newCtx (c : Cmd) : Ctx :=
  let prot := bitAt (c.f 3 1) 0
  { world := c.f 2 1, prot := prot, fabric := !prot || bitAt (c.f 0x54 1) 1, codeMut := !prot || bitAt (c.f 0x54 1) 0,
    root := c.f 8 8, ringBase := c.f 0x10 8, ringRecs := c.f 0x38 4, frameBase := c.f 0x18 8, slotBytes := c.f 0x3C 4,
    spillBase := c.f 0x20 8, spillBytes := c.f 0x40 4, slots := c.f 0x44 2,
    lookout := if c.f 0x28 8 = 0 then 2 ^ 26 else c.f 0x28 8, tqMask := BitVec.ofNat 64 (c.f 0x30 8), state := .live, posted := 0,
    pending := none, heldRec := none, halting := false, halted := false, destroy := none }

/-- The sequencer has taken or holds another command: a protected creation waits its turn (R418). A DBGUNLOCK that has committed
holds up nothing. -/
def State.seqBusy (s : State) : Bool :=
  s.sec.cmd.isSome || (match s.sec.job with | some (.save _) => true | _ => false)

/-- CTXCREATE (R349, R422, R425, R433). -/
def execCtxcreate (cmd : Nat) (s : State) : Host.Outcome State Fault Refusal :=
  let used (c : Cmd) : List (Nat × Nat) := [(2, 2), (8, 0x3E)] ++ (if bitAt (c.f 3 1) 0 then [(0x48, 8), (0x50, 4), (0x54, 1)] else [])
  command 2 cmd used s fun c =>
    let id := c.f 4 4
    let w := c.f 2 1
    let x := newCtx c
    if !ctxRangesOk s c then s.complete cmd 1 0
    else if x.prot && s.seqBusy then s
    else if x.prot then
      match s.protRefusal w x.root (c.f 0x48 8) (c.f 0x50 4) x.codeMut with
      | .error r => s.complete cmd 7 r
      | .ok pages =>
        let s := { s with ctxs := s.ctxs.put id x }.protect id w x.root (c.f 0x48 8) (c.f 0x50 4) x.codeMut pages
        s.complete cmd 0 0
    else if s.sec.hold || s.worldScrubs w then s.complete cmd 7 2
    else if s.worldProt w then s.complete cmd 7 5
    else { s with ctxs := s.ctxs.put id x }.complete cmd 0 0

/-- CTXDESTROY (R348, R426): the context's teams stop and its unstarted operations are cancelled; it completes with the end of the
context. -/
def execCtxdestroy (cmd : Nat) (s : State) : Host.Outcome State Fault Refusal :=
  command 3 cmd (fun _ => []) s fun c =>
    match s.cmdCtx c with
    | none => s.complete cmd 2 0
    | some _ => ((s.startCmd cmd).cancelOps (c.f 4 4)).updCtx (c.f 4 4) fun x => { x with state := .ending, destroy := some cmd }

/-! ### Buffer handles (R351) -/

/-- HANDLE (R351). A free completes once its writer and readers have retired. -/
def execHandle (cmd : Nat) (s : State) : Host.Outcome State Fault Refusal :=
  let free (c : Cmd) : State :=
    let n := c.f 8 2
    match s.te.handles.get? n with
    | none => s.complete cmd 0 0
    | some h =>
      if h.writer.isNone && h.readers.isEmpty then { s with te := { s.te with handles := s.te.handles.del n } }.complete cmd 0 0
      else s.startCmd cmd
  match s.te.cmds.get? cmd with
  | some c =>
    if c.started && c.f 0 1 = 4 then .next (free c)
    else
      command 4 cmd (fun _ => [(2, 1), (8, 2), (0x10, 16)]) s fun c =>
        let n := c.f 8 2
        if 2 ≤ c.f 2 1 || 4096 ≤ n then s.complete cmd 1 0
        else if c.f 2 1 = 1 then free c
        else if (s.cmdCtx c).isNone then s.complete cmd 2 0
        else if (s.te.handles.get? n).isSome then s.complete cmd 3 0
        else
          let h : Handle := ⟨c.f 4 4, BitVec.ofNat 64 (c.f 0x10 8), BitVec.ofNat 64 (c.f 0x18 8), 0, 0, none, []⟩
          { s with te := { s.te with handles := s.te.handles.put n h } }.complete cmd 0 0
  | none => .next s

/-! ### Hardware task queues (R361 to R363) -/

/-- A task queue; one never bound holds nothing. -/
def State.taskQ (s : State) (q : Nat) : TaskQ := (s.te.tq.get? q).getD ⟨false, 0, 0, 0, 0, 0, []⟩

/-- Descriptors held. -/
def TaskQ.count (q : TaskQ) : Nat := q.tail - q.head

/-- Virtual address of descriptor slot `i` of a queue's ring. -/
def TaskQ.slotVa (q : TaskQ) (i : Nat) : Nat := q.base.toNat + 64 * (i % 2 ^ q.log)

/-- Stores a task queue. -/
def State.putTaskQ (s : State) (n : Nat) (q : TaskQ) : State := { s with te := { s.te with tq := s.te.tq.put n q } }

/-- The cache is full: its oldest descriptor goes to the ring (R362). One whose ring page cannot be written stays. -/
def State.spillTaskQ (s : State) (n : Nat) : State :=
  let q := s.taskQ n
  if q.cache.length ≤ Config.queueCache then s
  else
    match q.cache with
    | [] => s
    | (i, d) :: _ =>
      match s.engWrite q.ctx (q.slotVa i) d with
      | .error _ => s
      | .ok s => s.putTaskQ n { q with cache := q.cache.del i }

/-- push (R362): none when the queue is full. -/
def State.push (s : State) (n : Nat) (d : List Byte) : Option State :=
  let q := s.taskQ n
  if q.count = 2 ^ q.log then none
  else some ((s.putTaskQ n { q with tail := q.tail + 1, cache := q.cache.put q.tail d }).spillTaskQ n)

/-- The descriptor at an index: from the cache, else from the ring (R362). -/
def State.descOf (s : State) (n i : Nat) : List Byte :=
  let q := s.taskQ n
  match q.cache.get? i with
  | some d => d
  | none =>
    match s.engRead q.ctx (q.slotVa i) 64 .read with
    | .ok b => b
    | .error _ => (List.range 64).map (Config.freeByte s.free)

/-- take and steal (R362): the descriptor leaves at the tail or at the head. -/
def State.takeDesc (s : State) (n : Nat) (steal : Bool) : State :=
  let q := s.taskQ n
  let i := if steal then q.head else q.tail - 1
  let s := if (q.cache.get? i).isSome then s else s.passRead none q.ctx (s.ctxWorld q.ctx) (q.slotVa i) .read 64
  { s with free := s.free + 1 }.putTaskQ n
    { q with head := if steal then q.head + 1 else q.head, tail := if steal then q.tail else q.tail - 1, cache := q.cache.del i }

/-- The context that holds a queue (R363). -/
def State.queueCtx (s : State) (q : Nat) : Option (Nat × Ctx) := s.ctxs.find? fun (_, c) => c.tqMask.getLsbD q

/-- TQBIND (R348, R361, R363). -/
def execTqbind (cmd : Nat) (s : State) : Host.Outcome State Fault Refusal :=
  command 5 cmd (fun _ => [(2, 2), (8, 8)]) s fun c =>
    let n := c.f 2 1
    let log := c.f 3 1
    if 64 ≤ n || log < 6 || 20 < log || c.f 8 8 % 4096 ≠ 0 || 2 ^ 56 ≤ c.f 8 8 then s.complete cmd 1 0
    else
      match s.cmdCtx c with
      | none => s.complete cmd 2 0
      | some x =>
        let q := s.taskQ n
        if !x.tqMask.getLsbD n || (q.bound && q.count ≠ 0) then s.complete cmd 1 0
        else (s.putTaskQ n ⟨true, log, BitVec.ofNat 64 (c.f 8 8), c.f 4 4, 0, 0, []⟩).complete cmd 0 0

/-- Pushes descriptors in order, while there is room. -/
def State.pushAll (s : State) (n : Nat) : List (List Byte) → State
  | [] => s
  | d :: ds =>
    match s.push n d with
    | none => s
    | some s => State.pushAll s n ds

/-- TQPUSH once it has started: it reads every descriptor, then pushes them all, or none (R348). -/
def State.tqpush (s : State) (id : Nat) (c : Cmd) : State :=
  let n := c.f 2 1
  let k := c.f 0x10 4
  match s.cmdCtx c with
  | none => s.complete id 2 0
  | some x =>
    let q := s.taskQ n
    if !x.tqMask.getLsbD n || !q.bound || c.failed then s.complete id 1 0
    else
      match s.engRead (c.f 4 4) (c.f 8 8) (64 * k) .read with
      | .error (.missing va) =>
        let (tok, s) := s.requestPage (c.f 4 4) 0 va
        { s with te := { s.te with cmds := s.te.cmds.upd id fun c => { c with token := tok, started := true } } }
      | .error (.fault _ _) => s.complete id 1 0
      | .ok b =>
        let s := s.passRead none (c.f 4 4) (s.ctxWorld (c.f 4 4)) (c.f 8 8) .read (64 * k)
        if 2 ^ q.log < q.count + k then s.complete id 1 0
        else (s.pushAll n ((List.range k).map fun i => (b.drop (64 * i)).take 64)).complete id 0 0

/-- TQPUSH (R348, R363). One that waited for a page goes on after the driver's answer. -/
def execTqpush (cmd : Nat) (s : State) : Host.Outcome State Fault Refusal :=
  match s.te.cmds.get? cmd with
  | some c =>
    if c.started && c.f 0 1 = 6 then .next (if c.token = 0 then s.tqpush cmd c else s)
    else
      command 6 cmd (fun _ => [(2, 1), (8, 8), (0x10, 4)]) s fun c =>
        if 64 ≤ c.f 2 1 || c.f 8 8 % 64 ≠ 0 || 2 ^ 56 ≤ c.f 8 8 || c.f 0x10 4 = 0 || 2 ^ 20 < c.f 0x10 4 then s.complete cmd 1 0
        else s.tqpush cmd c
  | none => .next s

/-! ### LAUNCH (R127, R352, R358) -/

/-- The handle words of a LAUNCH: handle and write mark. -/
def Cmd.handles (c : Cmd) : List (Nat × Bool) :=
  (List.range (c.f 3 1)).map fun i => (bitsOf (c.f (0x30 + 4 * i) 4) 11 0, bitAt (c.f (0x30 + 4 * i) 4) 12)

/-- The fields of R358 out of range. -/
def launchBad (c : Cmd) : Bool :=
  8 < c.f 2 1 || 16 < c.f 3 1 || c.f 8 8 % 4 ≠ 0 || c.f 0x18 4 = 0 || 2 ^ 31 < c.f 0x18 4 || 7 < c.f 0x1C 1
  || (List.range 16).any fun i => if i < c.f 3 1 then 2 ^ 13 ≤ c.f (0x30 + 4 * i) 4 else c.f (0x30 + 4 * i) 4 ≠ 0

/-- A LAUNCH names a free handle, another context's, or one twice (R352). -/
def State.handlesBad (s : State) (ctx : Nat) (hs : List (Nat × Bool)) : Bool :=
  (hs.map (·.1)).eraseDups.length ≠ hs.length
  || hs.any fun (n, _) => match s.te.handles.get? n with | some h => h.ctx ≠ ctx | none => true

/-- What a LAUNCH waits for by its handles has retired (R127). -/
def State.handlesReady (s : State) (hs : List (Nat × Bool)) : Bool :=
  hs.all fun (n, w) => match s.te.handles.get? n with
    | some h => h.writer.isNone && (!w || h.readers.isEmpty)
    | none => true

/-- Records a LAUNCH in an entry that it names (R127). -/
def Handle.record (cmd : Nat) (c : Cmd) (w : Bool) (h : Handle) : Handle :=
  if w then { h with writer := some cmd, queue := c.queue, line := c.line, readers := [] } else { h with readers := h.readers ++ [cmd] }

/-- LAUNCH (R127, R352, R358): the grid waits to start. -/
def execLaunch (cmd : Nat) (s : State) : Host.Outcome State Fault Refusal :=
  command 1 cmd (fun _ => [(2, 2), (8, 0x15), (0x1E, 2), (0x20, 8), (0x30, 64)]) s fun c =>
    if launchBad c then s.complete cmd 1 0
    else
      match s.cmdCtx c with
      | none => s.complete cmd 2 0
      | some _ =>
        let hs := c.handles
        if s.handlesBad (c.f 4 4) hs then s.complete cmd 3 0
        else if !s.handlesReady hs then s
        else
          let handles := hs.foldl (fun (t : Tbl Handle) x => t.upd x.1 fun h => h.record cmd c x.2) s.te.handles
          let (id, s) := s.fresh
          let g : Grid :=
            { ctx := c.f 4 4, index := none, depth := 0, entry := BitVec.ofNat 64 (c.f 8 8), arg := BitVec.ofNat 64 (c.f 0x10 8),
              seed := BitVec.ofNat 64 (c.f 0x20 8), n := c.f 0x18 4, next := 0, width := c.f 2 1, priority := c.f 0x1C 1,
              memKiB := c.f 0x1E 2, shape := none, live := 0, children := [], parent := none, parentGrid := none, cmd := some cmd,
              waitFrom := s.ref, token := 0 }
          { s with grids := s.grids.put id g, te := { s.te with handles := handles } }.startCmd cmd

end Sys2Proof.Machine
end

