-- ==== Sys2Proof/Machine/Grids.lean ====
section
/-! DEFINITION. Grids and the life of a team (01_machine.md R15 to R19; 12_tasks.md R350, R356, R359, R360, R365, R366, R370,
R372, R373, R375 to R378). -/
namespace Sys2Proof.Machine
open Sys2Proof

/-- The context is live and no fatal fault has ended it. -/
def State.ctxLive (s : State) (ctx : Nat) : Bool := (s.ctx? ctx).any fun c => c.state = .live && c.pending.isNone

/-- A context that is neither ending nor halted: its teams are placed (R160). -/
def State.ctxRuns (s : State) (ctx : Nat) : Bool :=
  (s.ctx? ctx).any fun c => c.state = .live && c.pending.isNone && !c.halting && !c.halted

/-- A TASKQ fault of the task engine: detail, queue or 0xFF, address and the 64 bytes (R373). -/
def State.taskFault (s : State) (ctx detail queue : Nat) (addr : DWord) (bytes : List Byte) : State :=
  s.fatalCtx ctx
    { code := .taskq, kind := 0, core := 0, grp := 0xFF, team := 0, grid := 0xFFFFFFFF, pc := 0,
      info := trapInfo (queue * 256 + detail) 0 0 0, addr := addr, clk := s.clk 0, detail := bytes }

/-! ### Starting a grid (R356, R359) -/

/-- A %grid index that no live grid holds, never 0xFFFF_FFFF: which one is open (R359). -/
def State.gridIndex (s : State) (x : Nat) : Nat → Nat
  | 0 => x % 0xFFFFFFFF
  | fuel + 1 =>
    if s.grids.any fun (_, g) => g.index = some (x % 0xFFFFFFFF) then State.gridIndex s (x + 1) fuel else x % 0xFFFFFFFF

/-- A grid index, drawn freely (R359). -/
def State.newGridIndex (s : State) : Nat × State :=
  let (v, s) := s.drawFree
  (s.gridIndex v.toNat s.grids.length, s)

/-- Live grids that hold an index: at most 4,096 (R370). -/
def State.liveGrids (s : State) : Nat := (s.grids.filter fun (_, g) => g.index.isSome).length

/-- Changes a grid. -/
def State.updGrid (s : State) (k : Nat) (f : Grid → Grid) : State := { s with grids := s.grids.upd k f }

/-- A grid that is refused goes: its LAUNCH completes, or the context of a child ends (R347, R356, R370, R373). -/
def State.refuseGrid (s : State) (k : Nat) (g : Grid) (status detail taskq : Nat) : State :=
  match g.cmd with
  | some c => { s with grids := s.grids.del k }.complete c status detail
  | none => s.taskFault g.ctx taskq 0xFF g.blockAt g.block

/-- An empty core holds a team of the shape (R359). -/
def Shape.holdable (x : Shape) : Bool :=
  let backing := (List.range 8).foldl (fun n p => n + backingOf (List.replicate (x.groupsOn 0 p) x.v)) 0
  x.mem + backing ≤ 2 ^ 21

/-- GRID_START (R356, R359, R449): the header is read and checked, and the grid takes its index. A launch that no admitted cluster could hold waits
until no cluster remains to be tested. -/
def execGridStart (grid : Nat) (s : State) : Host.Outcome State Fault Refusal :=
  match s.grids.get? grid with
  | none => .next s
  | some g =>
    if g.shape.isSome || g.token ≠ 0 || !s.ctxLive g.ctx then .next s
    else if g.failed then .next (s.refuseGrid grid g 4 5 3)
    else if g.index.isNone && 4096 ≤ s.liveGrids then .next s
    else
      match s.readHeader g.ctx g.entry false (g.width ≠ 0) { kib := g.memKiB } with
      | .missing va =>
        let (tok, s) := s.requestPage g.ctx 2 va
        .next (s.updGrid grid fun g => { g with token := tok })
      | .refused d => .next (s.refuseGrid grid g 4 d 3)
      | .ok x =>
        let bytes := ((s.ctx? g.ctx).map (·.slotBytes)).getD 0
        if bytes < x.frameBytes 18 then .next (s.refuseGrid grid g 5 0 3)
        else if !x.holdable || s.hst.cladm = 0 then
          .next (if s.hst.cladm ||| s.hst.clfail = BitVec.allOnes 16 then s.refuseGrid grid g 5 0 6 else s)
        else
          let s := s.passHeader g.ctx g.entry
          let (i, s) := match g.index with | some i => (i, s) | none => s.newGridIndex
          .next (s.updGrid grid fun g => { g with shape := some x, index := some i, waitFrom := s.ref })

/-! ### Placing teams (R14, R15, R350, R359, R376) -/

/-- The record of a team before it is placed. -/
def emptyTeam (ctx : Nat) (entry arg seed : DWord) (priority frameSlot : Nat) (x : Shape) : Team :=
  { ctx := ctx, grid := none, index := 0, depth := 0, gridIdx := 0xFFFFFFFF, isTask := true, taskId := 0, arg := arg,
    entry := entry, seed := seed, priority := priority, shape := x, state := .loading, core := none, cluster := 0, slot := 0,
    part := 0, base := 0, phys := [], tileTy := [], groups := [], frameSlot := frameSlot, saves := 0, pfcount := 0, rings := [],
    logs := [], bars := [], locks := [], mcast := [], chains := [], bank0 := [], bank1 := [], cur := 0, unit := .idle, atq := [],
    tep := none, successor := none, children := [], joined := [], hamper := [], stopping := none, missing := [], token := 0,
    answered := false, first := 0xFF, order := 0, relq := [], voc := [], tokenAt := 0, succ := false }

/-- Team `i` of a grid. -/
def Grid.team (k : Nat) (g : Grid) (x : Shape) (i frameSlot : Nat) : Team :=
  { emptyTeam g.ctx g.entry g.arg g.seed g.priority frameSlot x with
    grid := some k, index := i, depth := g.depth, gridIdx := g.index.getD 0, isTask := false }

/-- Places the next teams of a grid at sites, in order; none when one of them does not fit (R350, R359). -/
def State.placeTeams (s : State) (k : Nat) (x : Shape) : List Site → Option State
  | [] => some s
  | site :: rest =>
    match s.grids.get? k with
    | none => none
    | some g =>
      match s.freeFrame g.ctx with
      | none => none
      | some f =>
        if s.fits x (some k) none site then
          let (id, s) := s.fresh
          let s := s.placeNew id (g.team k x g.next f) site
          State.placeTeams (s.updGrid k fun g => { g with next := g.next + 1, live := g.live + 1 }) k x rest
        else none

/-- Teams that are placed together (R15, R359). -/
def Grid.blockTeams (g : Grid) : Nat := if g.width = 0 then 1 else min g.width (g.n - g.next)

/-- TEAM_PLACE (R15, R359, R376, R378): the next team, or the next block in one cluster. -/
def execTeamPlace (grid : Nat) (sites : List Site) (s : State) : Host.Outcome State Fault Refusal :=
  match s.grids.get? grid with
  | none => .next s
  | some g =>
    match g.shape with
    | none => .next s
    | some x =>
      let oneCluster := sites.all fun a => sites.all fun b => clusterOf a.core = clusterOf b.core
      if g.next < g.n && s.ctxRuns g.ctx && sites.length = g.blockTeams && oneCluster
          && sites.all (fun a => !s.returnsFirst a.core g.priority) then
        .next ((s.placeTeams grid x sites).getD s)
      else .next s

/-! ### Hampers (R366) -/

/-- The descriptor of a copy of `n` words from an address to a team-memory offset. -/
def hamperDesc (addr : Nat) (off n : Nat) : List Byte :=
  leBytes 8 addr ++ leBytes 8 off ++ leBytes 8 0 ++ leBytes 8 (2 ^ 14 + 2) ++ leBytes 2 (n - 1) ++ List.replicate 30 0

/-- A copy outside every queue: it has started, with its descriptor. -/
def engineCopy (team sub : Nat) (hdr : DWord) (desc : List Byte) : Copy :=
  { team := team, grp := 0, sub := sub, sdelta := 0, ddelta := 0, cvm := 0, seed := 0, step0 := 0, hdr := hdr, slot := 0,
    op := none, descAt := 0, desc := some desc, idx := [], after := [], started := true, aside := false, flags := 0, claim := none,
    recv := [], pos := 0, placed := 0, buf := [], need := [], fault := none, committed := false, token := 0, blockedFrom := none,
    asked := false, reads := [], data := none, parked := false }

/-- Adds the copies of one hamper entry, at most 65,536 words each. -/
def State.hamperCopies (s : State) (k : Nat) (hdr : DWord) (h : Hamper) : State :=
  (List.range ((h.bytes + 262143) / 262144)).foldl (fun s i =>
    let (id, s) := s.fresh
    let n := min 262144 (h.bytes - 262144 * i) / 4
    { s with copies := s.copies.put id (engineCopy k 0 hdr (hamperDesc (h.addr.toNat + 262144 * i) (h.offset + 262144 * i) n)) }) s

/-- HAMPER_COPY (R366): the hamper's copies begin; the team runs once all have landed. -/
def execHamperCopy (team : Nat) (s : State) : Host.Outcome State Fault Refusal :=
  match s.team? team with
  | none => .next s
  | some t =>
    if t.state ≠ .loading || t.core.isNone then .next s
    else if t.hamper.any (·.bytes ≠ 0) then
      .next ((t.hamper.foldl (fun s h => s.hamperCopies team t.entry h) s).updTeam team fun t => { t with hamper := [] })
    else if s.copies.any fun (_, c) => c.team = team then .next s
    else .next (s.updTeam team fun t => { t with state := .running, hamper := [] })

/-! ### Retirement (R17, R18, R376) -/

/-- Nothing of the team is outstanding: operations, requests, messages, copies, tile operations, tables, ring releases and lock
releases (R17). -/
def State.teamQuiet (s : State) (k : Nat) (t : Team) : Bool :=
  !(s.ops.any fun (_, o) => o.owner.team = k) && !s.trafficOut k && !(s.copies.any fun (_, c) => c.team = k) && t.tablesIdle
  && t.relq.isEmpty && !(s.locks.any fun (_, l) => l.holder.any (·.team = k)) && !s.swapping k

/-- A retired member stays a member, with its last place (R151, R153). -/
def Barrier.leave (b : Barrier) (k : Nat) (t : Team) : Barrier :=
  let past (i : Nat) : DWord := (t.groups[i]?.map (·.lastHdr)).getD 0
  { b with members := b.members.map fun m =>
      if m.who.team = k then { m with past := some (t.coreN, t.slot, past m.who.grp) } else m }

/-- The team's own barriers go; in shared ones it stays a member (R149, R151). -/
def State.dropBars (s : State) (k : Nat) (t : Team) : State :=
  let own (b : Barrier) : Bool := (b.level = 0 && b.scope = k) || (b.grid.isNone && b.members.any fun m => m.who.team = k)
  { s with bars := (s.bars.filter fun x => !own x.2).map fun x => (x.1, x.2.leave k t) }

/-- Locks that no team binds any more are free (R222). -/
def State.dropTeamLocks (s : State) (k : Nat) (t : Team) : State :=
  let used (n : Nat) : Bool := s.teams.any fun (j, u) => j ≠ k && u.locks.any fun x => x.2 = n
  { s with locks := s.locks.filter fun x => !(t.locks.any fun y => y.2 = x.1) || used x.1 }

/-- The team's core resources are free (R17, step 3): it binds no barrier and no lock any more. -/
def State.freeTeam (s : State) (k : Nat) (t : Team) : State :=
  (((s.dropBars k t).dropTeamLocks k t).updTeam k fun t => { t with bars := [], locks := [] }).leaveCore k

/-- The team is gone: its frame slot is free, and its grid has one team less (R376). -/
def State.endTeam (s : State) (k : Nat) (t : Team) : State :=
  let s := { s with teams := s.teams.del k }
  match t.grid with
  | some g => s.updGrid g fun g => { g with live := g.live - 1 }
  | none => s

/-- TEAM_RETIRE (R17, R360, R376): a joining team's resources are freed once its operations have completed, and it retires once its children
have. -/
def execTeamRetire (team : Nat) (s : State) : Host.Outcome State Fault Refusal :=
  match s.team? team with
  | none => .next s
  | some t =>
    if !s.ctxLive t.ctx || t.state ≠ .joining then .next s
    else if t.core.isNone then .next (if t.children.isEmpty then s.endTeam team t else s)
    else if s.teamQuiet team t then
      let s := s.freeTeam team t
      .next (if t.children.isEmpty then s.endTeam team t else s)
    else .next s

/-- A retired child is known to its parent (R371). -/
def State.tellParent (s : State) (k : Nat) (g : Grid) : State :=
  let s := match g.parent with
    | some p => s.updTeam p fun t => { t with children := t.children.filter (· ≠ k), joined := t.joined ++ g.index.toList }
    | none => s
  match g.parentGrid with
  | some p => s.updGrid p fun x => { x with children := x.children.filter (· ≠ k) }
  | none => s

/-- GRID_RETIRE (R17, R18): every team and every child grid has retired; the writes that its cores still hold as
partials are flushed, and the release completes its LAUNCH. -/
def execGridRetire (grid : Nat) (s : State) : Host.Outcome State Fault Refusal :=
  match s.grids.get? grid with
  | none => .next s
  | some g =>
    if g.shape.isSome && g.next = g.n && g.live = 0 && g.children.isEmpty && s.ctxLive g.ctx then
      let s := s.flushPartials fun p => p.ctx = g.ctx
      let s := { s with grids := s.grids.del grid, bars := s.bars.filter fun x => x.2.grid ≠ some grid }.tellParent grid g
      .next (match g.cmd with | some c => s.complete c 0 0 | none => s)
    else .next s

/-- CHILD_PLACEMENT_TIMEOUT (R372): the first team of a child grid has waited unplaced for the lookout limit. -/
def execChildPlacementTimeout (grid : Nat) (s : State) : Host.Outcome State Fault Refusal :=
  match s.grids.get? grid with
  | none => .next s
  | some g =>
    let limit := ((s.ctx? g.ctx).map (·.lookout)).getD 0
    if g.parent.isSome && g.shape.isSome && g.next = 0 && limit ≤ s.ref - g.waitFrom then
      .next (s.taskFault g.ctx 6 0xFF g.blockAt g.block)
    else .next s

/-! ### Pre-emption (R377) -/

/-- What waits for placement: its priority, shape, grid, the cluster of a team that returns, how many teams, and the cores it may use. -/
structure Waiter where
  priority : Nat
  shape : Shape
  grid : Option Nat
  own : Option Nat
  count : Nat
  cores : List Nat
  deriving DecidableEq, Repr

/-- Everything that waits for room: grids, Loading tasks with their header, and teams that return (R374, R377). -/
def State.waiters (s : State) : List Waiter :=
  (s.grids.filterMap fun (k, g) => match g.shape with
    | some x =>
      if g.next < g.n && s.ctxRuns g.ctx && (s.freeFrame g.ctx).isSome then
        some ⟨g.priority, x, some k, none, g.blockTeams, List.range 128⟩
      else none
    | none => none)
  ++ (s.teams.filterMap fun (k, t) =>
    if s.waitsReturn t then some ⟨t.priority, t.shape, t.grid, some t.cluster, 1, (List.range 128).filter (s.mayReturn k t)⟩
    else if t.state = .loading && t.core.isNone && !t.needHdr && s.ctxRuns t.ctx then
      some ⟨t.priority, t.shape, none, none, 1, List.range 128⟩
    else none)

/-- A place for the next team of a waiter among the cores of a list. -/
def State.siteFor (s : State) (w : Waiter) (cores : List Nat) : Option Site :=
  (cores.flatMap basesOf).find? (s.fits w.shape w.grid w.own)

/-- `n` teams of a waiter find room on cores of a list, one after another. -/
def State.roomOn (s : State) (w : Waiter) (cores : List Nat) : Nat → Bool
  | 0 => true
  | n + 1 =>
    match s.siteFor w cores with
    | none => false
    | some site =>
      let (id, s') := s.fresh
      let t := s'.takeSite (emptyTeam 0 0 0 0 0 0 w.shape) site
      let g := w.shape.startGroup 0 0 0 0 .active
      State.roomOn ((s'.putTeam id t).seatTeam id site.core (List.replicate w.shape.g g)) w cores n

/-- The places where a waiter's teams go together: one core, or one cluster for a block. -/
def Waiter.places (w : Waiter) : List (List Nat) :=
  if w.count = 1 then w.cores.map fun c => [c] else (List.range 16).map fun c => w.cores.filter fun k => clusterOf k = c

/-- A waiter finds room somewhere. -/
def State.room (s : State) (w : Waiter) : Bool := w.places.any fun cs => s.roomOn w cs w.count

/-- A team that may be chosen for a waiter of priority `p`: running, of lower priority, not in GJOIN, and its save not held by
R310. -/
def State.choosable (s : State) (p k : Nat) (t : Team) : Bool :=
  t.state = .running && t.core.isSome && t.priority < p && t.stopping.isNone && s.ctxLive t.ctx
  && !s.ops.any fun (_, o) => o.owner.team = k
    && (match o.kind with | .gjoin _ _ | .sigwait _ _ _ _ _ | .collwait _ _ => true | _ => false)

/-- Teams that may be chosen on the cores of a place. -/
def State.victims (s : State) (p : Nat) (cores : List Nat) : List (Nat × Team) :=
  s.teams.filter fun (k, t) => s.choosable p k t && cores.any fun c => t.core = some c

/-- Saving every team that may be chosen makes room at a place. -/
def State.makesRoom (s : State) (w : Waiter) (cores : List Nat) : Bool :=
  ((s.victims w.priority cores).foldl (fun s (k, _) => s.leaveCore k) s).roomOn w cores w.count

/-- The team that R377 chooses for a waiter: on a place where saving makes room, lowest priority first, then the most recently
placed. -/
def State.chosen (s : State) (w : Waiter) : Option Nat :=
  let list := (w.places.filter (s.makesRoom w)).flatMap (s.victims w.priority)
  (list.foldl (fun (best : Option (Nat × Team)) x =>
    match best with
    | none => some x
    | some b => if x.2.priority < b.2.priority || (x.2.priority = b.2.priority && b.2.placed < x.2.placed) then some x else some b)
    none).map (·.1)

/-- The team's cluster is being retired (R452). -/
def State.clusterLeaves (s : State) (team : Nat) : Bool :=
  match s.team? team with
  | some t => t.core.any fun c => s.hst.retiring = some (clusterOf c)
  | none => false

/-- A team of lower priority is being saved on a core that a waiter may use: the next one is chosen only then (R377). -/
def State.saving (s : State) (w : Waiter) : Bool :=
  s.teams.any fun x => x.2.stopping = some .preempt && x.2.priority < w.priority && w.cores.any fun c => x.2.core = some c

/-- A waiter without room, for whose sake R377 chooses this team, or its cluster is retired (R452). -/
def State.preempts (s : State) (team : Nat) : Bool :=
  s.clusterLeaves team || s.waiters.any fun w => !s.saving w && !s.room w && s.chosen w = some team

/-- PREEMPT_SAVE (R377, R419, R452): a team is chosen and its groups stop; once they have, it is saved. -/
def execPreemptSave (team : Nat) (s : State) : Host.Outcome State Fault Refusal :=
  match s.team? team with
  | none => .next s
  | some t =>
    if t.state ≠ .running || !s.ctxLive t.ctx || t.ioToken ≠ 0 then .next s
    else
      match t.stopping with
      | none => .next (if s.preempts team then s.updTeam team fun t => { t with stopping := some .preempt } else s)
      | some c => .next (if (c = .preempt || c = .security) && s.canSave team t then s.saveTeam team c else s)

end Sys2Proof.Machine
end

