-- ==== Sys2Proof/Machine/Tasks.lean ====
section
/-! DEFINITION. Tasks (12_tasks.md R360 to R375): descriptors, dispatch, succession, and the instructions QSPAWN, QSTEAL, QTAKE,
GLAUNCH and GJOIN. -/
namespace Sys2Proof.Machine
open Sys2Proof

/-! ### Task descriptors (R365, R366) -/

/-- A task descriptor's fields. -/
structure TaskDesc where
  entry : DWord
  arg : DWord
  launch : Override
  zero : Nat
  priority : Nat
  queue : Nat
  flags : Nat
  id : Nat
  hamper : List Hamper
  deriving DecidableEq, Repr

/-- A hamper entry of a descriptor. -/
def hamperOf (b : List Byte) (o : Nat) : Hamper := ⟨BitVec.ofNat 64 (bytesNum b o 8), bytesNum b (o + 8) 4, bytesNum b (o + 12) 4⟩

/-- The fields of 64 bytes. -/
def TaskDesc.parse (b : List Byte) : TaskDesc :=
  { entry := BitVec.ofNat 64 (bytesNum b 0 8), arg := BitVec.ofNat 64 (bytesNum b 8 8),
    launch := { g := bytesNum b 0x10 1, v := bytesNum b 0x11 1, roles := bytesNum b 0x12 2, kib := bytesNum b 0x14 2 },
    zero := bytesNum b 0x16 2, priority := bytesNum b 0x18 1, queue := bytesNum b 0x19 1, flags := bytesNum b 0x1A 2,
    id := bytesNum b 0x1C 4, hamper := [hamperOf b 0x20, hamperOf b 0x30] }

/-- A descriptor that its own fields refuse (R365); a successor's queue byte is ignored (R375). -/
def TaskDesc.bad (d : TaskDesc) (succ : Bool) : Bool :=
  d.entry.toNat % 4 ≠ 0 || d.zero ≠ 0 || 7 < d.priority || (!succ && 63 < d.queue) || 2 ≤ d.flags

/-- The hamper of a task (R366). -/
def TaskDesc.hamperFor (d : TaskDesc) (x : Shape) : List Hamper :=
  (if d.hamper.any (·.bytes ≠ 0) then d.hamper else x.hamper).filter (·.bytes ≠ 0)

/-- A hamper entry out of place (R366). -/
def Hamper.bad (h : Hamper) (mem : Nat) : Bool :=
  h.addr.toNat % 4 ≠ 0 || h.bytes % 4 ≠ 0 || h.offset % 4 ≠ 0 || mem < h.offset + h.bytes

/-- A descriptor that the effective shape refuses (R365, R366). -/
def TaskDesc.badFor (d : TaskDesc) (x : Shape) : Bool :=
  (d.launch.roles ≠ 0 && 8 < x.g) || (d.hamperFor x).any (·.bad x.mem)

/-- NOSTEAL. -/
def TaskDesc.noSteal (d : TaskDesc) : Bool := bitAt d.flags 0

/-- A descriptor with its header: the shape, a page to wait for, or a refusal (R355, R356, R365, R374). -/
def State.taskHeader (s : State) (ctx : Nat) (b : List Byte) (succ : Bool) : HdrRes :=
  let d := TaskDesc.parse b
  if d.bad succ then .refused 0
  else
    match s.readHeader ctx d.entry true false d.launch with
    | .ok x =>
      let slot := ((s.ctx? ctx).map (·.slotBytes)).getD 0
      if d.badFor x || slot < x.frameBytes 18 || !x.holdable then .refused 0 else .ok x
    | r => r

/-- The record of a task from its descriptor; its shape is known once its header has been read (R357, R360). -/
def taskTeam (ctx q : Nat) (b : List Byte) (at_ : DWord) (frameSlot core : Nat) (x : Shape) (needHdr : Bool) : Team :=
  let d := TaskDesc.parse b
  { emptyTeam ctx d.entry d.arg (BitVec.ofNat 64 (d.id * 2 ^ 32)) d.priority frameSlot x with
    taskId := d.id, hamper := d.hamperFor x, needHdr := needHdr, homeCore := core, desc := b, descAt := at_, fromQueue := q }

/-! ### Dispatch (R374) -/

/-- A shape that is not known yet. -/
def noShape : Shape := ⟨0, 0, 0, 0, 0, 0, 0, 0, []⟩

/-- Takes a descriptor whose header waits for a page: the task is Loading with a frame slot (R356, R374). -/
def State.takeLoading (s : State) (ctx q : Nat) (b : List Byte) (at_ : DWord) (frameSlot core va : Nat) : State :=
  let (tok, s) := s.requestPage ctx 2 va
  let (id, s) := s.fresh
  s.putTeam id { taskTeam ctx q b at_ frameSlot core noShape true with token := tok }

/-- A Loading task that can go on: its header can be read, or it fits at the site, on the core that took it or, where it does not fit
there, on any (R374). -/
def State.loadingFor (s : State) (site : Site) : Option (Nat × Team) :=
  s.teams.find? fun (_, t) =>
    t.state = .loading && t.core.isNone && t.token = 0 && s.ctxRuns t.ctx
    && (t.needHdr || ((site.core = t.homeCore || !s.fitsCore t.shape none none t.homeCore)
      && s.fits t.shape none none site && !s.returnsFirst site.core t.priority))

/-- A Loading task goes on: its header is read and checked, or it is placed. -/
def State.loadMore (s : State) (k : Nat) (t : Team) (site : Site) : State :=
  if t.needHdr then
    match s.taskHeader t.ctx t.desc false with
    | .missing va =>
      let (tok, s) := s.requestPage t.ctx 2 va
      s.updTeam k fun t => { t with token := tok }
    | .refused _ => s.taskFault t.ctx 3 t.fromQueue t.descAt t.desc
    | .ok x => (s.passHeader t.ctx t.entry).updTeam k fun t => { t with shape := x, hamper := (TaskDesc.parse t.desc).hamperFor x, needHdr := false }
  else s.placeNew k t site

/-- What the dispatcher does with a descriptor at an end of a queue. -/
inductive Pick where
  | act (s : State)
  /-- It does not fit, or a saved team goes first. -/
  | pass
  /-- It fits, but not at the site at hand. -/
  | elsewhere

/-- Tries the descriptor at the tail or head of queue `q` for core `core` (R374). -/
def State.tryDesc (s : State) (ctx q core : Nat) (site : Site) (steal : Bool) : Pick :=
  let x := s.taskQ q
  let i := if steal then x.head else x.tail - 1
  let b := s.descOf q i
  let at_ : DWord := BitVec.ofNat 64 (x.slotVa i)
  if steal && (TaskDesc.parse b).noSteal then .pass
  else
    match s.freeFrame ctx with
    | none => .pass
    | some f =>
      match s.taskHeader ctx b false with
      | .missing va => .act ((s.takeDesc q steal).takeLoading ctx q b at_ f core va)
      | .refused _ => .act ((s.takeDesc q steal).taskFault ctx 3 q at_ b)
      | .ok sh =>
        if s.fits sh none none site && !s.returnsFirst core (TaskDesc.parse b).priority then
          let (id, s') := (s.takeDesc q steal).fresh
          .act ((s'.passHeader ctx (TaskDesc.parse b).entry).placeNew id (taskTeam ctx q b at_ f core sh false) site)
        else if s.fitsCore sh none none core && !s.returnsFirst core (TaskDesc.parse b).priority then .elsewhere
        else .pass

/-- Steals for a core from the first queue of a list that gives something (R374, step 2). -/
def State.stealFor (s : State) (ctx core : Nat) (site : Site) : List Nat → Pick
  | [] => .pass
  | q :: rest =>
    if (s.taskQ q).bound && (s.taskQ q).count ≠ 0 then
      match s.tryDesc ctx q core site true with
      | .pass => State.stealFor s ctx core site rest
      | x => x
    else State.stealFor s ctx core site rest

/-- Core `core` takes the task at its home queue's tail, or steals one (R363, R374). -/
def State.dispatch (s : State) (core : Nat) (site : Site) : Pick :=
  match s.te.home.get? core with
  | none => .pass
  | some h =>
    if !h.en || site.core ≠ core then .pass
    else
      match s.queueCtx h.home with
      | none => .pass
      | some (ctx, c) =>
        let x := s.taskQ h.home
        if !s.ctxRuns ctx then .pass
        else if x.bound && x.count ≠ 0 then s.tryDesc ctx h.home core site false
        else s.stealFor ctx core site (((List.range 63).map fun i => (h.home + 1 + i) % 64).filter c.tqMask.getLsbD)

/-- A core would take a task now, at some site. -/
def State.takes (s : State) (core : Nat) : Bool :=
  match s.dispatch core ⟨core, 0, 0⟩ with
  | .pass => false
  | _ => true

/-- The first core that the dispatcher has still to consider in this cycle (R374). -/
def State.dispFrom (s : State) : Nat := if s.te.dispAt = s.ref then s.te.dispNext else 0

/-- DISPATCH (R363, R374): a Loading task goes on, or core `core` takes a task. The dispatcher considers the cores once a cycle, in
ascending number: a core before this one that would take a task goes first. -/
def execDispatch (core : Nat) (site : Site) (s : State) : Host.Outcome State Fault Refusal :=
  match s.loadingFor site with
  | some (k, t) => .next (s.loadMore k t site)
  | none =>
    if core < s.dispFrom || (List.range core).any fun n => s.dispFrom ≤ n && s.takes n then .next s
    else
      match s.dispatch core site with
      | .act s => .next { s with te := { s.te with dispAt := s.ref, dispNext := core + 1 } }
      | _ => .next s

/-! ### Succession (R375) -/

/-- Reading a successor's descriptor. -/
inductive SuccRead where
  | ok (b : List Byte) (s : State)
  | wait (s : State)
  | missing (va : Nat)
  | fault (c : FaultCode)

/-- The 64 bytes at the successor address, read as a read of the team (R375, step 3); another rank's by messages. -/
def State.readSuccessor (s : State) (k : Nat) (t : Team) (a : DWord) : SuccRead :=
  match s.checkUnit t 64 { write := false } a with
  | .error (.fault c _ _) => .fault c
  | .error (.missing va) => .missing va
  | .ok (.spad x) => .ok (s.spad.readN x 64) s
  | .ok (.phys p _ _) =>
    if s.isLost p.pa then .fault .dataLost
    else (let (b, s) := s.performRead none p.nc p.pa 64; .ok b s)
  | .ok (.far _ _ _ _) =>
    match s.copies.find? fun (_, c) => c.team = k && c.sub = 4 with
    | none =>
      let (id, s) := s.fresh
      let desc := hamperDesc a.toNat 0 16
      let c : Copy := { engineCopy k 4 t.entry desc with parked := true }
      .wait ({ s with copies := s.copies.put id c }.copyAsk t id c (CopyDesc.parse desc))
    | some (id, c) =>
      match c.fault with
      | some (e, _) => .fault e
      | none =>
        if !s.allDone c.reads then .wait s
        else .ok ((List.range 16).flatMap fun i => (c.buf.get? (2 * i)).getD []) { s with copies := s.copies.del id }

/-- The team is saved for a missing page of its successor's descriptor or header (R375, step 3). -/
def State.suspendSucc (s : State) (k kind va : Nat) : State :=
  (s.updTeam k fun t => { t with missing := [⟨kind, va⟩], needHdr := kind = 2 }).saveTeam k .page

/-- Barriers and locks of a successor are there (R149, R222). -/
def State.succRoom (s : State) (x : Shape) (core : Nat) : Bool :=
  let (bars, hub) := s.newBars x none core
  (s.barsOn core).length + bars ≤ 48 && s.hubUsed (dieOf core) + hub ≤ 64
  && (s.locks.filter fun (_, l) => l.cluster = clusterOf core).length + x.lockIds.length ≤ 64

/-- Steps 5 and 6 of R375: what the team keeps, what is set up afresh, and its groups' start. DEDUCED (log entry 50): the mask that step 1
of R275 tests stays the predecessor's, whose tiles the team keeps. -/
def State.succeed (s : State) (k : Nat) (t : Team) (b : List Byte) (a : DWord) (x : Shape) : State :=
  let d := TaskDesc.parse b
  let s := ((s.dropBars k t).dropTeamLocks k t).updTeam k fun t => { t with bars := [], locks := [] }
  if !s.succRoom x t.coreN then s
  else
    let h := d.hamperFor x
    let t := { t with
      arg := d.arg, entry := d.entry, seed := BitVec.ofNat 64 (d.id * 2 ^ 32), taskId := d.id, priority := d.priority,
      shape := { x with v := t.shape.v, mem := t.shape.mem, tiles := t.shape.tiles }, eff := some x, hamper := h, successor := none, succ := false,
      needHdr := false, desc := b, descAt := a, fromQueue := 0xFF, tep := none, children := [], joined := [], groups := [], pfcount := 0,
      state := if h.isEmpty then .running else .loading, order := s.te.order }
    let s := { s with te := { s.te with order := s.te.order + 1 } }
    let s := (s.putTeam k t).setUp k
    let g := t.shape.startGroup t.entry t.arg t.s1 t.seed .active
    (s.seatTeam k t.coreN (List.replicate x.g g)).acquireCore t.coreN

/-- Step 4 of R375, then steps 5 and 6. -/
def State.trySucceed (s : State) (k : Nat) (t : Team) (a : DWord) (b : List Byte) : State :=
  match s.taskHeader t.ctx b true with
  | .missing va => (s.updTeam k fun t => { t with desc := b, descAt := a, fromQueue := 0xFF }).suspendSucc k 2 va
  | .refused _ => s.taskFault t.ctx 3 0xFF a b
  | .ok x =>
    let y := t.eff.getD t.shape
    if y.g < x.g || y.v < x.v || y.mem < x.mem || x.tiles &&& ~~~y.tiles ≠ 0 then s.taskFault t.ctx 4 0xFF a b
    else (s.passHeader t.ctx (TaskDesc.parse b).entry).succeed k t b a x

/-- SUCCESSION (R19, R375): a task whose groups have retired with a successor fixed gives way to it. -/
def execSuccession (team : Nat) (s : State) : Host.Outcome State Fault Refusal :=
  match s.team? team with
  | none => .next s
  | some t =>
    match t.successor with
    | none => .next s
    | some a =>
      let begun := s.copies.any fun (_, c) => c.team = team && c.sub = 4
      if !s.ctxLive t.ctx || t.state ≠ .succeeding || t.core.isNone || t.ioToken ≠ 0
          || !(begun || (s.teamQuiet team t && t.children.isEmpty)) then .next s
      else
        match s.readSuccessor team t a with
        | .wait s => .next s
        | .missing va => .next (s.suspendSucc team 0 va)
        | .fault c => .next (s.fatalTeam team c 0xFF a)
        | .ok b s => .next (s.trySucceed team t a b)

/-! ### Instructions of the task engine (R367) -/

/-- An offset that is not a multiple of 64, or a block beyond team memory (R367). -/
def blockBad (t : Team) (off : Nat) (lane : Nat) : List (Option FaultInfo) :=
  [chk (off % 64 ≠ 0) { code := .align, detail := lane, addr := BitVec.ofNat 64 off },
   chk (t.shape.mem < off + 64) { code := .pageProt, detail := lane, addr := BitVec.ofNat 64 off }]

/-- A long-latency instruction of the task engine that waits for `need`. With `acq` it acquires at its completion, and later accesses of the
group wait for it (R103). -/
def State.taskOp (s : State) (r : GRef) (g : Group) (fs : Bool) (kind : OpKind) (need : List Nat) (acq : Bool := false) : Res :=
  if g.flagFull fs then .stay s g
  else
    let (id, s) := s.fresh
    .done (s.addOp id { mkOp r g fs kind with need := need, acq := acq }) (g.raiseFlag fs)

/-- QSPAWN of one descriptor (R367, R368): a release, which waits for what the group has outstanding (R103, R121). -/
def execQspawn (f : FmtBR) (s : State) : Host.Outcome State Fault Refusal :=
  s.issue f.len fun r t g =>
    let off := (g.s f.a.toNat).toNat
    match firstFault (blockBad t off 0xFF) with
    | some e => .fault e
    | none => s.taskOp r g (f.w1.fs = 1) (.qspawn [off]) (s.outstanding r)

/-- QSPAWN of one descriptor for each predicated lane (R367, R368). -/
def execQspawnV (f : FmtBR) (s : State) : Host.Outcome State Fault Refusal :=
  s.issue f.len fun r t g =>
    let lanes := (g.p (f.c.toNat % 8)).lanes
    let offs := lanes.map fun l => ((g.v f.a.toNat).lane l).toNat
    let bad (n : Nat) : List (Option FaultInfo) := (lanes.zip offs).map fun (l, o) => ((blockBad t o l)[n]?).join
    match firstFault (bad 0 ++ bad 1) with
    | some e => .fault e
    | none => if lanes.isEmpty then .done s g else s.taskOp r g (f.w1.fs = 1) (.qspawn offs) (s.outstanding r)

/-- What a QSTEAL or QTAKE comes after: the group's earlier accesses to the block of team memory that it may write (R109), and, as
synchronising operations of the local tier keep one order, its releasing stores and reductions (R105). -/
def State.blockAfter (s : State) (r : GRef) (t : Team) (off : Nat) : List Nat :=
  let meets (q : Req) : Bool := q.atSpad && overlaps q.range.1 q.range.2 (t.coreN * 2 ^ 21 + t.base + off) 64
  (s.reqs.filter fun (_, q) => q.owner = some r && (q.rel || meets q)).map (·.1)
  ++ (s.contribs.filter fun (_, c) => c.owner = some r && c.rel).map (·.1)

/-- QSTEAL and QTAKE (R367, R369): acquires. -/
def queueTake (f : FmtBR) (s : State) (steal : Bool) : Host.Outcome State Fault Refusal :=
  s.issue f.len fun r t g =>
    let off := (g.s f.a.toNat).toNat
    let q := (g.s f.b.toNat).toNat
    let held := 64 ≤ q || !(s.ctx? t.ctx).any fun c => c.tqMask.getLsbD q
    match firstFault (blockBad t off 0xFF ++ [chk held { code := .taskq, detail := (if q < 64 then q else 0xFF) * 256 + 2, addr := t.window off, bytes := s.teamRead t off 64 }]) with
    | some e => .fault e
    | none => s.taskOp r g (f.w1.fs = 1) (.qtake q off f.d.toNat steal) (s.blockAfter r t off) true

/-- QSTEAL (R369). -/
def execQsteal (f : FmtBR) (s : State) : Host.Outcome State Fault Refusal := queueTake f s true
/-- QTAKE (R369). -/
def execQtake (f : FmtBR) (s : State) : Host.Outcome State Fault Refusal := queueTake f s false

/-- GLAUNCH (R16, R367, R370). -/
def execGlaunch (f : FmtBR) (s : State) : Host.Outcome State Fault Refusal :=
  s.issue f.len fun r t g =>
    let off := (g.s f.a.toNat).toNat
    match firstFault (blockBad t off 0xFF ++ [chk (r.grp ≠ 0) { code := .priv }, chk (10 ≤ t.depth) { code := .nestDepth }]) with
    | some e => .fault e
    | none => s.taskOp r g (f.w1.fs = 1) (.glaunch off f.d.toNat) (s.outstanding r)

/-- GLAUNCHes of a team that have not been accepted. -/
def State.launching (s : State) (team : Nat) : List Nat :=
  (s.ops.filter fun (_, o) => o.owner.team = team && (match o.kind with | .glaunch _ _ => true | _ => false)).map (·.1)

/-- GJOIN (R367, R371). -/
def execGjoin (f : FmtBR) (s : State) : Host.Outcome State Fault Refusal :=
  s.issue f.len fun r t g =>
    let fs : Bool := f.w1.fs = 1
    let x := g.s f.a.toNat
    let child := t.children.find? fun k => (s.grids.get? k).any fun (c : Grid) => c.index = some x.toNat
    let (grids, bad, need) : List Nat × Bool × List Nat :=
      if x = BitVec.allOnes 64 then (t.children, false, s.launching r.team)
      else match child with
        | some k => ([k], false, [])
        | none => ([], !t.joined.contains x.toNat, [])
    if g.flagFull fs then .stay s g
    else
      let (id, s) := s.fresh
      .done (s.addOp id { mkOp r g fs (.gjoin grids bad) with need := need, acq := true }) (g.raiseFlag fs)

/-! ### Their completion (R368 to R371) -/

/-- A fault found after issue ends the context, with the instruction's clause and slot (R157, R373). -/
def State.opFault (s : State) (id : Nat) (o : Op) (detail queue : Nat) (addr : DWord) (bytes : List Byte) : State :=
  { s with ops := s.ops.del id }.fatal o.owner
    { code := .taskq, detail := queue * 256 + detail, slot := some o.slot, hdr := some o.hdr, addr := addr, bytes := bytes }

/-- QSPAWN pushes its descriptors in order (R368). -/
def State.spawnAll (s : State) (id : Nat) (o : Op) (t : Team) : List Nat → State
  | [] => s.retireOp id
  | off :: rest =>
    let b := s.teamRead t off 64
    let q := (TaskDesc.parse b).queue
    let held := q < 64 && (s.ctx? t.ctx).any fun c => c.tqMask.getLsbD q
    let at_ := t.window off
    if !held then s.opFault id o 2 (min q 0xFF) at_ b
    else if !(s.taskQ q).bound then s.opFault id o 8 q at_ b
    else
      match s.push q b with
      | none => s.opFault id o 1 q at_ b
      | some s => State.spawnAll s id o t rest

/-- An instruction has its result, and has still to reach its completion point, where it acquires if `acq` (R79, R80). -/
def Op.formed (o : Op) (acq : Bool) (d : Nat) (v : DWord) : Op :=
  { o with kind := .plain, need := [], acq := acq, writes := if d = 63 then [] else [.s d v] }

/-- QSTEAL and QTAKE take their descriptor, and their result is there; an empty queue gives nothing to acquire (R369). -/
def State.takeFor (s : State) (id : Nat) (o : Op) (t : Team) (q off d : Nat) (steal : Bool) : State :=
  let x := s.taskQ q
  if !x.bound || x.count = 0 then { s with ops := s.ops.put id (o.formed false d (BitVec.allOnes 64)) }
  else
    let b := s.descOf q (if steal then x.head else x.tail - 1)
    let s := (s.takeDesc q steal).spadWriteN (t.coreN * 2 ^ 21 + t.base + off) b
    { s with ops := s.ops.put id (o.formed true d (BitVec.ofNat 64 (TaskDesc.parse b).id)) }

/-- A launch block out of its ranges (R370). -/
def blockRefused (b : List Byte) : Bool :=
  bytesNum b 0 8 % 4 ≠ 0 || bytesNum b 0x10 4 = 0 || 2 ^ 31 < bytesNum b 0x10 4 || 8 < bytesNum b 0x14 1
  || (7 < bytesNum b 0x15 1 && bytesNum b 0x15 1 ≠ 0xFF) || !zeroAt b 0x20 32

/-- GJOINs that wait for a GLAUNCH now wait for its grid (R371). -/
def Op.joins (launch grid : Nat) (o : Op) : Op :=
  match o.kind with
  | .gjoin gs bad => if o.need.contains launch then { o with kind := .gjoin (gs ++ [grid]) bad, need := o.need.filter (· ≠ launch) } else o
  | _ => o

/-- Every waiting GJOIN of all the children also awaits the new grid (R371). -/
def State.joinLaunch (s : State) (id k : Nat) : State :=
  let ops : Tbl Op := s.ops.map fun x => (x.1, x.2.joins id k)
  { s with ops := ops }

/-- GLAUNCH is accepted (R370): the grid waits to start, and the result is there. -/
def State.acceptLaunch (s : State) (id : Nat) (o : Op) (t : Team) (off d : Nat) : State :=
  let b := s.teamRead t off 64
  let at_ := t.window off
  if blockRefused b then s.opFault id o 3 0xFF at_ b
  else if 4096 ≤ s.liveGrids then s
  else
    let (i, s) := s.newGridIndex
    let (k, s) := s.fresh
    let pr := bytesNum b 0x15 1
    let g : Grid :=
      { ctx := t.ctx, index := some i, depth := t.depth + 1, entry := BitVec.ofNat 64 (bytesNum b 0 8),
        arg := BitVec.ofNat 64 (bytesNum b 8 8), seed := BitVec.ofNat 64 (bytesNum b 0x18 8), n := bytesNum b 0x10 4, next := 0,
        width := bytesNum b 0x14 1, priority := if pr = 0xFF then t.priority else pr, memKiB := bytesNum b 0x16 2, shape := none,
        live := 0, children := [], parent := some o.owner.team, parentGrid := t.grid, cmd := none, waitFrom := s.ref, token := 0,
        block := b, blockAt := at_ }
    let s := ({ s with grids := s.grids.put k g }).joinLaunch id k
    let s := s.updTeam o.owner.team fun t => { t with children := t.children ++ [k] }
    let s := match t.grid with
      | some p => s.updGrid p fun x => { x with children := x.children ++ [k] }
      | none => s
    { s with ops := s.ops.upd id fun o => o.formed false d (BitVec.ofNat 64 i) }

/-- GJOIN completes once every grid that it awaits has retired (R371). -/
def State.finishJoin (s : State) (id : Nat) (o : Op) (grids : List Nat) (bad : Bool) : State :=
  if bad then s.opFault id o 7 0xFF 0 []
  else if grids.any fun k => (s.grids.get? k).isSome then s
  else (s.retireOp id).acquire o.owner

end Sys2Proof.Machine
end

