-- ==== Sys2Proof/Machine/Complete.lean ====
section
/-! DEFINITION. The completion points of long-latency instructions (03_encoding.md R78 to R80). -/
namespace Sys2Proof.Machine
open Sys2Proof

/-- What a completing instruction waited for is done: its requests, messages, copies, tile operations and entries; a contribution that
has neither been applied nor taken an entry of its reorder buffer has not been accepted yet (R79, R219). -/
def State.opDone (s : State) (id : Nat) (o : Op) : Bool :=
  s.allDone o.need && !s.contribs.any fun x => x.2.op = some id && !x.2.held

/-- The instruction retires, and acquires where it is an acquire (R79, R103). -/
def State.endOp (s : State) (id : Nat) (o : Op) : State :=
  let s := s.retireOp id
  if o.acq then s.acquire o.owner else s

/-- An instruction whose result is formed by an engine has it, if what it waits for is done (R80). -/
def State.formOp (s : State) (id : Nat) (o : Op) (t : Team) : State :=
  match o.kind with
  | .collwait _ _ => s.formCollwait id
  | .qtake q off d steal => if s.opDone id o then s.takeFor id o t q off d steal else s
  | .glaunch off d => if s.opDone id o then s.acceptLaunch id o t off d else s
  | _ => s

/-- The result of an outstanding instruction is formed before its completion point (R80). -/
def State.formResult (s : State) (id : Nat) : State :=
  match s.ops.get? id with
  | none => s
  | some o =>
    match s.team? o.owner.team with
    | some t => if s.ctxLive t.ctx then s.formOp id o t else s
    | none => s

/-- An instruction that has its result reaches its completion point. -/
def State.endFormed (s : State) (id : Nat) : State :=
  match s.ops.get? id with
  | some o => if o.kind = .plain then s.endOp id o else s
  | none => s

/-- The instruction's completion point, when it has been reached (R79). -/
def State.completeOp (s : State) (id : Nat) (o : Op) (t : Team) : State :=
  match o.kind with
  | .plain | .load | .matrix => if s.opDone id o then s.endOp id o else s
  | .cquiesce => if t.core.isSome && s.opDone id o then s.endOp id o else s
  | .lock _ => s
  | .unlock k =>
    let s := s.unlockDone k
    if (s.locks.get? k).isSome && ((s.ops.get? id).map (·.kind)) = some (.unlock k) then s else s.endOp id o
  | .copy c =>
    match s.copies.get? c with
    | some x => if x.desc.isSome then s.endOp id o else s
    | none => s.endOp id o
  | .fabric =>
    let s := s.readSources id
    if (s.ops.get? id).isSome && s.sourcesRead id && s.opDone id o then s.endOp id o else s
  | .sigwait _ _ _ _ met => if met then (s.acquire o.owner).retireOp id else s
  | .coll _ => s.acceptColl id
  | .collwait _ _ | .qtake _ _ _ _ | .glaunch _ _ => (s.formOp id o t).endFormed id
  | .seal _ _ _ _ _ => s
  | .qspawn offs => if s.opDone id o then s.spawnAll id o t offs else s
  | .gjoin grids bad => if s.opDone id o then s.finishJoin id o grids bad else s

/-- LONG_LATENCY_COMPLETION (R79): an outstanding instruction reaches its completion point, when what it waits for is done. -/
def execLongLatencyCompletion (op : Nat) (s : State) : Host.Outcome State Fault Refusal :=
  match s.ops.get? op with
  | none => .next s
  | some o =>
    match s.team? o.owner.team with
    | none => .next { s with ops := s.ops.del op }
    | some t => if s.ctxLive t.ctx then .next (s.completeOp op o t) else .next s

end Sys2Proof.Machine
end

