-- ==== Sys2Proof/Machine/Access.lean ====
section
/-! DEFINITION. Accesses of the companion to device memory (14_security.md R409 to R411, R423; 15_host_reset.md R442). -/
namespace Sys2Proof.Machine
open Sys2Proof

/-- A refused access (R442): it is counted, CLDERR names it, and a read is answered with an error. -/
def State.refuseAccess (s : State) (a : CompAccess) (world : Nat) : State :=
  { s with hst := { s.hst with
    refused := min (s.hst.refused + 1) (2 ^ 32 - 1), errLine := bitsOf a.addr 47 7, errWrite := a.write, errWorld := world,
    answers := if a.write then s.hst.answers else s.hst.answers ++ [none] } }

/-- Addresses of the 128-byte lines that an access touches. -/
def linesIn (a n : Nat) : List Nat := (List.range ((a + n + 127) / 128 - a / 128)).map fun i => (a / 128 + i) * 128

/-- The companion, in world 1, may not make this access to a line: no memory stands there, the firewall refuses it, a write meets
sealed code or a sealed range, or the line is lost (R309, R386, R396, R410, R423). -/
def State.companionBarred (s : State) (write : Bool) (pa : Nat) : Bool :=
  !(s.physKind pa = .hbm || s.physKind pa = .cap) || !s.permits 1 (s.ownerWorld pa)
  || (write && (s.codeSealedAt pa || s.sealedAt pa)) || s.isLost pa

/-- An access to device memory is performed, or refused (R442). -/
def State.memAccess (s : State) (a : CompAccess) : State :=
  let n := if a.write then a.data.length else a.bytes
  match (linesIn a.addr n).find? (s.companionBarred a.write) with
  | some pa => s.refuseAccess a (s.ownerWorld pa)
  | none =>
    if a.write then s.performWrite none false a.addr a.data
    else
      let (b, s) := s.performRead none false a.addr n
      { s with hst := { s.hst with answers := s.hst.answers ++ [some b] } }

/-- An access is held at the link controller. -/
def State.holdAccess (s : State) (a : CompAccess) : State := { s with hst := { s.hst with heldAcc := s.hst.heldAcc ++ [a] } }

/-- An access reaches the link controller: it is held until READY, or, a write to a frame that is MOVING, until the commit, which is a stall
(R394, R442). -/
def State.arriveAccess (s : State) (a : CompAccess) : State :=
  if !s.stk.ready then s.holdAccess a
  else if a.write && s.frameMoving a.addr then (s.holdAccess a).countStall
  else s.memAccess a

/-- A held access arrives again. A write whose frame is NEW by now was stalled, and is forwarded (R394). -/
def State.rearrive (s : State) (a : CompAccess) : State :=
  if !s.stk.ready || (a.write && s.frameMoving a.addr) then s.holdAccess a
  else
    let moved : Bool := a.write && a.addr < 2 ^ 40 && s.stk.mig.get? (frameOf a.addr) = some .new
    (if moved then s.countReplay else s).memAccess a

/-- The accesses that were held arrive again, in order. -/
def State.runHeld (s : State) : State :=
  s.hst.heldAcc.foldl State.rearrive { s with hst := { s.hst with heldAcc := [] } }

end Sys2Proof.Machine
end

