-- ==== Sys2Proof/Machine/Stacks.lean ====
section
/-! DEFINITION. The events of the memory stacks: mailbox commands, training, lost lines and frames, and the retirement of a
stack (13_memory_stacks.md R380 to R403). -/
namespace Sys2Proof.Machine
open Sys2Proof

/-! ### The mailbox (R382, R383) -/

/-- A mailbox command finishes. -/
def Stack.answer (x : Stack) (result : Nat) (resp : DWord) : Stack :=
  { x with busy := false, done := true, result := result, resp := resp }

/-- The stack is running this command. -/
def State.mailbox (s : State) (stack cmd : Nat) : Option Stack :=
  match s.stk.stackTab[stack]? with
  | some x => if x.busy && x.cmd = cmd then some x else none
  | none => none

/-- Spare rows left: what the repair store was made with, less the rows spared (R383). -/
def Stack.sparesLeft (x : Stack) (stack : Nat) : Nat := (Config.spareRows stack).toNat - x.repaired.length

/-- A command ends without a stated response: RESP takes a free value (log entry 1). -/
def State.mailRefuse (s : State) (stack result : Nat) : State :=
  let (v, s) := s.drawFree
  s.updStack stack fun x => x.answer result (v.truncate 64)

/-- TELEMETRY (R383). The temperature is a free value. -/
def execTelemetry (stack : Nat) (s : State) : Host.Outcome State Fault Refusal :=
  match s.mailbox stack 1 with
  | none => .next s
  | some x =>
    let (v, s) := s.drawFree
    let temp : BitVec 16 := v.truncate 16
    .next (s.updStack stack fun y =>
      y.answer 0 (BitVec.ofNat 64 (x.sparesLeft stack * 2 ^ 48 + x.corrected.toNat * 2 ^ 16 + temp.toNat)))

/-- The states in which a stack takes SCRUB and REPAIR (R383). -/
def Stack.serves (x : Stack) : Bool := x.state = 2 || x.state = 3

/-- SCRUB (R383): a patrol pass starts. -/
def execScrub (stack : Nat) (s : State) : Host.Outcome State Fault Refusal :=
  match s.mailbox stack 2 with
  | none => .next s
  | some x =>
    .next (if x.serves then s.updStack stack fun y => { y.answer 0 0 with passes := y.passes + 1 } else s.mailRefuse stack 2)

/-- REPAIR (R383): the row of the line is spared; no value changes. -/
def execRepair (stack : Nat) (s : State) : Host.Outcome State Fault Refusal :=
  match s.mailbox stack 3 with
  | none => .next s
  | some x =>
    let pa := bitsOf x.runArg.toNat 47 7 * 128
    .next (
      if !x.serves then s.mailRefuse stack 2
      else if s.stk.memcap ≤ pa || s.stackOf pa ≠ stack then s.mailRefuse stack 4
      else if x.sparesLeft stack = 0 then s.mailRefuse stack 3
      else s.updStack stack fun y =>
        let z := { y with repaired := y.repaired ++ [pa] }
        z.answer 0 (BitVec.ofNat 64 (z.sparesLeft stack)))

/-- RETRAIN (R383): the stack trains again. -/
def execRetrain (stack : Nat) (s : State) : Host.Outcome State Fault Refusal :=
  match s.mailbox stack 4 with
  | none => .next s
  | some x =>
    .next (if x.serves then s.mailRefuse stack 2 else s.updStack stack fun y => { y.answer 0 0 with state := 1 })

/-- A day, in reference cycles. -/
def dayCycles : Nat := 24 * 3600 * 1900000000

/-- PATROL_SCRUB (R383, R385): a pass that SCRUB started, or the daily one, ends; `bad` are the lines in which it found errors,
as `State.lineError` takes them. -/
def execPatrolScrub (stack : Nat) (bad : List Nat) (s : State) : Host.Outcome State Fault Refusal :=
  match s.stk.stackTab[stack]? with
  | none => .next s
  | some x =>
    if !x.serves || (x.passes = 0 && s.ref < x.patrolAt + dayCycles) then .next s
    else
      let s := (bad.filter fun n => n / 128 * 128 < s.stk.memcap && s.stackOf (n / 128 * 128) = stack).foldl State.lineError s
      .next (s.updStack stack fun y =>
        if x.passes = 0 then { y with patrolAt := s.ref } else { y with passes := y.passes - 1 })

/-! ### Lost lines and fenced frames (R387) -/

/-- LLCLR: the entry of a line is removed, and the line is written with zeros. Nothing is written before READY (R447). -/
def execLlclr (v : DWord) (s : State) : Host.Outcome State Fault Refusal := viaLink s <|
  let line := bitsOf v.toNat 47 7 * 128
  .next (
    if s.stk.ready && s.stk.lost.any fun l => l.line = line then
      { s with stk := { s.stk with lost := s.stk.lost.filter fun l => l.line ≠ line } }.zeroLines line 128
    else s)

/-- FRAMECLR: the fence of a frame is removed, and the frame is written with zeros. Nothing is written before READY (R447). -/
def execFrameclr (v : DWord) (s : State) : Host.Outcome State Fault Refusal := viaLink s <|
  let f := bitsOf v.toNat 19 0
  .next (
    if s.stk.ready && s.stk.fenced.contains f then
      { s with stk := { s.stk with fenced := s.stk.fenced.filter (· ≠ f) } }.zeroLines (frameAddr f) frameSize
    else s)

/-! ### Retirement (R391 to R397, R403) -/

/-- A retirement is in progress. -/
def Stacks.retires (m : Stacks) : Bool := m.flushing || m.migrating

/-- The refusal of a GO (R397), 0 for none. -/
def Stacks.goErr (m : Stacks) (t : Nat) : Nat :=
  if (m.stackTab[t]?.map (·.state)).getD 0 ≠ 2 then 1
  else if m.retires then 2
  else if ((stacksOf m.active).filter (· ≠ t)).length < 6 then 3
  else if !m.ready then 4
  else 0

/-- Step 3 of R392: the new mapping, and every frame OLD. -/
def State.startMigration (s : State) : State :=
  let t := s.stk.leaving
  let s := { s with stk := { s.stk with
    mphase := s.stk.mphase + 1, oldActive := s.stk.active, active := s.stk.active &&& ~~~(1#12 <<< t), mig := [],
    migrating := true, total := s.stk.memcap / frameSize, retState := 3 } }
  s.updStack t fun x => { x with state := 3 }

/-- The reservation (R392, R396): MEMCAP drops, and what stood in the range is gone. -/
def State.reserveTop (s : State) : State :=
  let cap := s.stk.memcap - 2 ^ 36
  let keep (pa : Nat) : Bool := !(cap ≤ pa && pa < s.stk.memcap)
  { s with
    mem := s.mem.zero cap (2 ^ 36),
    stk := { s.stk with memcap := cap, retired := true, lost := s.stk.lost.filter fun l => keep l.line,
                        fenced := s.stk.fenced.filter fun f => keep (frameAddr f) } }

/-- RETIREMENT_GO (R392, R397): a write of RETCTL. -/
def execRetirementGo (v : DWord) (s : State) : Host.Outcome State Fault Refusal := viaLink s <|
  let t := bitsOf v.toNat 3 0
  let s := { s with stk := { s.stk with retStack := BitVec.ofNat 4 t } }
  if !v.getLsbD 4 then .next s
  else
    let err := s.stk.goErr t
    if err ≠ 0 then .next { s with stk := { s.stk with retState := 5, retErr := BitVec.ofNat 4 err } }
    else
      let cached := s.stk.cache ≠ 0
      let s := { s with stk := { s.stk with leaving := t, retErr := 0, retState := 1 } }.reserveTop
      .next (
        if cached then { s with stk := { s.stk with flushing := true, bypass := true, retState := 2 } }
        else s.startMigration)

/-- CACHE_FLUSH (R403): dirty lines are written back, the cache is invalidated and shrunk, and the frames begin to move. -/
def execCacheFlush (s : State) : Host.Outcome State Fault Refusal :=
  .next (
    if s.stk.flushing then
      { s with stk := { s.stk with lines := [], hints := [], flushing := false, cache := s.stk.cache - 1 } }.startMigration
    else s)

/-- Frames out of OLD that are not NEW. -/
def Stacks.moving (m : Stacks) : Nat := (m.mig.filter fun (_, x) => x ≠ .new).length

/-- Changes the migration state of a frame. -/
def State.setMig (s : State) (frame : Nat) (x : MigState) : State :=
  { s with stk := { s.stk with mig := s.stk.mig.put frame x } }

/-- FRAME_MIGRATION_SELECT (R392, R393, R395): the next frame leaves OLD, and its partials are combined at the old home. -/
def execFrameMigrationSelect (frame : Nat) (s : State) : Host.Outcome State Fault Refusal :=
  .next (
    if s.stk.migrating && frame < s.stk.total && frame = s.stk.mig.length && s.stk.moving < 64 then
      (s.combinePartials (frameAddr frame) frameSize).setMig frame .drain
    else s)

/-- FRAME_DRAIN_END (R393): no partial and no held contribution is left for the frame. -/
def execFrameDrainEnd (frame : Nat) (s : State) : Host.Outcome State Fault Refusal :=
  .next (
    if s.stk.migrating && s.stk.mig.get? frame = some .drain
        && !(s.partials.any fun p => frameOf p.addr = frame)
        && !(s.contribs.any fun (_, c) => c.held && frameOf c.unit = frame) then
      s.setMig frame .moving
    else s)

/-- The end of a retirement (R392, R403). -/
def State.endRetirement (s : State) : State :=
  let s := { s with stk := { s.stk with migrating := false, bypass := false, retState := 4 } }
  s.updStack s.stk.leaving fun x => { x with state := 4 }

/-- FRAME_COMMIT (R393, R394): the frame is NEW, and stalled requests go to the new home. -/
def execFrameCommit (frame : Nat) (s : State) : Host.Outcome State Fault Refusal :=
  .next (
    if s.stk.migrating && s.stk.mig.get? frame = some .moving then
      let reqs : Tbl Req := s.reqs.map fun x =>
        (x.1, if x.2.stalled && frameOf x.2.addr = frame then { x.2 with stalled := false } else x.2)
      let contribs : Tbl Contrib := s.contribs.map fun x =>
        (x.1, if x.2.stalled && frameOf x.2.unit = frame then { x.2 with stalled := false } else x.2)
      let s := { s with reqs := reqs, contribs := contribs }.setMig frame .new
      (if s.stk.mig.length = s.stk.total && s.stk.moving = 0 then s.endRetirement else s).runHeld
    else s)

/-! ### Training (R381, R390, R399, R447) -/

/-- The 2 s in which a stack may train after a cold reset are over (R447). -/
def State.trainOver (s : State) : Bool :=
  s.stk.coldTrain && !s.stk.ready && s.hst.stage = 2 && s.stk.trainFrom + 3800000000 ≤ s.ref

/-- STACK_TRAINING_DONE (R381). A stack not trained within 2 s of the start of stage 2 of a cold reset fails instead (R447). -/
def execStackTrainingDone (stack : Nat) (s : State) : Host.Outcome State Fault Refusal :=
  .next (s.updStack stack fun x =>
    if x.state = 1 then (if s.trainOver then { x with state := 5 } else { x with state := 2, patrolAt := s.ref }) else x)

/-- STACK_TRAINING_TIMEOUT (R447): not trained within 2 s of the start of stage 2 after a cold reset. -/
def execStackTrainingTimeout (stack : Nat) (s : State) : Host.Outcome State Fault Refusal :=
  .next (
    if s.trainOver then
      s.updStack stack fun x => if x.state = 1 then { x with state := 5 } else x
    else s)

/-- The compass and the capacity that a cold reset brings up, with the cache size that it took (R381, R388, R390, R399). -/
def Stacks.bringUp (m : Stacks) : Stacks :=
  let active := (List.range 12).foldl (fun a i =>
    if (m.stackTab[i]?.map (·.state)).getD 0 = 2 then a ||| (1#12 <<< i) else a) (0 : BitVec 12)
  let n := (stacksOf active).length
  { m with active := active, oldActive := active, memcap := n * 2 ^ 36, retired := false,
           cache := if m.askedCache = 0 || m.askedCache + 1 ≤ n then m.askedCache else 0, lines := [], bypass := false }

/-- A retirement that a warm reset interrupted is completed; RETSTAT and FRAMEST stay at their reset values (R390, R446). -/
def State.completeRetirement (s : State) : State :=
  let s := if s.stk.flushing then
      { s with stk := { s.stk with lines := [], hints := [], flushing := false, cache := s.stk.cache - 1 } }.startMigration
    else s
  if s.stk.migrating then
    let s := s.endRetirement
    { s with stk := { s.stk with total := 0, retState := 0 } }
  else s

/-- Stage 3 (R449): every island runs at 1.2 GHz at most. -/
def Island.capped (i : Island) : Island := if i.state = 1 || i.state = 2 then { i with mhz := min i.mhz 1200, state := 2 } else i

/-- MEMORY_READY (R381, R442, R447, R449): every stack is trained, retired or failed; stage 3 begins, and the accesses of the
companion that were held are performed. -/
def execMemoryReady (s : State) : Host.Outcome State Fault Refusal :=
  if s.stk.ready || s.hst.stage ≠ 2 || s.stk.stackTab.any (fun x => x.state = 0 || x.state = 1) then .next s
  else
    let s := if s.stk.coldTrain then { s with stk := s.stk.bringUp } else s.completeRetirement
    if (stacksOf s.stk.active).length < 6 then .next s
    else
      let islands : Tbl Island := s.islands.map fun x => (x.1, x.2.capped)
      .next ({ s with stk := { s.stk with ready := true, coldTrain := false }, hst := { s.hst with stage := 3 }, islands := islands }).runHeld

end Sys2Proof.Machine
end

