-- ==== Sys2Proof/Machine/Ends.lean ====
section
/-! DEFINITION. The driver's answers to page requests, TLB invalidation, the end of a context, machine checks and debug halts
(05_sequencer.md R157 to R160; 07_load_store.md R206, R207, R210; 12_tasks.md R363, R455; 14_security.md R426, R430). -/
namespace Sys2Proof.Machine
open Sys2Proof

/-! ### PFRESP (R206, R210, R244, R305, R348, R356, R375, R455) -/

/-- The page that a suspended team's fault record names when the driver refuses: the first one missed, by the group withdrawn first (R226), whose
clause the record names too (R136; DEDUCED, log entry 10). -/
def Team.missedVa (t : Team) : Nat :=
  match t.missing with
  | p :: _ => p.va / 2 ^ 16 * 2 ^ 16
  | [] => 0

/-- The driver's answer for the teams that wait under a token: their own pages, or a page of the task engine's. -/
def State.answerTeams (s : State) (ctx tok : Nat) (bad : Bool) : State :=
  s.teams.foldl (fun s ((k, t) : Nat × Team) =>
    if t.ctx ≠ ctx then s
    else if t.token = tok then
      if !bad then s.updTeam k fun t => { t with answered := true, token := 0 }
      else if t.state = .loading || (t.succ && t.needHdr) then s.taskFault ctx 3 t.fromQueue t.descAt t.desc
      else
        match t.missFrom with
        | some (grp, hdr, slot) =>
          s.fatal ⟨k, grp⟩ { code := .pageProt, slot := some slot, hdr := some hdr, addr := BitVec.ofNat 64 t.missedVa }
        | none => s.fatalTeam k .pageProt 0 (BitVec.ofNat 64 t.missedVa)
    else if t.ioToken = tok then
      if bad then s.fatalTeam k .pageProt 0 (BitVec.ofNat 64 t.ioVa) else s.updTeam k fun t => { t with ioToken := 0 }
    else s) s

/-- The same for copies. -/
def State.answerCopies (s : State) (ctx tok : Nat) (bad : Bool) : State :=
  s.copies.foldl (fun s ((k, c) : Nat × Copy) =>
    if c.token ≠ tok || !s.teamOf ctx c.team then s
    else if bad then
      s.fatal ⟨c.team, c.grp⟩
        { code := .pageProt, slot := some c.slot, hdr := some c.hdr, addr := BitVec.ofNat 64 c.pageVa, bytes := c.desc.getD [] }
    else s.updCopy k fun c => { c with token := 0 }) s

/-- The same for the messages of this rank. -/
def State.answerMsgs (s : State) (ctx tok : Nat) (bad : Bool) : State :=
  s.msgs.foldl (fun s ((k, m) : Nat × Msg) =>
    if m.inbound || m.token ≠ tok || m.ctx ≠ ctx then s
    else if bad then s.msgFail k m .pageProt m.lane (BitVec.ofNat 64 m.va)
    else { s with msgs := s.msgs.upd k fun m => { m with token := 0 } }) s

/-- The same for pilot commands. -/
def State.answerPilots (s : State) (ctx tok : Nat) (bad : Bool) : State :=
  s.fab.pilotCmds.foldl (fun s ((k, x) : Nat × PilotCmd) =>
    if x.token ≠ tok || ((s.fab.colls.get? x.coll).map (·.ctx)) ≠ some ctx then s
    else if bad then s.cmdFail k .pageProt x.pageVa
    else s.updCmd k fun x => { x with token := 0 }) s

/-- The same for a grid, a command and a fault record. -/
def Grid.answer (ctx tok : Nat) (bad : Bool) (g : Grid) : Grid :=
  if g.ctx = ctx && g.token = tok then { g with token := 0, failed := bad } else g

def Cmd.answer (ctx tok : Nat) (bad : Bool) (c : Cmd) : Cmd :=
  if c.f 4 4 = ctx && c.token = tok then { c with token := 0, failed := bad } else c

def Ctx.answer (tok : Nat) (bad : Bool) (c : Ctx) : Ctx :=
  match c.heldRec with
  | some (b, n) => if n = tok then { c with heldRec := some (if bad then [] else b, 0) } else c
  | none => c

/-- PFRESP: the answer for every thing that waits under the token; one that names none is ignored (R210). -/
def execPfresp (v : DWord) (s : State) : Host.Outcome State Fault Refusal := viaLink s <|
  let ctx := bitsOf v.toNat 63 32
  let tok := bitsOf v.toNat 31 16
  let bad := v.getLsbD 0
  if tok = 0 then .next s
  else
    let grids : Tbl Grid := s.grids.map fun x => (x.1, x.2.answer ctx tok bad)
    let cmds : Tbl Cmd := s.te.cmds.map fun x => (x.1, x.2.answer ctx tok bad)
    let s := { s with grids := grids, te := { s.te with cmds := cmds } }.updCtx ctx (Ctx.answer tok bad)
    .next ((((s.answerTeams ctx tok bad).answerCopies ctx tok bad).answerMsgs ctx tok bad).answerPilots ctx tok bad)

/-! ### TLB invalidation (R206, R207) -/

/-- Everything in flight that may have been translated. -/
def State.inFlight (s : State) : List Nat :=
  s.reqs.map (·.1) ++ s.contribs.map (·.1) ++ s.drains.map (·.1) ++ s.tileOps.map (·.1)

/-- The entry is one of those that an invalidation names (R206). -/
def Xlat.names (x : Xlat) (e : TlbEntry) : Bool :=
  let va := x.vpn * 65536
  match x.scope.toNat with
  | 0 => e.ctx = x.ctx && e.va ≤ va && va < e.va + e.size
  | 1 => e.ctx = x.ctx
  | _ => true

/-- TLB_INVALIDATE: a write of TLBINV (R206). -/
def execTlbInvalidate (v : DWord) (s : State) : Host.Outcome State Fault Refusal := viaLink s <|
  let x := s.xlat
  let y := { x with ctx := bitsOf v.toNat 63 32, scope := BitVec.ofNat 2 (bitsOf v.toNat 2 1) }
  if !v.getLsbD 0 then .next { s with xlat := y }
  else if x.busy || y.scope = 3 then .next { s with xlat := { y with err := true } }
  else .next { s with tlb := s.tlb.filter fun e => !y.names e, xlat := { y with busy := true, waits := s.inFlight } }

/-- TLB_INVALIDATE_DONE: every access translated under the dropped entries has been performed (R207). -/
def execTlbInvalidateDone (s : State) : Host.Outcome State Fault Refusal :=
  .next (if s.xlat.busy && s.allDone s.xlat.waits then { s with xlat := { s.xlat with busy := false, waits := [] } } else s)

/-! ### The end of a context (R157, R347, R363) -/

/-- Commands that wait on a context complete with status 6 (R347). -/
def State.failCmds (s : State) (ctx : Nat) : State :=
  s.te.cmds.foldl (fun s ((k, c) : Nat × Cmd) =>
    if c.started && c.f 4 4 = ctx && c.f 0 1 ≠ 3 && c.f 0 1 ≠ 4 then s.complete k 6 0 else s) s

/-- Its task queues are unbound (R363). -/
def State.unbindQueues (s : State) (mask : BitVec 64) : State :=
  let tq : Tbl TaskQ := s.te.tq.map fun x =>
    (x.1, if mask.getLsbD x.1 then { x.2 with bound := false, head := 0, tail := 0, cache := [] } else x.2)
  { s with te := { s.te with tq := tq } }

/-- The passes without the members that a context's teams issued. -/
def State.passesWithout (s : State) (ctx : Nat) : Tbl Pass :=
  let keep (n : Nat) : Bool := match s.tileOps.get? n with | some o => !s.teamOf ctx o.team | none => true
  let list : Tbl Pass := s.passes.map fun x => (x.1, let p := x.2; { p with members := p.members.filter keep })
  list.filter fun x => !x.2.members.isEmpty

/-- Whatever the context still has in flight ends without effect (R157): operations, requests, contributions and their streams
(R221), messages, copies, tile operations, drains, sounding tokens, collectives and their commands. -/
def State.dropTraffic (s : State) (ctx : Nat) : State :=
  let mine (k : Nat) : Bool := s.teamOf ctx k
  let coll (k : Nat) : Bool := ((s.fab.colls.get? k).map (·.ctx)) = some ctx
  { s with
    ops := s.ops.filter fun x => !mine x.2.owner.team,
    reqs := s.reqs.filter fun x => x.2.ctx ≠ ctx,
    contribs := s.contribs.filter fun x => x.2.ctx ≠ ctx,
    streams := s.streams.filter fun x => x.ctx ≠ ctx,
    msgs := s.msgs.filter fun x => x.2.inbound || x.2.ctx ≠ ctx,
    copies := s.copies.filter fun x => !mine x.2.team,
    tokens := s.tokens.filter fun x => !mine x.2.origin,
    tileOps := s.tileOps.filter fun x => !mine x.2.team,
    passes := s.passesWithout ctx,
    drains := s.drains.filter fun x => !mine x.2.team,
    fab := { s.fab with pilotCmds := s.fab.pilotCmds.filter (fun x => !coll x.2.coll), colls := s.fab.colls.filter fun x => x.2.ctx ≠ ctx } }

/-- The locks of a context are released: their holders' changed words are written back, unless it is protected (R225, R430). -/
def State.dropCtxLocks (s : State) (ctx : Nat) (prot : Bool) : State :=
  let s := s.locks.foldl (fun s ((_, l) : Nat × Lock) =>
    match l.holder with
    | some r =>
      if l.ctx = ctx && !prot then
        match s.team? r.team with
        | some t => if t.core.isSome then s.writeBack t.coreN l.phys else s
        | none => s
      else s
    | none => s) s
  { s with locks := s.locks.filter fun x => x.2.ctx ≠ ctx }

/-- A halt that has not completed ends with the context (R160). -/
def State.haltGone (s : State) (ctx : Nat) : State :=
  if ((s.ctx? ctx).map (·.halting)).getD false then
    { s with dbg := { s.dbg with gone := true, halting := s.ctxs.any fun x => x.1 ≠ ctx && x.2.halting } }
  else s

/-- The resources of a context are freed (R157, step 4): traffic, locks, barriers, grids, queues and teams. -/
def State.freeCtx (s : State) (ctx : Nat) (c : Ctx) : State :=
  let s := (((s.dropCtxLocks ctx c.prot).dropTraffic ctx).haltGone ctx).failCmds ctx
  let s := s.unbindQueues c.tqMask
  let s := (s.teams.filter fun x => x.2.ctx = ctx).foldl (fun (s : State) (x : Nat × Team) => s.leaveCore x.1) s
  { s with bars := s.bars.filter fun x => x.2.ctx ≠ ctx, grids := s.grids.filter fun x => x.2.ctx ≠ ctx,
           teams := s.teams.filter fun x => x.2.ctx ≠ ctx, tlb := s.tlb.filter fun e => e.ctx ≠ ctx }

/-- The 128 bytes of a fault record (R157). -/
def FaultRec.image (f : FaultRec) (ctx seq world : Nat) : List Byte :=
  leBytes 1 f.code.code.toNat ++ leBytes 1 f.kind ++ leBytes 1 f.core ++ leBytes 1 f.grp ++ leBytes 4 ctx ++ leBytes 4 f.team
    ++ leBytes 4 f.grid ++ leBytes 8 f.pc.toNat ++ leBytes 8 f.info.toNat ++ leBytes 8 f.addr.toNat ++ leBytes 8 f.clk
    ++ leBytes 8 seq ++ leBytes 1 world ++ leBytes 7 0 ++ padTo 64 f.detail

/-- Posts the record of the fault that ends a context (R157, R455): none while it waits for a page of the ring. A record that
cannot be written is dropped. -/
def State.postRecord (s : State) (ctx : Nat) (c : Ctx) (f : FaultRec) : Option State :=
  let img := f.image ctx c.posted c.world
  let write (s : State) : Option State :=
    match s.engWrite ctx (c.ringBase + 128 * c.posted) img with
    | .ok s => some (s.updCtx ctx fun c => { c with posted := c.posted + 1 })
    | .error (.fault _ _) => some s
    | .error (.missing _) => none
  match c.heldRec with
  | none => write s
  | some (b, tok) => if tok ≠ 0 then none else if b.isEmpty then some s else write s

/-- A page of the fault ring is not present: it is requested under a token of the task engine's own (R455). -/
def State.holdRecord (s : State) (ctx : Nat) (c : Ctx) (f : FaultRec) : State :=
  match c.heldRec with
  | some (_, n + 1) => s.updCtx ctx fun c => { c with heldRec := some (f.image ctx c.posted c.world, n + 1) }
  | _ =>
    let img := f.image ctx c.posted c.world
    match s.engWrite ctx (c.ringBase + 128 * c.posted) img with
    | .error (.missing va) =>
      let (tok, s) := s.requestPage ctx 1 va
      s.updCtx ctx fun c => { c with heldRec := some (img, tok) }
    | _ => s

/-- The context is gone, and its CTXDESTROY completes (R348). -/
def State.removeCtx (s : State) (ctx : Nat) (c : Ctx) : State :=
  let s := { s with ctxs := s.ctxs.del ctx }
  match c.destroy with
  | some cmd => s.complete cmd 0 0
  | none => s

/-- CONTEXT_END (R157, R426): the record of the fatal fault is posted, and the context's resources are freed; a protected context
is Ending, and its teardown follows. A context that CTXDESTROY ends has no record. -/
def execContextEnd (ctx : Nat) (s : State) : Host.Outcome State Fault Refusal :=
  match s.ctx? ctx with
  | none => .next s
  | some c =>
    let finish (s : State) : State :=
      if c.prot then (s.failCmds ctx).updCtx ctx fun c => { c with state := .ending, pending := none }
      else (s.freeCtx ctx c).removeCtx ctx c
    match c.pending with
    | some f =>
      match s.postRecord ctx c f with
      | some s =>
        match c.later with
        | [] => .next (finish s)
        | f' :: rest => .next (s.updCtx ctx fun c => { c with pending := some f', later := rest, heldRec := none })
      | none => .next (s.holdRecord ctx c f)
    | none => .next (if c.state = .ending && !c.prot then finish s else s)

/-! ### Teardown (R430 to R433) -/

/-- Units of 4 KiB of a range (R431). -/
def ScrubRange.units : ScrubRange → Nat
  | .regs _ n => (n + 4095) / 4096
  | .tiles _ phys => (24576 * phys.length + 4095) / 4096
  | .spad _ _ n => (n + 4095) / 4096
  | .frame _ => 512

/-- Backing bytes of a team's groups (R129). -/
def Team.backing (t : Team) : Nat :=
  (List.range 8).foldl (fun n p =>
    if t.backed.getLsbD p then n + 384 * t.shape.v * t.shape.groupsOn t.part p else n) 0

/-- The ranges of one team (R431). -/
def Team.scrubRanges (t : Team) : List ScrubRange :=
  let c := t.coreN
  [.regs c (384 * t.shape.v * t.shape.g), .regs c t.backing, .tiles c t.phys, .spad c t.base t.shape.mem].filter fun r =>
    r.units ≠ 0

/-- The teams of a context on a core, in ascending frame slot. -/
def State.teamsOn (s : State) (ctx core : Nat) : List Team :=
  (s.teams.filter fun x => x.2.ctx = ctx && x.2.core = some core).foldl (fun (m : Tbl Team) (x : Nat × Team) => m.put x.2.frameSlot x.2) []
    |>.map (·.2)

/-- The ranges of a teardown scrub, in order (R431). -/
def State.scrubRanges (s : State) (ctx w : Nat) : List ScrubRange :=
  (List.range 128).flatMap (fun core => (s.teamsOn ctx core).flatMap Team.scrubRanges) ++ (s.framesOf w).map ScrubRange.frame

/-- A scrub of a list of ranges. -/
def newScrub (ctx w : Nat) (rs : List ScrubRange) : Scrub :=
  { ctx := ctx, world := w, ranges := rs, all := rs, total := rs.foldl (fun n r => n + r.units) 0, done := 0, reset := false }

/-- Every line of a world is dropped without write-back (R430, step 3), the sealed-version lines of other ranks among them (R413), and with
its key gone nothing that its frames hold can be deciphered. -/
def State.dropWorld (s : State) (w : Nat) : State :=
  let inW (pa : Nat) : Bool := s.ownerWorld pa = w
  { s with
    l1 := s.l1.filter fun x => !inW (4 * (x.1 % 2 ^ 40)),
    wordOwner := s.wordOwner.filter fun x => !inW (4 * x.1),
    partials := s.partials.filter fun p => !inW p.addr,
    fab := { s.fab with sealLines := s.fab.sealLines.filter fun x => x.world ≠ w } }.undecipher w

/-- TEARDOWN (R426, R430): the teams of a protected context have stopped; its keys are zeroised, its seals and counters cleared, its
lines dropped, and a scrub is queued. A command that committed earlier is executed before it (R418). -/
def execTeardown (ctx : Nat) (s : State) : Host.Outcome State Fault Refusal :=
  match s.ctx? ctx with
  | none => .next s
  | some c =>
    if !c.prot || c.state ≠ .ending || s.sec.cmd.isSome then .next s
    else
      let w := c.world
      let scrub := newScrub ctx w (s.scrubRanges ctx w)
      let s := ((s.zeroKey w).zeroKey (16 + w)).zeroKey (30 + w)
      let s := s.freeCtx ctx c
      let s := { s with sec := { s.sec with
        codeSeals := s.sec.codeSeals.filter (fun x => x.ctx ≠ ctx), prot := s.sec.prot.del ctx, scrubs := s.sec.scrubs ++ [scrub] } }
      .next ((s.dropWorld w).updCtx ctx fun c => { c with state := .scrubbing, tqMask := 0 })

/-! ### Machine checks (R158) -/

/-- A machine check that touched a context ends it with MACHINE, kind 3. DESIGN CHOICE (log entry 24): no rule gives the group, %team, %grid
and PC of its record; they are 0xFF, 0, 0 and 0. -/
def State.machineCheck (s : State) (ctx core : Nat) : State :=
  s.fatalCtx ctx
    { code := .machine, kind := 3, core := core, grp := 0xFF, team := 0, grid := 0, pc := 0, info := trapInfo 0 0 0 0, addr := 0,
      clk := s.clk core, detail := [] }

/-- MACHINE_CHECK (R158): the firmware's handler runs in the trap slot, and programs observe only the delay, unless the error
touched a context. -/
def execMachineCheck (core : Nat) (_part : Nat) (ctx : Option Nat) (s : State) : Host.Outcome State Fault Refusal :=
  .next (match ctx with | some c => s.machineCheck c core | none => s)

/-! ### Debug halt (R159, R160) -/

/-- The fields of DBGCTL that a write sets. -/
def State.writeDbgctl (s : State) (v : DWord) : State :=
  { s with dbg := { s.dbg with ctx := bitsOf v.toNat 63 32, bken := v.getLsbD 3 } }

/-- The halt that a write of DBGCTL asks for. -/
def State.haltReq (s : State) (v : DWord) : State :=
  let c := bitsOf v.toNat 63 32
  if !v.getLsbD 1 then s
  else if s.haltRefused c then { s with dbg := { s.dbg with refused := true } }
  else if ((s.ctx? c).map (·.halted)).getD false then s
  else s.startHalt c

/-- The resume that a write of DBGCTL asks for. -/
def State.resumeReq (s : State) (v : DWord) : State :=
  let c := bitsOf v.toNat 63 32
  if !v.getLsbD 2 then s
  else if s.haltRefused c then { s with dbg := { s.dbg with refused := true } }
  else s.updCtx c fun x => { x with halted := false }

/-- DEBUG_HALT: a write of DBGCTL with HALT. -/
def execDebugHalt (v : DWord) (s : State) : Host.Outcome State Fault Refusal := viaLink s <|
  .next (if v.getLsbD 1 then (s.writeDbgctl v).haltReq v else s)

/-- DEBUG_RESUME: a write of DBGCTL with RESUME. -/
def execDebugResume (v : DWord) (s : State) : Host.Outcome State Fault Refusal := viaLink s <|
  .next (if v.getLsbD 2 then (s.writeDbgctl v).resumeReq v else s)

/-- Only an instruction of the context lets the copy go on (R246): it waits for a ring slot, room in a logbook, a receiver, or behind such a
copy. `n` bounds the copies that wait for one another. -/
def State.copyStuck (s : State) : Nat → Nat → Bool
  | 0, _ => true
  | n + 1, id =>
    match s.copies.get? id with
    | none => false
    | some c =>
      let full (team k : Nat) : Bool :=
        match s.team? team with
        | none => false
        | some t =>
          t.core.isNone || (t.rings.get? k).any fun (x : Ring) => match x.at x.tail with
            | .f => false
            | .d => s.copies.all fun (i, y) =>
                !(y.ringOf = some k && y.recv.any fun z => z.team = team && z.slot = some x.tail && !z.forwarded) || State.copyStuck s n i
            | _ => true
      let here (y : Copy) : Bool := match s.team? y.team with | some t => !t.core.isNone && t.core = (s.team? c.team).bind (·.core) | none => false
      if c.committed then
        (s.team? c.team).all fun (t : Team) => !t.allRetired && c.desc.any fun b => t.logFull (CopyDesc.parse b).log
      else if !c.started then
        (s.copies.any fun (i, h) => h.team = c.team && !h.started && !h.parked && i ≤ id && h.claims.any (full c.team)
          && (i = id || !h.aside || s.copies.any fun (j, y) =>
            y.team = c.team && !y.started && !y.aside && !y.parked && j ≤ id && y.ringOf = h.ringOf))
        || (16 ≤ s.executing ((s.team? c.team).map Team.coreN |>.getD 0)
          && s.copies.all fun (i, y) => !(y.started && !y.parked && here y) || State.copyStuck s n i)
      else
        let rest := (c.recv.filter fun x => !x.committed).map fun x => full x.team (c.ringOf.getD 0)
        c.data.isSome && (if c.sub = 2 then rest.head? = some true else rest.any fun b => b)

/-- The image is stable: the teams of the context can be saved, and every copy has landed, or stays parked on a page, or waits for what only
the context's instructions free (R160, R246). -/
def State.haltReady (s : State) (ctx : Nat) : Bool :=
  (s.teams.all fun x => x.2.ctx ≠ ctx || x.2.core.isNone
    || ((x.2.state = .running || (x.2.state = .succeeding && !s.copies.any fun y => y.2.team = x.1 && y.2.sub = 4))
      && x.2.ioToken = 0 && s.canSave x.1 x.2))
  && s.copies.all fun x => !s.teamOf ctx x.2.team || x.2.parked || x.2.token ≠ 0
    || s.copyStuck (s.copies.length + 1) x.1

/-- Copies of a context that stand parked: on a page, or for a slot, a record or a receiver (R246). -/
def State.parkedOf (s : State) (ctx : Nat) : Nat := (s.copies.filter fun x => x.2.parked && s.teamOf ctx x.2.team).length

/-- Saves every team of a context that is on a core. -/
def State.saveAll (s : State) (ctx : Nat) : State :=
  (s.teams.filter fun x => x.2.ctx = ctx && x.2.core.isSome).foldl (fun (s : State) (x : Nat × Team) => s.saveTeam x.1 .debug) s

/-- The context that is halting and whose image is stable. -/
def State.haltedNow (s : State) : Option (Nat × Ctx) :=
  s.ctxs.find? fun x => x.2.halting && x.2.state = .live && x.2.pending.isNone && s.haltReady x.1

/-- DEBUG_HALT_COMPLETE (R160): every team is saved, and the halt is done once all frames are written. -/
def execDebugHaltComplete (s : State) : Host.Outcome State Fault Refusal :=
  match s.haltedNow with
  | none => .next s
  | some (ctx, _) =>
    let s := s.saveAll ctx
    if s.teams.any (fun x => x.2.ctx = ctx && x.2.core.isSome) then .next s
    else
      let s := s.updCtx ctx fun x => { x with halting := false, halted := true }
      .next { s with dbg := { s.dbg with halting := s.ctxs.any (fun x => x.2.halting), haltDone := true, parked := s.parkedOf ctx % 65536 } }

end Sys2Proof.Machine
end

