-- ==== Sys2Proof/Machine/Security.lean ====
section
/-! DEFINITION. The security sequencer, the scrub engine, debug unlock, the key store and on-chip messages (14_security.md R405,
R414 to R420, R427, R431 to R436). -/
namespace Sys2Proof.Machine
open Sys2Proof

/-! ### The sequencer (R418 to R420) -/

/-- A command finishes with a RESULT. -/
def State.secDone (s : State) (result : Nat) : State :=
  { s with sec := { s.sec with cmd := none, job := none, result := result, done := true } }

/-- The arguments of the command in progress. -/
def State.secArg (s : State) (i : Nat) : Nat := (s.sec.runArgs[i]?.getD 0).toNat

/-- The sequencer takes command `n`, once nothing else runs. ATTEST, IDENTITY and DBGUNLOCK reach companion memory, over the link (R441). -/
def State.secTake (s : State) (n : Nat) : Bool := s.sec.cmd = some n && s.sec.job.isNone && (s.linkUp || n < 3 || n = 6)

/-- A frame that ASSIGN and UNASSIGN refuse: none of memory, of world 0, or with sealed code (R419). -/
def State.frameBad (s : State) (f : Nat) : Bool :=
  2 ^ 20 ≤ f
  || !(s.physKind (frameAddr f) = .hbm || s.physKind (frameAddr f) = .cap)
  || s.ownerWorld (frameAddr f) = 0
  || s.sec.codeSeals.any fun c => c.pages.any fun p => frameOf p = f

/-- The L1 lines of a frame are written back and dropped, and its partials combined. -/
def State.dropFrame (s : State) (f : Nat) : State :=
  let a := frameAddr f
  let s := s.combine a frameSize
  { s with l1 := s.l1.filter (fun x => frameOf (4 * (x.1 % 2 ^ 40)) ≠ f), wordOwner := s.wordOwner.filter fun x => frameOf (4 * x.1) ≠ f }

/-- The owner world of a frame changes (R408). -/
def State.setOwner (s : State) (f w : Nat) : State :=
  { s with sec := { s.sec with owner := if w = 1 then s.sec.owner.del f else s.sec.owner.put f w } }

/-- A command that was refused when it committed finishes with its RESULT; else its effect follows (R418). -/
def State.secRun (s : State) (n : Nat) (effect : State) : Host.Outcome State Fault Refusal :=
  .next (if !s.secTake n then s else if s.sec.verdict ≠ 0 then s.secDone s.sec.verdict else effect)

/-- ASSIGN (R415, R419, R433, R434): the frame takes the new owner's key; its values are unchanged. It waits for READY (R447). -/
def execAssign (s : State) : Host.Outcome State Fault Refusal :=
  let f := s.secArg 0
  let w := s.secArg 1
  s.secRun 1 (if s.stk.ready then (((s.rekeyWorld w).dropFrame f).setOwner f w).secDone 0 else s)

/-- UNASSIGN (R419): the frame is zeroed and returns to world 1. It waits for READY (R447). -/
def execUnassign (s : State) : Host.Outcome State Fault Refusal :=
  let f := s.secArg 0
  s.secRun 2 (if s.stk.ready then ((s.setOwner f 1).zeroLines (frameAddr f) frameSize).secDone 0 else s)

/-- A Live protected context (R426). -/
def State.liveProt (s : State) (ctx : Nat) : Option (Ctx × Prot) :=
  match s.ctx? ctx, s.sec.prot.get? ctx with
  | some c, some p => if c.prot && c.state = .live && c.pending.isNone then some (c, p) else none
  | _, _ => none

/-- The RESULT that a register command has by what stands when it commits (R418 to R420, R433, R434, R438). DBGUNLOCK is judged by its token,
when the sequencer reads it (R436). -/
def State.judge (s : State) (cmd : Nat) (args : List DWord) : Nat :=
  let f := (args[0]?.getD 0).toNat
  let w := (args[1]?.getD 0).toNat
  match cmd with
  | 1 =>
    if w = 0 || 16 ≤ w || s.frameBad f then 1 else if s.sec.hold || s.frameScrubs f || s.worldScrubs w then 2 else 0
  | 2 => if s.frameBad f then 1 else if s.frameScrubs f then 2 else 0
  | 3 | 6 => if (s.liveProt f).isNone then 6 else 0
  | _ => 0

/-- A register command commits as it is written (R418). -/
def State.secCommit (s : State) (cmd : Nat) : State :=
  { s with sec := { s.sec with cmd := some cmd, runArgs := s.sec.args, verdict := s.judge cmd s.sec.args,
                               judged := s.liveProt (s.sec.args[0]?.getD 0).toNat } }

/-- The signed part of a report (R427). -/
def State.report (s : State) (ctx : Nat) (c : Ctx) (p : Prot) (nonce : List Byte) : List Byte :=
  let flags := b2n c.codeMut + 2 * b2n (s.sec.mode = 2) + 4 * b2n c.fabric
  leBytes 4 0x7A15E0C3 ++ leBytes 2 1 ++ leBytes 1 s.sec.mode ++ leBytes 1 flags ++ leBytes 4 ctx ++ leBytes 1 c.world ++ leBytes 3 0
    ++ leBytes 8 Config.serial.toNat ++ leBytes 8 s.sec.version ++ padTo 64 s.sec.fwDigest ++ padTo 64 p.measure ++ padTo 64 nonce
    ++ leBytes 8 p.codeBase ++ leBytes 4 p.codeBytes ++ leBytes 20 0

/-- The report of ATTEST, signed, for a context as it stood when the command committed (R418, R427, R438). -/
def State.attest (s : State) : State :=
  match s.sec.judged with
  | none => s.secDone 6
  | some (c, p) =>
    let b := s.report (s.secArg 0) c p (s.comp.readN (s.secArg 1) 64)
    let sig := padTo 132 ((Config.signature s.free b).take 132)
    { s with free := s.free + 1, comp := s.comp.writeN (s.secArg 2) (b ++ sig ++ List.replicate 12 0) }.secDone 0

/-- ATTEST (R427). -/
def execAttest (s : State) : Host.Outcome State Fault Refusal := s.secRun 3 s.attest

/-- The public point of the identity key (R419): 0x04, x and y. -/
def identityPoint : List Byte := 0x04 :: padTo 132 (Config.identity.take 132)

/-- IDENTITY (R419). -/
def execIdentity (s : State) : Host.Outcome State Fault Refusal :=
  if !s.secTake 4 then .next s
  else .next ({ s with comp := s.comp.writeN (s.secArg 0) identityPoint }.secDone 0)

/-! ### Debug unlock (R435, R436) -/

/-- The debug nonces change (R435). -/
def State.newNonces (s : State) : State :=
  let (a, s) := s.drawFree
  { s with sec := { s.sec with nonce0 := a.truncate 64, nonce1 := (a >>> 64).truncate 64 } }

/-- A token is of the right format, digest, nonce and signature (R435). -/
def State.tokenGood (s : State) (addr : Nat) (b : List Byte) : Bool :=
  addr % 16 = 0 && bytesNum b 0 4 = 0x6D1B04E7 && bytesNum b 4 2 = 1 && zeroAt b 6 2
  && (b.drop 8).take 64 = padTo 64 ((Config.digest 0 identityPoint).take 64)
  && bytesNum b 0x48 8 = s.sec.nonce0.toNat && bytesNum b 0x50 8 = s.sec.nonce1.toNat
  && zeroAt b 0x58 40 && zeroAt b 0x104 12 && Config.verifies 2 b

/-- Every Live protected context enters Ending, with no record, and the commands that wait on it complete with status 6 (R436). -/
def State.endProtected (s : State) : State :=
  (s.ctxs.filter fun x => x.2.prot && x.2.state = .live && x.2.pending.isNone).foldl (fun (s : State) (x : Nat × Ctx) =>
    ((s.failCmds x.1).cancelOps x.1).updCtx x.1 fun c => { c with state := .ending }) s

/-- DBGUNLOCK (R436). -/
def execDbgunlock (s : State) : Host.Outcome State Fault Refusal :=
  if !s.secTake 5 then .next s
  else
    let b := s.comp.readN (s.secArg 0) 272
    let good := s.tokenGood (s.secArg 0) b
    let s := s.newNonces
    .next (
      if !good then s.secDone 8
      else if s.sec.mode = 0 then s.secDone 4
      else
        let s := { s with sec := { s.sec with dbg := 1, cmd := none, job := some .unlock } }
        s.endProtected)

/-- DBG_UNLOCK_COMPLETE (R436): no protected context is left, and no teardown scrub, one that a reset has carried included (R434). -/
def execDbgUnlockComplete (s : State) : Host.Outcome State Fault Refusal :=
  .next (
    if s.sec.job = some .unlock && !(s.ctxs.any fun x => x.2.prot) && !(s.sec.scrubs.any fun x => !x.reset) then
      ({ s with sec := { s.sec with dbg := 2 } }).secDone 0
    else s)

/-! ### SAVE (R419) -/

/-- The running teams of a context stop, to be saved with cause 3, those too that were to be saved for a page or for another team: their
missing pages are asked for when they run again (R208, R419). -/
def Team.stopFor (ctx : Nat) (t : Team) : Team :=
  if t.ctx = ctx && t.state = .running && t.core.isSome then
    { t with stopping := some .security, missing := [], missFrom := none, first := 0xFF }
  else t

/-- SAVE: the teams stop, and the command finishes once they are saved, or have ended with their context (R419, R438). PREEMPT_SAVE saves them. -/
def execSave (s : State) : Host.Outcome State Fault Refusal :=
  match s.sec.job with
  | some (.save ctx) =>
    .next (
      if (s.liveProt ctx).isSome && s.teams.any fun x => x.2.ctx = ctx && x.2.stopping = some .security then s
      else s.secDone 0)
  | _ =>
    let teams : Tbl Team := s.teams.map fun x => (x.1, x.2.stopFor (s.secArg 0))
    s.secRun 6 { s with teams := teams, sec := { s.sec with cmd := none, job := some (.save (s.secArg 0)) } }

/-- SECMODE_WRITE (R405). -/
def execSecmodeWrite (v : DWord) (s : State) : Host.Outcome State Fault Refusal := viaLink s <|
  let n := bitsOf v.toNat 9 8
  .next (if n = 3 || (n = 2 && s.sec.dbg ≠ 2) then s else { s with sec := { s.sec with next := n } })

/-! ### The scrub engine (R431 to R434) -/

/-- SCRUB_START (R432). -/
def execScrubStart (s : State) : Host.Outcome State Fault Refusal :=
  .next (if !s.sec.scrubbing && !s.sec.scrubs.isEmpty then { s with sec := { s.sec with scrubbing := true } } else s)

/-- Unit `i` of a range is written with zeros (R431, R432). No team holds the registers of its range any more. -/
def State.zeroUnit (s : State) (i : Nat) : ScrubRange → State
  | .regs _ _ => s
  | .tiles core phys => { s with tmem := s.tmem.zero (core * 393216 + phys[i / 6]?.getD 0 * 24576 + i % 6 * 4096) 4096 }
  | .spad core base n => { s with spad := s.spad.zero (core * 2 ^ 21 + base + 4096 * i) (min 4096 (n - 4096 * i)) }
  | .frame f => s.zeroLines (frameAddr f + 4096 * i) 4096

/-- The range stands in memory, which takes nothing before READY (R447). -/
def ScrubRange.inMemory : ScrubRange → Bool
  | .frame _ => true
  | _ => false

/-- The physical address of unit `i` of the reset scrub: HBM4, then the capacity tier (R407). -/
def State.resetUnit (s : State) (i : Nat) : Nat := if 4096 * i < s.stk.memcap then 4096 * i else 2 ^ 40 + (4096 * i - s.stk.memcap)

/-- The running scrub writes its next unit, and DONE rises by one (R431, R432): of its first range, or of memory. A range that has been written
whole leaves the list, and a core's resources return to it. -/
def State.scrubUnit (s : State) : State :=
  match s.sec.scrubs with
  | [] => s
  | x :: rest =>
    if !s.sec.scrubbing then s
    else if x.reset then
      if s.stk.ready && x.done < x.total then
        { s with mem := s.mem.zero (s.resetUnit x.done) 4096, sec := { s.sec with scrubs := { x with done := x.done + 1 } :: rest } }
      else s
    else
      match x.ranges with
      | [] => s
      | r :: rs =>
        if r.inMemory && !s.stk.ready then s
        else
          let y := if x.at_ + 1 < r.units then { x with at_ := x.at_ + 1, done := x.done + 1 }
            else { x with ranges := rs, at_ := 0, done := x.done + 1 }
          { s with sec := { s.sec with scrubs := y :: rest } }.zeroUnit x.at_ r

/-- The running scrub writes up to `n` units. -/
def State.scrubUnits (s : State) : Nat → State
  | 0 => s
  | n + 1 => State.scrubUnits s.scrubUnit n

/-- SCRUB_RANGE_DONE (R431, R432): what is left of the first range of the running teardown scrub is written. -/
def execScrubRangeDone (s : State) : Host.Outcome State Fault Refusal :=
  match s.sec.scrubs with
  | x :: _ => .next (if x.reset then s else s.scrubUnits ((x.ranges.head?.map fun r => r.units - x.at_).getD 0))
  | [] => .next s

/-- The running scrub has ended. -/
def State.scrubEnd (s : State) (x : Scrub) (rest : List Scrub) : State :=
  { s with sec := { s.sec with scrubs := rest, scrubbing := false, lastTotal := x.total, hold := s.sec.hold && !rest.isEmpty } }

/-- A scrubbed frame returns to world 1, whose key deciphers its zeros from then on (R431). -/
def State.returnFrame (s : State) : ScrubRange → State
  | .frame f => (s.setOwner f 1).zeroLines (frameAddr f) frameSize
  | _ => s

/-- SCRUB_COMPLETE (R426, R431, R432): the frames return to world 1 together; slots and world are free, and CTXDESTROY completes. -/
def execScrubComplete (s : State) : Host.Outcome State Fault Refusal :=
  match s.sec.scrubs with
  | x :: rest =>
    if s.sec.scrubbing && !x.reset && x.ranges.isEmpty then
      let s := (x.all.foldl State.returnFrame s).scrubEnd x rest
      match s.ctx? x.ctx with
      | some c => .next (if c.state = .scrubbing then s.removeCtx x.ctx c else s)
      | none => .next s
    else .next s
  | [] => .next s

/-- RESET_SCRUB (R407, R432, R434, R446): what is left of HBM4 and the capacity tier is zeroed once READY is set (R447), and the lost-line table
and its fences are empty. -/
def execResetScrub (s : State) : Host.Outcome State Fault Refusal :=
  match s.sec.scrubs with
  | x :: rest =>
    if s.sec.scrubbing && x.reset && s.stk.ready then
      .next ({ s with mem := [], stk := { s.stk with lost := [], fenced := [] } }.scrubEnd x rest)
    else .next s
  | [] => .next s

/-! ### Key store and on-chip messages (R414, R417) -/

/-- The context needs the slot (R415). -/
def Ctx.needsSlot (slot : Nat) (c : Ctx) : Bool := slot = c.world || slot = 16 + c.world || (c.prot && slot = 30 + c.world)

/-- KEY_STORE_ERROR (R412, R417): the slot is empty, and the contexts whose world needs it end with KEY; what stood under a memory key is lost. In
standard mode the ciphers are idle, and no context needs a key. -/
def execKeyStoreError (slot : Nat) (s : State) : Host.Outcome State Fault Refusal :=
  let s := s.zeroKey slot
  if s.sec.mode = 0 then .next s
  else
    .next ((s.ctxs.filter fun x => x.2.needsSlot slot).foldl (fun (s : State) (x : Nat × Ctx) =>
      s.fatalCtx x.1
        { code := .key, kind := 0, core := 0, grp := 0xFF, team := 0, grid := 0, pc := 0, info := trapInfo 0 0 0 0, addr := 0,
          clk := s.clk 0, detail := [] }) (if slot < 16 then s.undecipher slot else s))

/-- The number that a list of flows holds for one; 0 at reset (R414). -/
def flowNumber (fs : List ((Nat × Nat × Nat) × Nat)) (k : Nat × Nat × Nat) : Nat := ((fs.find? fun x => x.1 = k).map (·.2)).getD 0

/-- A list of flows with one number more on a flow. -/
def flowStep (fs : List ((Nat × Nat × Nat) × Nat)) (k : Nat × Nat × Nat) : List ((Nat × Nat × Nat) × Nat) :=
  (fs.filter fun x => x.1 ≠ k) ++ [(k, (flowNumber fs k + 1) % 2 ^ 64)]

/-- The next number on a flow at its receiver (R414). -/
def State.flowNext (s : State) (k : Nat × Nat × Nat) : Nat := flowNumber s.sec.flows k

/-- The IV of a message: its ports, its world, four zero bits and its number (R414). -/
def netIv (src dst world number : Nat) : BitVec 96 :=
  BitVec.ofNat 12 src ++ BitVec.ofNat 12 dst ++ BitVec.ofNat 4 world ++ 0#4 ++ BitVec.ofNat 64 number

/-- A port sends a message: it is numbered, encrypted under the network key of its world and tagged (R414). In standard mode nothing is. -/
def State.netSend (s : State) (src dst world : Nat) (msg : List Byte) : State :=
  if s.sec.mode = 0 then s
  else
    let k := (src, dst, world)
    let number := flowNumber s.sec.sends k
    let key := (s.sec.keys.get? (16 + world)).getD 0
    let iv := leBytes 12 (netIv src dst world number).toNat
    let body := (Config.cipher key (iv ++ msg)).take msg.length
    let m : NetMsg := ⟨src, dst, world, number, body, (Config.digest key (iv ++ body)).take 8⟩
    { s with sec := { s.sec with sends := flowStep s.sec.sends k, wire := s.sec.wire ++ [m] } }

/-- A discarded message of a world: the request that it carried is never performed. DESIGN CHOICE (log entry 106): it is the oldest request of
the world that is under way, as no rule ties requests to flows. -/
def State.dropMessage (s : State) (world : Nat) : State :=
  match s.reqs.find? fun x => x.2.world = world && s.allDone x.2.after with
  | some x => s.endReq x.1
  | none => s

/-- NETWORK_MESSAGE_ARRIVAL (R414): a message whose tag fails, or whose number is not the next, is discarded with a machine check, and
every context of its world ends with MACHINE. In standard mode nothing is encrypted. -/
def execNetworkMessageArrival (src dst world : Nat) (number : BitVec 64) (tagOk : Bool) (s : State) : Host.Outcome State Fault Refusal :=
  let k := (src, dst, world)
  let here (m : NetMsg) : Bool := m.src = src && m.dst = dst && m.world = world && m.number = number.toNat
  if s.sec.mode = 0 then .next s
  else if tagOk && number.toNat = s.flowNext k then
    .next { s with sec := { s.sec with flows := flowStep s.sec.flows k, wire := s.sec.wire.filter fun m => !here m } }
  else
    .next ((s.ctxs.filter fun x => x.2.world = world).foldl (fun (s : State) (x : Nat × Ctx) => s.machineCheck x.1 0) (s.dropMessage world))

end Sys2Proof.Machine
end

