-- ==== Sys2Proof/Machine/Host.lean ====
section
/-! DEFINITION. The Cledel link, resets, bring-up, islands and the retirement of a cluster (15_host_reset.md R439 to R452; 14_security.md
R405 to R407, R410, R434, R437). -/
namespace Sys2Proof.Machine
open Sys2Proof

/-! ### Islands (R449, R451) -/

/-- An island that runs under a stage's cap, and under what firmware holds it to; it counts as capped below 1,900 MHz. -/
def Island.runAt (i : Island) (cap : Nat) : Island :=
  let mhz := min cap i.limit
  { i with mhz := mhz, state := if mhz < 1900 then 2 else 1 }

/-- The most an island may run at in a stage. -/
def State.clockCap (s : State) : Nat := if s.hst.stage = 4 then 1900 else 1200

/-- The two islands of a cluster. -/
def ofCluster (cl i : Nat) : Bool := i = 2 * cl || i = 2 * cl + 1

/-- The islands of a cluster run again. -/
def State.wakeCluster (s : State) (cl : Nat) : State :=
  let islands : Tbl Island := s.islands.map fun x => (x.1, if ofCluster cl x.1 then x.2.runAt s.clockCap else x.2)
  { s with islands := islands }

/-- ISLAND_CAP (R451): firmware sets an island's clock, within the stage's cap. -/
def execIslandCap (island : Nat) (mhz : BitVec 16) (s : State) : Host.Outcome State Fault Refusal :=
  .next { s with islands := s.islands.upd island fun i =>
    if (i.state = 1 || i.state = 2) && mhz ≠ 0 then { i with limit := min mhz.toNat 1900 }.runAt s.clockCap else i }

/-! ### Resets (R405 to R407, R434, R443, R445, R446) -/

/-- A scrub starts again after a reset. -/
def Scrub.restart (x : Scrub) : Scrub := { x with ranges := x.all, done := 0, at_ := 0 }

/-- The teardown scrubs that a reset carries (R434). -/
def Security.carried (x : Security) : List Scrub := (x.scrubs.filter fun y => !y.reset).map Scrub.restart

/-- The machine at the start of any reset: the reset values, beside the model's own fields, companion memory and what fuses and the
retained store keep (R383, R434). -/
def State.blank (s : State) : State :=
  { State.reset with
    sched := s.sched, free := s.free, nextId := s.nextId, comp := s.comp,
    stk := { resetStacks with stackTab := s.stk.stackTab.map fun x => { resetStack with repaired := x.repaired } },
    sec := { State.reset.sec with keyGen := s.sec.keyGen, version := s.sec.version, scrubs := s.sec.carried,
                                  hold := !s.sec.carried.isEmpty } }

/-- A cold reset (R405, R443, R444): the device waits for firmware. -/
def State.coldReset (s : State) (nextCache : Nat) : State :=
  let t := s.blank
  ({ t with hst := { t.hst with prevCache := nextCache } }).newNonces

/-- POWER_ON (R443). -/
def execPowerOn (s : State) : Host.Outcome State Fault Refusal := .next (s.coldReset 0)

/-- Memory after a warm reset: HBM4 as it was in standard mode; zero after a mode-changing reset; else undecipherable until the reset
scrub, for the keys have changed. Capacity-tier bytes that stood there are free values: the spec keeps HBM4 only (R406, R407,
R445). -/
def State.warmMem (s : State) : Memory :=
  if s.sec.next ≠ s.sec.mode then []
  else s.mem.foldl (fun (m : Memory) (x : Host.Cell) =>
    if s.sec.mode = 0 then (if x.1 < 2 ^ 40 then m.write x.1 x.2 else m.write x.1 (Config.freeByte s.free x.1))
    else m.write x.1 (Config.decrypted (2 * s.sec.keyGen + 1) x.1)) []

/-- A stack after a warm reset (R446): retired and failed ones stay so, and the others train, from stage 2 on (R444, R447). -/
def Stack.warm (stopped : Bool) (x : Stack) : Stack :=
  { resetStack with state := if x.state = 4 || x.state = 5 then x.state else if stopped then 0 else 1, corrected := x.corrected, repaired := x.repaired,
                    patrolAt := x.patrolAt }

/-- The memory registers after a warm reset (R446). A cold bring-up that it interrupts goes on (R381, R447); of a retirement, what completes it
is kept (R390), while no frame shows a state of migration (R387). -/
def Stacks.warm (m : Stacks) (keepLost stopped : Bool) (ref : Nat) : Stacks :=
  let goes := m.flushing || m.migrating
  { resetStacks with
    stackTab := m.stackTab.map (Stack.warm stopped), seed := m.seed, active := m.active, oldActive := m.oldActive, total := if goes then m.total else 0,
    coldTrain := m.coldTrain,
    memcap := m.memcap, retired := m.retired, cache := m.cache, nextCache := m.nextCache, mphase := m.mphase,
    lost := if keepLost then m.lost else [], fenced := if keepLost then m.fenced else [],
    migrating := m.migrating, askedCache := m.askedCache,
    stalls := m.stalls, replays := m.replays, leaving := m.leaving, flushing := m.flushing, trainFrom := ref }

/-- A pilot after a warm reset (R446): it keeps its firmware (R445). -/
def Pilot.warm (p : Pilot) : Pilot :=
  { resetPilot with state := p.state, img := p.img, verified := p.verified, mem := p.mem.filter fun x => x.1 < firmwareBytes }

/-- A port after a warm reset: it keeps CERR (R446) and trains again once it is enabled (R447). -/
def Port.warm (p : Port) : Port := { resetPort with cerr := p.cerr }

/-- The reset scrub (R407). -/
def resetScrub (memcap : Nat) : Scrub :=
  { ctx := 0, world := 0, ranges := [], all := [], total := (memcap + 2 ^ 40) / 4096, done := 0, reset := true }

/-- The security state after a warm reset (R406, R407, R434, R446): the mode, the scrubs, and the frames of world 0. -/
def Security.warm (x : Security) (memcap : Nat) : Security :=
  let change := x.next ≠ x.mode
  let scrubs := x.carried ++ (if change || x.mode = 0 then [] else [resetScrub memcap])
  { State.reset.sec with
    mode := x.next, next := x.next, fwmat := x.fwmat, owner := x.fwFrames.foldl (fun (t : Tbl Nat) f => t.put f 0) [],
    keyGen := x.keyGen, version := x.version, fwDigest := x.fwDigest, fwFrames := x.fwFrames, scrubs := scrubs,
    hold := !scrubs.isEmpty }

/-- The islands after a warm reset: running, capped, but for those of retired clusters (R446, R449, R452). -/
def startIslands (retired : BitVec 16) : Tbl Island :=
  resetIslands.map fun x => (x.1, if x.1 < 32 && retired.getLsbD (x.1 / 2) then { x.2 with state := 3 } else x.2.runAt 1200)

/-- A warm reset (R443, R445, R446). In stages 0, 1 and 7 no firmware stands ready: a load that it interrupts has to be started again, and a
stopped device stays stopped. -/
def State.warmReset (s : State) : State :=
  let change := s.sec.next ≠ s.sec.mode
  let stopped := s.hst.stage = 0 || s.hst.stage = 1 || s.hst.stage = 7
  let t := s.blank
  let u := { t with
    ref := s.ref, mem := s.warmMem, free := s.free + 1, islands := if stopped then resetIslands else startIslands s.hst.retiredCl,
    stk := s.stk.warm (!change) stopped s.ref, sec := s.sec.warm s.stk.memcap,
    fab := { t.fab with pilots := s.fab.pilots.map Pilot.warm, ports := s.fab.ports.map Port.warm },
    hst := { t.hst with refused := s.hst.refused, clfail := s.hst.retiredCl, retiredCl := s.hst.retiredCl,
                        prevCache := s.hst.prevCache,
                        cause := if stopped then s.hst.cause else 0,
                        stage := if s.hst.stage = 7 then 7 else if stopped then 0 else 2 } }
  ((u.keyWorld 0).keyWorld 1).newNonces

/-- RSTCTL.WARM is ignored in stages 0 and 1 (R443). -/
def State.tryWarm (s : State) : State := if s.hst.stage = 0 || s.hst.stage = 1 then s else s.warmReset

/-- A write of RSTCTL (R443): with both bits set, a cold reset. -/
def State.writeRstctl (s : State) (v : DWord) : State :=
  if v.getLsbD 1 then s.coldReset s.stk.nextCache else if v.getLsbD 0 then s.tryWarm else s

/-- RSTCTL_COLD (R443). -/
def execRstctlCold (v : DWord) (s : State) : Host.Outcome State Fault Refusal := viaLink s <|
  .next (if v.getLsbD 1 then s.writeRstctl v else s)

/-- RSTCTL_WARM (R443). -/
def execRstctlWarm (v : DWord) (s : State) : Host.Outcome State Fault Refusal := viaLink s <|
  .next (if v.getLsbD 0 then s.writeRstctl v else s)

/-- BOARD_RESET (R443): the board's reset signal makes a warm reset in every stage. -/
def execBoardReset (s : State) : Host.Outcome State Fault Refusal := .next s.warmReset

/-! ### Firmware (R410, R437, R444) -/

/-- FWLOAD (R444): accepted in stages 0 and 7. -/
def execFwload (v : DWord) (s : State) : Host.Outcome State Fault Refusal := viaLink s <|
  .next (
    if v.getLsbD 0 && (s.hst.stage = 0 || s.hst.stage = 7) then
      { s with hst := { s.hst with stage := 1, cause := 0, loadAt := bitsOf v.toNat 47 6 * 64 } }
    else s)

/-- The firewall matrix is one that the device starts with (R410). -/
def matrixGood (m : List (BitVec 16)) : Bool :=
  m.length = 16 && m.headD 0 = BitVec.allOnes 16
  && (List.range 16).all fun a => (m[a]?.getD 0).getLsbD a && (a = 0 || !(m[a]?.getD 0).getLsbD 0)

/-- The load block is malformed (R444). -/
def loadBad (b : List Byte) : Bool := 2 < bytesNum b 0x18 1 || 16 ≤ bytesNum b 0x19 1 || !zeroAt b 0x1A 38

/-- The cause that stops a load (R444, R448), or the controller's and the pilots' images. -/
def State.checkLoad (s : State) : Except Nat (List Byte × List Byte) :=
  let b := s.comp.readN s.hst.loadAt 64
  let image (off : Nat) : List Byte := s.comp.readN (bytesNum b off 8) Config.imageBytes
  let (a, d, p) := (image 0, image 8, image 0x10)
  if loadBad b then .error 3
  else if !(Config.verifies 3 a && Config.verifies 4 d && Config.verifies 5 p) then .error 1
  else if [a, d, p].any fun x => Config.imageVersion x < s.sec.version then .error 2
  else if !matrixGood (Config.imageMatrix a) then .error 4
  else .ok (a, p)

/-- A pilot that holds the resident firmware just loaded (R437). -/
def Pilot.loaded (img : List Byte) (p : Pilot) : Pilot := { p with verified := true, mem := p.mem.writeN 0 (img.take firmwareBytes) }

/-- A stack that trains. -/
def Stack.train (x : Stack) : Stack := { x with state := 1 }

/-- FIRMWARE_LOAD_DONE (R410, R415, R437, R444, R448): training begins, or the device stops with a cause. -/
def execFirmwareLoadDone (s : State) : Host.Outcome State Fault Refusal := viaLink s <|
  if s.hst.stage ≠ 1 then .next s
  else
    match s.checkLoad with
    | .error c => .next { s with hst := { s.hst with stage := 7, cause := c } }
    | .ok (a, p) =>
      let b := s.comp.readN s.hst.loadAt 64
      let mode := bytesNum b 0x18 1
      let cache := bytesNum b 0x19 1
      let fw := Config.firmwareFrames a
      let owner : Tbl Nat := fw.foldl (fun (t : Tbl Nat) f => t.put f 0) []
      let s := { s with
        sec := { s.sec with mode := mode, next := mode, fwmat := Config.imageMatrix a, owner := owner, fwFrames := fw,
                            version := Config.imageVersion a, fwDigest := (Config.digest 0 a).take 64 },
        stk := { s.stk with seed := Config.imageSeed a, nextCache := if cache = 15 then s.hst.prevCache else cache,
                            askedCache := if cache = 15 then s.hst.prevCache else cache, coldTrain := true,
                            trainFrom := s.ref, stackTab := s.stk.stackTab.map Stack.train },
        fab := { s.fab with pilots := s.fab.pilots.map (Pilot.loaded p) },
        islands := startIslands 0,
        hst := { s.hst with stage := 2 } }
      .next ((s.keyWorld 0).keyWorld 1)

/-! ### The Cledel link (R441) -/

/-- LINK_TRAINING_DONE (R441). -/
def execLinkTrainingDone (ver lanes : BitVec 8) (s : State) : Host.Outcome State Fault Refusal :=
  let n := lanes.toNat
  .next (
    if (s.hst.link = 0 || s.hst.link = 1) && (ver = 1 || ver = 2) && 16 ≤ n && n ≤ 24 then
      { s with hst := { s.hst with ver := ver, lanes := lanes, link := if n = 24 then 2 else 3, chg := true } }
    else s)

/-- LINK_LANE_FAILURE (R441): the lane is spared, or with fewer than 16 left the link goes down and trains again. -/
def execLinkLaneFailure (s : State) : Host.Outcome State Fault Refusal :=
  let h := s.hst
  .next (
    if h.link ≠ 2 && h.link ≠ 3 then s
    else if 16 < h.lanes.toNat then { s with hst := { h with lanes := h.lanes - 1, link := 3, chg := h.chg || h.link ≠ 3 } }
    else { s with hst := { h with lanes := 0, link := 1, chg := true } })

/-! ### Bring-up (R448 to R450) -/

/-- A self-test of the cluster is due: it is neither admitted nor failed, or READMIT has started one. -/
def HostRegs.testing (h : HostRegs) (cl : Nat) : Bool :=
  cl < 16 && (h.stage = 2 || h.stage = 3 || h.stage = 4)
  && ((!h.cladm.getLsbD cl && !h.clfail.getLsbD cl) || h.retesting.getLsbD cl)

/-- CLUSTER_SELF_TEST (R449, R452). -/
def execClusterSelfTest (cluster : Nat) (pass : Bool) (s : State) : Host.Outcome State Fault Refusal :=
  let bit : BitVec 16 := 1#16 <<< cluster
  let h := s.hst
  if !h.testing cluster then .next s
  else if pass then
    .next ({ s with hst := { h with cladm := h.cladm ||| bit, clfail := h.clfail &&& ~~~bit, retiredCl := h.retiredCl &&& ~~~bit,
                                    retesting := h.retesting &&& ~~~bit } }.wakeCluster cluster)
  else .next { s with hst := { h with clfail := h.clfail ||| bit, retesting := h.retesting &&& ~~~bit } }

/-- MXCAL_SET (R449, R450): FMT 6 to 8 are available. -/
def execMxcalSet (s : State) : Host.Outcome State Fault Refusal :=
  .next (if s.hst.stage = 2 || s.hst.stage = 3 then { s with mxcal := true } else s)

/-- FULL_SERVICE (R449): every cluster is admitted or failed and MXCAL is 1; the cap lifts. -/
def execFullService (s : State) : Host.Outcome State Fault Refusal :=
  .next (
    if s.hst.stage = 3 && s.mxcal && s.hst.cladm ||| s.hst.clfail = BitVec.allOnes 16 then
      let islands : Tbl Island := s.islands.map fun x => (x.1, if x.2.state = 2 then x.2.runAt 1900 else x.2)
      { s with islands := islands, hst := { s.hst with stage := 4 } }
    else s)

/-! ### Retiring a cluster (R452) -/

/-- CLRET_GO (R452): the cluster takes no new team, and its teams are saved. It ends by itself once none is left there. -/
def execClretGo (v : DWord) (s : State) : Host.Outcome State Fault Refusal := viaLink s <|
  let cl := bitsOf v.toNat 3 0
  let left := s.hst.cladm &&& ~~~(1#16 <<< cl)
  .next (
    if v.getLsbD 4 && s.hst.cladm.getLsbD cl && left ≠ 0 && s.hst.retiring.isNone then
      { s with hst := { s.hst with cladm := left, retiring := some cl } }
    else s)

/-- CLRET_READMIT (R452): the self-test of a retired cluster starts. -/
def execClretReadmit (v : DWord) (s : State) : Host.Outcome State Fault Refusal := viaLink s <|
  let cl := bitsOf v.toNat 3 0
  .next (
    if v.getLsbD 5 && s.hst.retiredCl.getLsbD cl && s.hst.retiring.isNone then
      { s with hst := { s.hst with retesting := s.hst.retesting ||| (1#16 <<< cl) } }
    else s)

end Sys2Proof.Machine
end

