-- ==== Sys2Proof/Machine/Registers.lean ====
section
/-! DEFINITION. The host register window: what each register reads as, and what a write of it does (15_host_reset.md R439, R440). -/
namespace Sys2Proof.Machine
open Sys2Proof

/-! ### Reads -/

/-- A register's value from its fields: value and low bit. -/
def fields (fs : List (Nat × Nat)) : DWord := BitVec.ofNat 64 (fs.foldl (fun n f => n + f.1 * 2 ^ f.2) 0)

/-- The Cledel link block (R441). -/
def State.readLink (s : State) (o : Nat) : DWord :=
  let h := s.hst
  if o = 0 then fields [(h.refused, 32), (h.ver.toNat, 16), (h.lanes.toNat, 8), (h.link, 1), (b2n h.chg, 0)]
  else if o = 8 then fields [(h.errLine, 7), (b2n h.errWrite, 4), (h.errWorld, 0)]
  else 0

/-- The reset block (R448). RSTCTL and FWLOAD read zero. -/
def State.readReset (s : State) (o : Nat) : DWord :=
  let h := s.hst
  if o = 0x10 then
    fields [(h.cladm.toNat, 48), ((h.clfail ||| h.retiredCl).toNat, 32), (h.cause, 16), (b2n s.mxcal, 4), (h.stage, 0)]
  else 0

/-- The debug block (R159). -/
def State.readDebug (s : State) (o : Nat) : DWord :=
  let d := s.dbg
  if o = 0 then fields [(d.ctx, 32), (b2n d.bken, 3)]
  else if o = 8 then
    fields [(d.bktag.toNat, 32), (d.parked, 16), (b2n d.refused, 4), (b2n d.gone, 3), (b2n d.bkhit, 2), (b2n d.haltDone, 1),
      (b2n d.halting, 0)]
  else 0

/-- The translation block (R206). -/
def State.readXlat (s : State) (o : Nat) : DWord :=
  let x := s.xlat
  if o = 0 then fields [(x.ctx, 32), (x.scope.toNat, 1)]
  else if o = 8 then fields [(x.vpn, 16)]
  else if o = 0x10 then fields [(b2n x.err, 1), (b2n x.busy, 0)]
  else if o = 0x18 then x.prqBase
  else if o = 0x20 then x.tail.zeroExtend 64
  else if o = 0x28 then x.head.zeroExtend 64
  else 0

/-- PORTCTL and PORTSTAT (R303). -/
def Port.readReg (p : Port) (stat : Bool) : DWord :=
  if stat then
    fields [(p.cerr.toNat, 32), (p.extver.toNat, 16), (p.lanes.toNat, 12), (b2n p.proto, 8), (b2n p.rate, 7), (p.state, 4), (b2n p.chg, 0)]
  else fields [(p.laneen.toNat, 4), (b2n p.ratecap, 3), (b2n p.drain, 1), (b2n p.enable, 0)]

/-- PILOTCTL and PILOTIMG (R315). -/
def Pilot.readReg (p : Pilot) (img : Bool) : DWord :=
  if img then p.img else fields [(p.state, 4), (b2n p.drain, 2), (b2n p.run, 0)]

/-- The fabric block (R295, R303, R315). -/
def State.readFabric (s : State) (o : Nat) : DWord :=
  let f := s.fab
  if o = 0 then f.rchbase
  else if o = 0x10 then fields [(f.rchErr, 8), (b2n f.rchErrFlag, 1), (b2n f.rchBusy, 0)]
  else if 0x100 ≤ o && o < 0x380 then
    let n := (o - 0x100) / 16
    ((f.ports[n]?).map fun p => p.readReg (o % 16 = 8)).getD 0
  else if 0x400 ≤ o && o < 0x680 then ((f.pilots[(o - 0x400) / 16]?).map fun p => p.readReg (o % 16 = 8)).getD 0
  else 0

/-- The task engine block (R344, R361). -/
def State.readTask (s : State) (o : Nat) : DWord :=
  if o < 0x1000 then
    let q := (s.te.cq.get? (o / 16)).getD cmdQ0
    if o % 16 = 8 then fields [(q.next % 2 ^ 48, 0)] else fields [(q.addr, 0), (q.size, 1), (b2n q.en, 0)]
  else if o < 0x1400 then
    let h := (s.te.home.get? ((o - 0x1000) / 8)).getD ⟨false, 0⟩
    fields [(b2n h.en, 7), (h.home, 0)]
  else if o < 0x1600 then
    let q := s.taskQ ((o - 0x1400) / 8)
    fields [(q.count, 32), (q.log, 8), (b2n q.bound, 0)]
  else 0

/-- A mailbox register (R382). -/
def Stack.readReg (x : Stack) (o : Nat) : DWord :=
  if o = 8 then x.arg
  else if o = 0x10 then x.resp
  else if o = 0x18 then fields [(x.result, 4), (b2n x.done, 1), (b2n x.busy, 0)]
  else 0

/-- The code of a migration state (R387). -/
def MigState.code : MigState → Nat
  | .old => 0 | .drain => 1 | .moving => 2 | .new => 3

/-- LLTENT (R387). -/
def Stacks.entry (m : Stacks) : DWord :=
  match m.lost[m.lltidx.toNat]? with
  | some l => fields [(1, 63), (l.kind, 60), (l.line, 0)]
  | none => 0

/-- The memory block (R381 to R391). -/
def State.readMemory (s : State) (o : Nat) : DWord :=
  let m := s.stk
  if o = 0 then fields ((b2n m.ready, 63) :: (List.range 12).map fun i => ((m.stackTab[i]?.map (·.state)).getD 0, 4 * i))
  else if o = 8 then fields [(m.nextCache, 12), (m.cache, 0)]
  else if o = 0x10 then fields [(m.seed.toNat, 32), ((stacksOf m.active).length, 16), (m.active.toNat, 0)]
  else if o = 0x18 then fields [(m.memcap, 0)]
  else if o = 0x20 then fields [(m.mphase.toNat, 0)]
  else if o = 0x28 then fields [(m.retStack.toNat, 0)]
  else if o = 0x30 then
    let shown : Bool := m.retState ≠ 0
    fields [(if shown then m.total else 0, 44), (if shown then (m.mig.filter fun x => x.2 = .new).length else 0, 24), (m.retErr.toNat, 8),
      (m.retState, 0)]
  else if o = 0x38 then fields [(m.replays, 32), (m.stalls, 0)]
  else if 0x100 ≤ o && o < 0x280 then ((m.stackTab[(o - 0x100) / 32]?).map fun x => x.readReg (o % 32)).getD 0
  else if o = 0x300 then fields [(m.lost.length, 0)]
  else if o = 0x308 then m.lltidx.zeroExtend 64
  else if o = 0x310 then m.entry
  else if o = 0x320 then m.frameq.zeroExtend 64
  else if o = 0x328 then
    fields [(b2n (m.fenced.contains m.frameq.toNat), 2), (((m.mig.get? m.frameq.toNat).getD .old).code, 0)]
  else 0

/-- SCRUBPROG and SCRUBSTAT (R432). -/
def Security.readScrub (x : Security) (prog : Bool) : DWord :=
  let waiting := if x.scrubbing then x.scrubs.length - 1 else x.scrubs.length
  match x.scrubbing, x.scrubs with
  | true, y :: _ =>
    if prog then fields [(y.total, 32), (y.done, 0)]
    else fields [(if y.reset then 0 else y.ctx, 32), (min waiting 255, 8), (b2n y.reset, 1), (1, 0)]
  | _, _ => if prog then fields [(x.lastTotal, 32), (x.lastTotal, 0)] else fields [(min waiting 255, 8)]

/-- The security block (R405 to R435). -/
def State.readSecurity (s : State) (o : Nat) : DWord :=
  let x := s.sec
  if o = 0 then fields [(x.next, 8), (x.dbg, 4), (x.mode, 0)]
  else if o = 8 then fields ((List.range 46).map fun i => (b2n (x.keys.get? i).isSome, i))
  else if o = 0x10 then x.readScrub true
  else if o = 0x18 then x.readScrub false
  else if o = 0x20 then x.nonce0
  else if o = 0x28 then x.nonce1
  else if 0x48 ≤ o && o < 0x68 then x.args[(o - 0x48) / 8]?.getD 0
  else if o = 0x68 then x.resp
  else if o = 0x70 then fields [(x.result, 8), (b2n x.done, 1), (b2n (x.cmd.isSome || x.job.isSome), 0)]
  else if 0x100 ≤ o && o < 0x120 then
    let k := (o - 0x100) / 8
    fields ((List.range 4).map fun i => ((x.fwmat[4 * k + i]?.getD 0).toNat, 16 * i))
  else 0

/-- ISLTEL (R451). Temperature and power are free values. -/
def State.readIsland (s : State) (o : Nat) : DWord :=
  if 0x100 ≤ o && o < 0x240 then
    let x := (s.islands.get? ((o - 0x100) / 8)).getD { mhz := 0, acc := 0 }
    fields [(x.temp.toNat, 48), (x.power.toNat, 32), (x.mhz, 16), (x.state, 0)]
  else 0

/-- What an offset of the register window reads as (R439, R440): zero where no block defines it. -/
def State.readReg (s : State) (off : Nat) : DWord :=
  let o := off % 0x10000
  match off / 0x10000 with
  | 0 => s.readLink o
  | 1 => s.readReset o
  | 2 => s.readDebug o
  | 3 => s.readXlat o
  | 4 => s.readFabric o
  | 5 => s.readTask o
  | 6 => s.readMemory o
  | 7 => s.readSecurity o
  | 8 => s.readIsland o
  | _ => 0

/-! ### Writes -/

/-- The state after an event. -/
def after (s : State) (o : Host.Outcome State Fault Refusal) : State := match o with | .next t => t | _ => s

/-- The debug block (R159): the fields, HALT, RESUME, and the bits that a one clears. -/
def State.writeDebug (s : State) (o : Nat) (v : DWord) : State :=
  if o = 0 then ((s.writeDbgctl v).haltReq v).resumeReq v
  else if o = 8 then
    let d := s.dbg
    { s with dbg := { d with refused := d.refused && !v.getLsbD 4, gone := d.gone && !v.getLsbD 3, bkhit := d.bkhit && !v.getLsbD 2,
                             haltDone := d.haltDone && !v.getLsbD 1 } }
  else s

/-- The translation block (R206). -/
def State.writeXlat (s : State) (o : Nat) (v : DWord) : State :=
  let x := s.xlat
  if o = 0 then after s (execTlbInvalidate v s)
  else if o = 8 then { s with xlat := { x with vpn := bitsOf v.toNat 55 16 } }
  else if o = 0x10 then { s with xlat := { x with err := x.err && !v.getLsbD 1 } }
  else if o = 0x18 then { s with xlat := { x with prqBase := v &&& 0xFFFFFFFFFFFFF00F } }
  else if o = 0x28 then { s with xlat := { x with head := v.truncate 32 } }
  else if o = 0x30 then after s (execPfresp v s)
  else s

/-- The fabric block (R295, R303, R315). -/
def State.writeFabric (s : State) (o : Nat) (v : DWord) : State :=
  if o = 0 then { s with fab := { s.fab with rchbase := v &&& 0xFFFFFFFFFF80 } }
  else if o = 8 then
    let t := after s (execRchctlLoad v s)
    if s.fab.rchBusy then after t (execRchctlEndinv v t) else t.markInv (v.getLsbD 1)
  else if o = 0x10 then { s with fab := { s.fab with rchErrFlag := s.fab.rchErrFlag && !v.getLsbD 1 } }
  else if 0x100 ≤ o && o < 0x380 then
    let n := (o - 0x100) / 16
    if o % 16 = 0 then s.writePortctl n v else s.updPort n fun p => { p with chg := p.chg && !v.getLsbD 0 }
  else if 0x400 ≤ o && o < 0x680 then
    let n := (o - 0x400) / 16
    if o % 16 = 0 then s.writePilotctl n v else s.updPilot n fun p => { p with img := v &&& 0xFFFFFFFFF000 }
  else s

/-- The task engine block (R344, R361). -/
def State.writeTask (s : State) (o : Nat) (v : DWord) : State :=
  if o < 0x1000 then (if o % 16 = 0 then after s (execCqbaseWrite (o / 16) v s) else s)
  else if o < 0x1400 then
    let h : CoreHome := ⟨v.getLsbD 7, bitsOf v.toNat 5 0⟩
    { s with te := { s.te with home := s.te.home.put ((o - 0x1000) / 8) h } }
  else s

/-- A write of a mailbox register (R382): a command is taken unless one runs, and one that does not exist ends at once. -/
def Stack.writeReg (x : Stack) (o : Nat) (v : DWord) (resp : DWord) : Stack :=
  if o = 0 then
    let c := bitsOf v.toNat 7 0
    if x.busy then x else if 1 ≤ c && c ≤ 4 then { x with cmd := c, busy := true, runArg := x.arg } else { x with cmd := c }.answer 1 resp
  else if o = 8 then { x with arg := v }
  else if o = 0x18 then { x with done := x.done && !v.getLsbD 1 }
  else x

/-- The memory block (R381 to R391). -/
def State.writeMemory (s : State) (o : Nat) (v : DWord) : State :=
  if o = 8 then { s with stk := { s.stk with nextCache := bitsOf v.toNat 15 12 } }
  else if o = 0x28 then after s (execRetirementGo v s)
  else if 0x100 ≤ o && o < 0x280 then
    let (r, s) := s.drawFree
    s.updStack ((o - 0x100) / 32) fun x => x.writeReg (o % 32) v (r.truncate 64)
  else if o = 0x308 then { s with stk := { s.stk with lltidx := v.truncate 10 } }
  else if o = 0x318 then after s (execLlclr v s)
  else if o = 0x320 then { s with stk := { s.stk with frameq := v.truncate 20 } }
  else if o = 0x330 then after s (execFrameclr v s)
  else s

/-- The security block (R405, R418): a command is taken unless one runs; 0 and 7 to 255 finish with RESULT 1. -/
def State.writeSecurity (s : State) (o : Nat) (v : DWord) : State :=
  let x := s.sec
  if o = 0 then after s (execSecmodeWrite v s)
  else if o = 0x40 then
    let c := bitsOf v.toNat 7 0
    if x.cmd.isSome || x.job.isSome then s
    else if 1 ≤ c && c ≤ 6 then s.secCommit c else s.secDone 1
  else if 0x48 ≤ o && o < 0x68 then { s with sec := { x with args := x.args.set ((o - 0x48) / 8) v } }
  else if o = 0x70 then { s with sec := { x with done := x.done && !v.getLsbD 1 } }
  else s

/-- What a write of the register window does (R439, R440): nothing where no block defines a register. -/
def State.writeReg (s : State) (off : Nat) (v : DWord) : State :=
  let o := off % 0x10000
  match off / 0x10000 with
  | 0 => if o = 0 then { s with hst := { s.hst with chg := s.hst.chg && !v.getLsbD 0 } } else s
  | 1 => if o = 0 then s.writeRstctl v else if o = 8 then after s (execFwload v s) else s
  | 2 => s.writeDebug o v
  | 3 => s.writeXlat o v
  | 4 => s.writeFabric o v
  | 5 => s.writeTask o v
  | 6 => s.writeMemory o v
  | 7 => s.writeSecurity o v
  | 8 => if o = 8 then
      let t := after s (execClretGo v s)
      after t (execClretReadmit v t)
    else s
  | _ => s

/-- REGISTER_WRITE (R440): an access of 8 bytes at an aligned offset. -/
def execRegisterWrite (off : Nat) (v : DWord) (s : State) : Host.Outcome State Fault Refusal := viaLink s <|
  .next (if off % 8 = 0 && off < 2 ^ 20 then s.writeReg off v else s)

/-- COMPANION_ACCESS (R409, R440, R442): an access to a register, in world 1, or to device memory. The link must be up. -/
def execCompanionAccess (acc : CompAccess) (s : State) : Host.Outcome State Fault Refusal :=
  if !s.linkUp then .next s
  else if !acc.reg then .next (s.arriveAccess acc)
  else if acc.addr % 8 ≠ 0 || (if acc.write then acc.data.length else acc.bytes) ≠ 8 then
    .next (s.refuseAccess { acc with addr := Config.regwin + acc.addr } 0xF)
  else if acc.write then .next (s.writeReg acc.addr (BitVec.ofNat 64 (leNat acc.data)))
  else
    let v := s.readReg acc.addr
    .next { s with free := s.free + 1, hst := { s.hst with answers := s.hst.answers ++ [some (leBytes 8 v.toNat)] } }

end Sys2Proof.Machine
end

