-- ==== Sys2Proof/Machine/Schedule.lean ====
section
/-! DEFINITION. Swaps, promotion and the trap slot of a partition (05_sequencer.md R128 to R132, R155). -/
namespace Sys2Proof.Machine
open Sys2Proof

/-- A resident group of a partition. -/
abbrev Res3 := GRef × Team × Group

/-- A pending group that would issue if it were active (R130, R131). One in the trap slot's queue waits for the slot (R155). -/
def State.pendingReady (s : State) (core p : Nat) (x : Res3) : Bool :=
  let (r, t, g) := x
  let q := s.part core p
  g.place = .pending && s.teamLive t && !g.retired && !g.withdrawn && !g.waiting && !g.held && g.sleepUntil.isNone
  && (!g.intrap || (q.trapOwner.isNone && q.trapQueue.head? = some r))
  && (g.clause.isSome || (t.stopping.isNone && s.waitMet t g))

/-- The next clause waits on the flag of an outstanding load, atomic or far access (R130). Whether a load misses L2 is left to the
schedule. -/
def State.waitsOnFar (s : State) (x : Res3) : Bool :=
  let (r, t, g) := x
  g.clause.isNone && !s.waitMet t g
  && match s.fetchWord t g.pc.toNat with
    | .error _ => false
    | .ok (w, _) => s.ops.any fun (_, o) => o.owner = r && (o.far || o.kind = .load)
        && o.flag.any fun n => (FmtBC.unpack w).wait.getLsbD n

/-- A SIGWAIT of the group was false at its first check and has not been met (R130). -/
def State.sigwaitOut (s : State) (r : GRef) : Bool :=
  s.ops.any fun (_, o) => o.owner = r && (match o.kind with | .sigwait _ _ _ _ met => !met | _ => false)

/-- An active group that may be swapped out (R130). -/
def State.swappable (s : State) (x : Res3) : Bool :=
  x.2.2.place = .active && !x.2.2.intrap && !x.2.2.retired && (x.2.2.eligible || s.sigwaitOut x.1 || s.waitsOnFar x)

/-- The groups in the register file of a partition. -/
def State.inFile (s : State) (core p : Nat) : List Res3 :=
  (s.onPart core p).filter fun x => x.2.2.place = .active || x.2.2.place = .trapSlot

/-- A group fits into the register file once another, or none, has left it (R128). -/
def State.fileHas (s : State) (core p : Nat) (out : Option GRef) (x : Res3) : Bool :=
  let stay := (s.inFile core p).filter fun y => some y.1 ≠ out
  stay.length < 8 && 384 * (stay.foldl (fun n y => n + y.2.1.shape.v) 0 + x.2.1.shape.v) ≤ 98304

/-- The group of a list that has been ready longest; equals by team slot and group. -/
def oldest (l : List Res3) : Option Res3 :=
  l.foldl (fun (best : Option Res3) x => match best with
    | none => some x
    | some b => if issueBefore 0 x b then some x else some b) none

/-- The incoming group when another, or none, leaves (R130). -/
def State.incoming (s : State) (core p : Nat) (out : Option GRef) : Option Res3 :=
  oldest ((s.onPart core p).filter fun x => s.pendingReady core p x && s.fileHas core p out x)

/-- A swap begins: the places change hands, and neither group issues while the transfer runs (R130). -/
def State.startSwap (s : State) (core p : Nat) (inc : GRef) (out : Option GRef) : State :=
  let q := s.part core p
  let s := s.putPart core p { q with swap := some ⟨inc, out, s.ref + 96⟩ }
  let s := match out with
    | some o => s.updGroup o fun g => { g with place := .pending }
    | none => s
  s.updGroup inc fun g => { g with place := .active }

/-- SWAP (R130): a ready pending group enters where there is room, or changes places with a swap-eligible group; which one of several
is open. -/
def execSwap (core part : Nat) (s : State) : Host.Outcome State Fault Refusal :=
  if (s.part core part).swap.isSome then .next s
  else
    match s.incoming core part none with
    | some x => .next (s.startSwap core part x.1 none)
    | none =>
      let outs := (s.onPart core part).filter fun y => s.swappable y && (s.incoming core part (some y.1)).isSome
      let (v, s') := s.drawFree
      match outs[v.toNat % outs.length]? with
      | none => .next s
      | some y =>
        match s.incoming core part (some y.1) with
        | none => .next s
        | some x => .next (s'.startSwap core part x.1 (some y.1))

/-- SWAP_TRANSFER_DONE (R130): the incoming group may issue. -/
def execSwapTransferDone (core part : Nat) (s : State) : Host.Outcome State Fault Refusal :=
  let q := s.part core part
  match q.swap with
  | none => .next s
  | some x =>
    if s.ref < x.done then .next s
    else
      .next ((s.putPart core part { q with swap := none, order := q.order + 1 }).updGroup x.incoming fun g =>
        { g with entered := q.order, eligible := false })

/-- The last of a list to enter the active set. -/
def newest (l : List Res3) : Option Res3 :=
  l.foldl (fun (best : Option Res3) x => match best with
    | none => some x
    | some b => if b.2.2.entered < x.2.2.entered then some x else some b) none

/-- The active group that a promotion displaces: the waiting one that entered last, else the one that entered last (R132). -/
def State.displaced (s : State) (core p : Nat) : Option Res3 :=
  let act := (s.onPart core p).filter fun x => x.2.2.place = .active && !x.2.2.intrap && !x.2.2.retired
  match newest (act.filter fun x => !s.ready x.2.1 x.1.grp x.2.2) with
  | some x => some x
  | none => newest act

/-- PROMOTION (R132): a pending group that has been ready for 2,048 cycles displaces an active one, at its clause boundary. -/
def execPromotion (core part : Nat) (s : State) : Host.Outcome State Fault Refusal :=
  if (s.part core part).swap.isSome then .next s
  else
    match s.displaced core part with
    | none => .next s
    | some y =>
      let late := (s.onPart core part).filter fun x => s.pendingReady core part x && x.2.2.readySince + 2048 ≤ s.ref
      match oldest late with
      | none => .next s
      | some x =>
        if s.fileHas core part (some y.1) x && (y.2.2.clause.isNone || !s.ready y.2.1 y.1.grp y.2.2) then
          .next (s.startSwap core part x.1 (some y.1))
        else .next s

/-- TRAP_SLOT_GRANT (R155): the slot is free, and the group that has waited longest takes it. -/
def execTrapSlotGrant (core part : Nat) (s : State) : Host.Outcome State Fault Refusal := .next (s.grantTrap core part)

end Sys2Proof.Machine
end

