-- ==== Sys2Proof/Machine/Sounding.lean ====
section
/-! DEFINITION. Sounding tokens (08_copy.md R260, R261; 09_matrix.md R282; 10_fabric.md R300). -/
namespace Sys2Proof.Machine
open Sys2Proof

/-- The head of a team's copy queue: its first copy that has not started and is not set aside. -/
def State.copyHead (s : State) (team : Nat) : Option (Nat × Copy) :=
  s.copies.find? fun (_, c) => c.team = team && !c.started && !c.aside && !c.parked

/-- The head of a team's copy queue while it is blocked, and the ring whose claim it waits for (R260): its own claim would wait, or the
set-aside copy has still to claim on the ring it names (R261). -/
def State.blockedHead (s : State) (team : Nat) : Option (Nat × Copy × Nat) :=
  match s.team? team, s.copyHead team with
  | some t, some (id, c) =>
    if c.blockedFrom.isNone then none
    else
      let behind : Bool := (s.copyFirsts team).1.any fun (_, a) => a.ringOf = c.ringOf && a.claims.isSome
      match c.claims, c.ringOf with
      | some k, _ => if t.ringFull k || behind then some (id, c, k) else none
      | none, some k => if behind then some (id, c, k) else none
      | none, none => none
  | _, _ => none

/-- The ring that a blocked group waits on, where it is a node with an edge to a ring: RING RESERVE, and a held MDRAIN (R282). -/
def Group.ringEdge (g : Group) : Option Nat :=
  if !g.waiting then none
  else match g.instr with
    | some (.ringReserve f) => some f.w2.imm.toNat
    | some (.mdrainRing f) => some (f.w2.imm.toNat % 16)
    | _ => none

/-- The logbook that a group blocked in LOGWAIT waits on. -/
def Group.logEdge (g : Group) : Option Nat :=
  if !g.waiting then none
  else match g.instr with
    | some (.ringLogwait f) => some f.w2.imm.toNat
    | _ => none

/-- Ring `k`'s token goes to the group: it is blocked in RING WAIT, RING RESERVE or LOGWAIT, or held in MDRAIN for that ring. -/
def Group.ringNode (g : Group) (k : Nat) : Bool :=
  g.ringWaits.isSome || g.logEdge.isSome
  || (match g.instr with
      | some (.ringReserve _) => g.waiting
      | some (.mdrainRing _) => g.ringEdge = some k
      | _ => false)

/-- The nodes that a token goes to from a node, as it stands (R260). -/
def State.tokenEdges (s : State) (n : TokNode) : List TokNode :=
  match n with
  | .copyQueue team =>
    match s.blockedHead team with
    | some (_, _, k) => [.ring team k]
    | none => []
  | .ring team k =>
    match s.team? team with
    | none => []
    | some t =>
      match t.rings.get? k with
      | none => []
      | some x =>
        if x.at x.tail = .f then []
        else ((List.range t.groups.length).zip t.groups).filterMap fun (i, g) =>
          if g.ringNode k then some (.group ⟨team, i⟩) else none
  | .group r =>
    match s.team? r.team, s.group? r with
    | some t, some g =>
      match g.ringWaits with
      | some (k, slot, _) =>
        match (t.rings.get? k).map (fun (x : Ring) => x.at slot) with
        | some .ce =>
          let holders := s.copies.filter fun (_, c) => c.claim = some slot && c.team = r.team && c.ringOf = some k && !c.committed
          let senders := s.copies.filter fun (_, c) => c.recv.any fun x => x.team = r.team && x.slot = some slot && !x.forwarded
          holders.map (fun (_, c) => .copyQueue c.team) ++ senders.map (fun (id, _) => .sender id)
        | some .f =>
          if s.copies.any fun (_, c) => c.team = r.team && !c.started && c.ringOf = some k then [.copyQueue r.team] else []
        | _ => []
      | none =>
        match g.ringEdge, g.logEdge with
        | some k, _ => [.ring r.team k]
        | none, some j =>
          if s.copies.any fun (_, c) => c.team = r.team
              && (match c.desc with | some b => (let d := CopyDesc.parse b; d.logen && d.log = j) | none => false) then
            [.copyQueue r.team]
          else []
        | none, none => []
    | _, _ => []
  | .sender id =>
    match s.copies.get? id with
    | none => []
    | some c =>
      match c.desc with
      | none => []
      | some b =>
        let k := (CopyDesc.parse b).ring
        let open_ := c.recv.filter fun x => !x.committed
        let held (x : Recv) : Bool :=
          match (s.team? x.team).bind fun t => t.rings.get? k with
          | some y => (y.claim .ce).isNone
          | none => false
        ((if c.sub = 2 then open_.take 1 else open_).filter held).map fun x => .ring x.team k
  | .dead => []

/-- SOUNDING_TOKEN_SEND (R260): a head blocked for 4,096 cycles, and again every 4,096 cycles. -/
def execSoundingTokenSend (team : Nat) (s : State) : Host.Outcome State Fault Refusal :=
  match s.copyHead team, s.team? team with
  | some (_, c), some t =>
    match c.blockedFrom with
    | some from_ =>
      if from_ + 4096 ≤ s.ref && (t.tokenAt ≤ from_ || t.tokenAt + 4096 ≤ s.ref) then
        let (id, s) := s.fresh
        let s := s.updTeam team fun t => { t with tokenAt := s.ref }
        let edges := s.tokenEdges (.copyQueue team)
        .next (if edges.isEmpty then s else { s with tokens := s.tokens.put id ⟨team, edges⟩ })
      else .next s
    | none => .next s
  | _, _ => .next s

/-- A cycle closes at a team's copy queue (R261): the blocked head goes to the reserve entry, or DEADLOCK ends the context; a queue whose
head is no longer blocked drops the token (R260). DESIGN CHOICE (log entry 24): the record of DEADLOCK names the head's issuing group and
the clause of its COPY instruction. -/
def State.closeCycle (s : State) (team : Nat) : State :=
  match s.blockedHead team with
  | none => s
  | some (id, c, _) =>
    if s.copies.any fun (_, x) => x.team = team && x.aside then
      s.fatal ⟨team, c.grp⟩ { code := .deadlock, slot := some c.slot, hdr := some c.hdr }
    else s.updCopy id fun c => { c with aside := true, flags := c.flags ||| 8, blockedFrom := none }

/-- SOUNDING_TOKEN_PASS (R260, R261): a token passes one of its edges; it is dropped, forwarded, or has reached its origin. -/
def execSoundingTokenPass (token edge : Nat) (s : State) : Host.Outcome State Fault Refusal :=
  match s.tokens.get? token with
  | none => .next s
  | some k =>
    match k.left[edge]? with
    | none => .next s
    | some n =>
      let left := k.left.eraseIdx edge
      let s := { s with tokens := if left.isEmpty then s.tokens.del token else s.tokens.put token { k with left := left } }
      if n = .copyQueue k.origin then .next (s.closeCycle k.origin)
      else
        let edges := s.tokenEdges n
        if edges.isEmpty then .next s
        else
          let (id, s) := s.fresh
          .next { s with tokens := s.tokens.put id ⟨k.origin, edges⟩ }

end Sys2Proof.Machine
end

