-- ==== Sys2Proof/Machine/Dispatch.lean ====
section
/-! DEFINITION. What each instruction does: one arm per constructor of Instr. -/
namespace Sys2Proof.Machine
open Sys2Proof

def exec (i : Instr) (s : State) : Host.Outcome State Fault Refusal :=
  match i with
  | .nop z => Sys2Proof.Machine.execNop z s
  | .clause f => Sys2Proof.Machine.execClause f s
  | .bra f => Sys2Proof.Machine.execBra f s
  | .braX f w1 w2 => Sys2Proof.Machine.execBraX f w1 w2 s
  | .jmp off => Sys2Proof.Machine.execJmp off s
  | .call off => Sys2Proof.Machine.execCall off s
  | .ret z => Sys2Proof.Machine.execRet z s
  | .brx f => Sys2Proof.Machine.execBrx f s
  | .yield z => Sys2Proof.Machine.execYield z s
  | .exit f => Sys2Proof.Machine.execExit f s
  | .exitS f => Sys2Proof.Machine.execExitS f s
  | .waitf f => Sys2Proof.Machine.execWaitf f s
  | .trap f => Sys2Proof.Machine.execTrap f s
  | .tret z => Sys2Proof.Machine.execTret z s
  | .bkpt f => Sys2Proof.Machine.execBkpt f s
  | .srd f => Sys2Proof.Machine.execSrd f s
  | .swr f => Sys2Proof.Machine.execSwr f s
  | .sleep f => Sys2Proof.Machine.execSleep f s
  | .sleepExpiry r => Sys2Proof.Machine.execSleepExpiry r s
  | .sadd f => Sys2Proof.Machine.execSadd f s
  | .ssub f => Sys2Proof.Machine.execSsub f s
  | .smul f => Sys2Proof.Machine.execSmul f s
  | .smulh f => Sys2Proof.Machine.execSmulh f s
  | .sand f => Sys2Proof.Machine.execSand f s
  | .sor f => Sys2Proof.Machine.execSor f s
  | .sxor f => Sys2Proof.Machine.execSxor f s
  | .sandn f => Sys2Proof.Machine.execSandn f s
  | .sshl f => Sys2Proof.Machine.execSshl f s
  | .sshr f => Sys2Proof.Machine.execSshr f s
  | .ssra f => Sys2Proof.Machine.execSsra f s
  | .smin f => Sys2Proof.Machine.execSmin f s
  | .smax f => Sys2Proof.Machine.execSmax f s
  | .scmp f => Sys2Proof.Machine.execScmp f s
  | .ssel f => Sys2Proof.Machine.execSsel f s
  | .smov f => Sys2Proof.Machine.execSmov f s
  | .spopc f => Sys2Proof.Machine.execSpopc f s
  | .sclz f => Sys2Proof.Machine.execSclz f s
  | .sbfe f => Sys2Proof.Machine.execSbfe f s
  | .sbfi f => Sys2Proof.Machine.execSbfi f s
  | .sdiv f => Sys2Proof.Machine.execSdiv f s
  | .srem f => Sys2Proof.Machine.execSrem f s
  | .saddr f => Sys2Proof.Machine.execSaddr f s
  | .pand f => Sys2Proof.Machine.execPand f s
  | .por f => Sys2Proof.Machine.execPor f s
  | .pxor f => Sys2Proof.Machine.execPxor f s
  | .pandn f => Sys2Proof.Machine.execPandn f s
  | .pnot f => Sys2Proof.Machine.execPnot f s
  | .pmovToScalar f => Sys2Proof.Machine.execPmovToScalar f s
  | .pmovToPredicate f => Sys2Proof.Machine.execPmovToPredicate f s
  | .ballot f => Sys2Proof.Machine.execBallot f s
  | .ppopc f => Sys2Proof.Machine.execPpopc f s
  | .pfirst f => Sys2Proof.Machine.execPfirst f s
  | .ptest f => Sys2Proof.Machine.execPtest f s
  | .vadd f => Sys2Proof.Machine.execVadd f s
  | .vsub f => Sys2Proof.Machine.execVsub f s
  | .vmul f => Sys2Proof.Machine.execVmul f s
  | .vmulh f => Sys2Proof.Machine.execVmulh f s
  | .vmad f => Sys2Proof.Machine.execVmad f s
  | .vand f => Sys2Proof.Machine.execVand f s
  | .vor f => Sys2Proof.Machine.execVor f s
  | .vxor f => Sys2Proof.Machine.execVxor f s
  | .vandn f => Sys2Proof.Machine.execVandn f s
  | .vshl f => Sys2Proof.Machine.execVshl f s
  | .vshr f => Sys2Proof.Machine.execVshr f s
  | .vsra f => Sys2Proof.Machine.execVsra f s
  | .vmin f => Sys2Proof.Machine.execVmin f s
  | .vmax f => Sys2Proof.Machine.execVmax f s
  | .vabs f => Sys2Proof.Machine.execVabs f s
  | .vneg f => Sys2Proof.Machine.execVneg f s
  | .vcmp f => Sys2Proof.Machine.execVcmp f s
  | .vsel f => Sys2Proof.Machine.execVsel f s
  | .vmov f => Sys2Proof.Machine.execVmov f s
  | .vpopc f => Sys2Proof.Machine.execVpopc f s
  | .vclz f => Sys2Proof.Machine.execVclz f s
  | .vhash f => Sys2Proof.Machine.execVhash f s
  | .vbfe f => Sys2Proof.Machine.execVbfe f s
  | .vbfi f => Sys2Proof.Machine.execVbfi f s
  | .vfadd f => Sys2Proof.Machine.execVfadd f s
  | .vfsub f => Sys2Proof.Machine.execVfsub f s
  | .vfmul f => Sys2Proof.Machine.execVfmul f s
  | .vfma f => Sys2Proof.Machine.execVfma f s
  | .vfdot2 f => Sys2Proof.Machine.execVfdot2 f s
  | .vfmin f => Sys2Proof.Machine.execVfmin f s
  | .vfmax f => Sys2Proof.Machine.execVfmax f s
  | .vfcmp f => Sys2Proof.Machine.execVfcmp f s
  | .vfclass f => Sys2Proof.Machine.execVfclass f s
  | .vfrcp f => Sys2Proof.Machine.execVfrcp f s
  | .vfrsq f => Sys2Proof.Machine.execVfrsq f s
  | .vfsqrt f => Sys2Proof.Machine.execVfsqrt f s
  | .vfexp2 f => Sys2Proof.Machine.execVfexp2 f s
  | .vflog2 f => Sys2Proof.Machine.execVflog2 f s
  | .vfsin f => Sys2Proof.Machine.execVfsin f s
  | .vfcos f => Sys2Proof.Machine.execVfcos f s
  | .vftanh f => Sys2Proof.Machine.execVftanh f s
  | .vfcvt f => Sys2Proof.Machine.execVfcvt f s
  | .vicvt f => Sys2Proof.Machine.execVicvt f s
  | .vfpack f => Sys2Proof.Machine.execVfpack f s
  | .vfrnd f => Sys2Proof.Machine.execVfrnd f s
  | .vfscale f => Sys2Proof.Machine.execVfscale f s
  | .vshuf f => Sys2Proof.Machine.execVshuf f s
  | .vbcast f => Sys2Proof.Machine.execVbcast f s
  | .vred f => Sys2Proof.Machine.execVred f s
  | .vscan f => Sys2Proof.Machine.execVscan f s
  | .vmatch f => Sys2Proof.Machine.execVmatch f s
  | .vcompact f => Sys2Proof.Machine.execVcompact f s
  | .vexpand f => Sys2Proof.Machine.execVexpand f s
  | .vrot f => Sys2Proof.Machine.execVrot f s
  | .atload f => Sys2Proof.Machine.execAtload f s
  | .ateval f => Sys2Proof.Machine.execAteval f s
  | .tableWriteStart team => Sys2Proof.Machine.execTableWriteStart team s
  | .tableSwitch team => Sys2Proof.Machine.execTableSwitch team s
  | .pair f => Sys2Proof.Machine.execPair f s
  | .ld f => Sys2Proof.Machine.execLd f s
  | .st f => Sys2Proof.Machine.execSt f s
  | .lds f => Sys2Proof.Machine.execLds f s
  | .ldsExt f => Sys2Proof.Machine.execLdsExt f s
  | .sts f => Sys2Proof.Machine.execSts f s
  | .stsExt f => Sys2Proof.Machine.execStsExt f s
  | .atom f => Sys2Proof.Machine.execAtom f s
  | .red f => Sys2Proof.Machine.execRed f s
  | .redFadd f => Sys2Proof.Machine.execRedFadd f s
  | .fenceAcq f => Sys2Proof.Machine.execFenceAcq f s
  | .fenceRel f => Sys2Proof.Machine.execFenceRel f s
  | .fenceAr f => Sys2Proof.Machine.execFenceAr f s
  | .fenceCopy f => Sys2Proof.Machine.execFenceCopy f s
  | .fenceTier f => Sys2Proof.Machine.execFenceTier f s
  | .pref f => Sys2Proof.Machine.execPref f s
  | .barArrive f => Sys2Proof.Machine.execBarArrive f s
  | .barWait f => Sys2Proof.Machine.execBarWait f s
  | .barSync f => Sys2Proof.Machine.execBarSync f s
  | .barDrop f => Sys2Proof.Machine.execBarDrop f s
  | .barQuery f => Sys2Proof.Machine.execBarQuery f s
  | .barrierPhaseComplete bar => Sys2Proof.Machine.execBarrierPhaseComplete bar s
  | .barrierSwapEligible r => Sys2Proof.Machine.execBarrierSwapEligible r s
  | .lookout bar => Sys2Proof.Machine.execLookout bar s
  | .lockAcq f => Sys2Proof.Machine.execLockAcq f s
  | .lockTry f => Sys2Proof.Machine.execLockTry f s
  | .lockRel f => Sys2Proof.Machine.execLockRel f s
  | .lockGrant lock => Sys2Proof.Machine.execLockGrant lock s
  | .ringReserve f => Sys2Proof.Machine.execRingReserve f s
  | .ringCommit f => Sys2Proof.Machine.execRingCommit f s
  | .ringWait f => Sys2Proof.Machine.execRingWait f s
  | .ringFree f => Sys2Proof.Machine.execRingFree f s
  | .ringQuery f => Sys2Proof.Machine.execRingQuery f s
  | .ringLogwait f => Sys2Proof.Machine.execRingLogwait f s
  | .ringLogpop f => Sys2Proof.Machine.execRingLogpop f s
  | .tcopy f => Sys2Proof.Machine.execTcopy f s
  | .tcopyMc f => Sys2Proof.Machine.execTcopyMc f s
  | .tcopyCh f => Sys2Proof.Machine.execTcopyCh f s
  | .gthr f => Sys2Proof.Machine.execGthr f s
  | .cquiesce f => Sys2Proof.Machine.execCquiesce f s
  | .cquiesceSet f => Sys2Proof.Machine.execCquiesceSet f s
  | .copyStart team => Sys2Proof.Machine.execCopyStart team s
  | .copyComplete copy => Sys2Proof.Machine.execCopyComplete copy s
  | .multicastDelivery copy core => Sys2Proof.Machine.execMulticastDelivery copy core s
  | .chainForward copy => Sys2Proof.Machine.execChainForward copy s
  | .logbookRecordWrite copy => Sys2Proof.Machine.execLogbookRecordWrite copy s
  | .soundingTokenSend team => Sys2Proof.Machine.execSoundingTokenSend team s
  | .soundingTokenPass token edge => Sys2Proof.Machine.execSoundingTokenPass token edge s
  | .mma f => Sys2Proof.Machine.execMma f s
  | .mzero f => Sys2Proof.Machine.execMzero f s
  | .mdrain f => Sys2Proof.Machine.execMdrain f s
  | .mdrainRing f => Sys2Proof.Machine.execMdrainRing f s
  | .epibind f => Sys2Proof.Machine.execEpibind f s
  | .mload f => Sys2Proof.Machine.execMload f s
  | .msync f => Sys2Proof.Machine.execMsync f s
  | .passClose pass => Sys2Proof.Machine.execPassClose pass s
  | .passStart pass => Sys2Proof.Machine.execPassStart pass s
  | .tileOpTakeEffect op => Sys2Proof.Machine.execTileOpTakeEffect op s
  | .drainStart team => Sys2Proof.Machine.execDrainStart team s
  | .drainComplete team => Sys2Proof.Machine.execDrainComplete team s
  | .voci f => Sys2Proof.Machine.execVoci f s
  | .vociSpill f => Sys2Proof.Machine.execVociSpill f s
  | .vocf f => Sys2Proof.Machine.execVocf f s
  | .vocb f => Sys2Proof.Machine.execVocb f s
  | .vocm f => Sys2Proof.Machine.execVocm f s
  | .vocr f => Sys2Proof.Machine.execVocr f s
  | .put f => Sys2Proof.Machine.execPut f s
  | .putsig f => Sys2Proof.Machine.execPutsig f s
  | .get f => Sys2Proof.Machine.execGet f s
  | .radd f => Sys2Proof.Machine.execRadd f s
  | .raddSequenced f => Sys2Proof.Machine.execRaddSequenced f s
  | .sigwait f => Sys2Proof.Machine.execSigwait f s
  | .sigread f => Sys2Proof.Machine.execSigread f s
  | .coll f => Sys2Proof.Machine.execColl f s
  | .collwait f => Sys2Proof.Machine.execCollwait f s
  | .seal f => Sys2Proof.Machine.execSeal f s
  | .unseal f => Sys2Proof.Machine.execUnseal f s
  | .qspawn f => Sys2Proof.Machine.execQspawn f s
  | .qspawnV f => Sys2Proof.Machine.execQspawnV f s
  | .qsteal f => Sys2Proof.Machine.execQsteal f s
  | .qtake f => Sys2Proof.Machine.execQtake f s
  | .glaunch f => Sys2Proof.Machine.execGlaunch f s
  | .gjoin f => Sys2Proof.Machine.execGjoin f s
  | .longLatencyCompletion op => Sys2Proof.Machine.execLongLatencyCompletion op s
  | .swap core part => Sys2Proof.Machine.execSwap core part s
  | .swapTransferDone core part => Sys2Proof.Machine.execSwapTransferDone core part s
  | .promotion core part => Sys2Proof.Machine.execPromotion core part s
  | .trapSlotGrant core part => Sys2Proof.Machine.execTrapSlotGrant core part s
  | .contextEnd ctx => Sys2Proof.Machine.execContextEnd ctx s
  | .machineCheck core part ctx => Sys2Proof.Machine.execMachineCheck core part ctx s
  | .debugHalt v => Sys2Proof.Machine.execDebugHalt v s
  | .debugHaltComplete => Sys2Proof.Machine.execDebugHaltComplete s
  | .debugResume v => Sys2Proof.Machine.execDebugResume v s
  | .teamSuspend team => Sys2Proof.Machine.execTeamSuspend team s
  | .pageRequestPost => Sys2Proof.Machine.execPageRequestPost s
  | .pfresp v => Sys2Proof.Machine.execPfresp v s
  | .teamRestore team site => Sys2Proof.Machine.execTeamRestore team site s
  | .tlbInvalidate v => Sys2Proof.Machine.execTlbInvalidate v s
  | .tlbInvalidateDone => Sys2Proof.Machine.execTlbInvalidateDone s
  | .remoteResend msg => Sys2Proof.Machine.execRemoteResend msg s
  | .contributionArrival contrib => Sys2Proof.Machine.execContributionArrival contrib s
  | .reorderEntryFree contrib => Sys2Proof.Machine.execReorderEntryFree contrib s
  | .redStall ctx unit => Sys2Proof.Machine.execRedStall ctx unit s
  | .fabricMessageArrival msg => Sys2Proof.Machine.execFabricMessageArrival msg s
  | .messageAck msg => Sys2Proof.Machine.execMessageAck msg s
  | .retransmitTimeout msg => Sys2Proof.Machine.execRetransmitTimeout msg s
  | .ackLimit msg => Sys2Proof.Machine.execAckLimit msg s
  | .signalIncrement op => Sys2Proof.Machine.execSignalIncrement op s
  | .sigwaitSatisfied op => Sys2Proof.Machine.execSigwaitSatisfied op s
  | .sealInstalled op => Sys2Proof.Machine.execSealInstalled op s
  | .rchctlLoad v => Sys2Proof.Machine.execRchctlLoad v s
  | .rchctlEndinv v => Sys2Proof.Machine.execRchctlEndinv v s
  | .portRetrain port v => Sys2Proof.Machine.execPortRetrain port v s
  | .portTrainingDone port up fast ver lanes => Sys2Proof.Machine.execPortTrainingDone port up fast ver lanes s
  | .portLaneFailure port lane => Sys2Proof.Machine.execPortLaneFailure port lane s
  | .pilotDrain pilot v => Sys2Proof.Machine.execPilotDrain pilot v s
  | .pilotDrained pilot => Sys2Proof.Machine.execPilotDrained pilot s
  | .pilotLoad pilot v => Sys2Proof.Machine.execPilotLoad pilot v s
  | .pilotVerifyDone pilot => Sys2Proof.Machine.execPilotVerifyDone pilot s
  | .pilotRun pilot v => Sys2Proof.Machine.execPilotRun pilot v s
  | .pilotCommand pilot slot => Sys2Proof.Machine.execPilotCommand pilot slot s
  | .planStart coll => Sys2Proof.Machine.execPlanStart coll s
  | .planFault coll pilot => Sys2Proof.Machine.execPlanFault coll pilot s
  | .planReturn coll pilot result => Sys2Proof.Machine.execPlanReturn coll pilot result s
  | .cqbaseWrite q v => Sys2Proof.Machine.execCqbaseWrite q v s
  | .cqLineTake q => Sys2Proof.Machine.execCqLineTake q s
  | .cmdNop cmd => Sys2Proof.Machine.execCmdNop cmd s
  | .launch cmd => Sys2Proof.Machine.execLaunch cmd s
  | .ctxcreate cmd => Sys2Proof.Machine.execCtxcreate cmd s
  | .ctxdestroy cmd => Sys2Proof.Machine.execCtxdestroy cmd s
  | .handle cmd => Sys2Proof.Machine.execHandle cmd s
  | .tqbind cmd => Sys2Proof.Machine.execTqbind cmd s
  | .tqpush cmd => Sys2Proof.Machine.execTqpush cmd s
  | .gridStart grid => Sys2Proof.Machine.execGridStart grid s
  | .teamPlace grid sites => Sys2Proof.Machine.execTeamPlace grid sites s
  | .dispatch core site => Sys2Proof.Machine.execDispatch core site s
  | .hamperCopy team => Sys2Proof.Machine.execHamperCopy team s
  | .succession team => Sys2Proof.Machine.execSuccession team s
  | .teamRetire team => Sys2Proof.Machine.execTeamRetire team s
  | .gridRetire grid => Sys2Proof.Machine.execGridRetire grid s
  | .preemptSave team => Sys2Proof.Machine.execPreemptSave team s
  | .childPlacementTimeout grid => Sys2Proof.Machine.execChildPlacementTimeout grid s
  | .telemetry stack => Sys2Proof.Machine.execTelemetry stack s
  | .scrub stack => Sys2Proof.Machine.execScrub stack s
  | .repair stack => Sys2Proof.Machine.execRepair stack s
  | .retrain stack => Sys2Proof.Machine.execRetrain stack s
  | .patrolScrub stack bad => Sys2Proof.Machine.execPatrolScrub stack bad s
  | .llclr v => Sys2Proof.Machine.execLlclr v s
  | .frameclr v => Sys2Proof.Machine.execFrameclr v s
  | .retirementGo v => Sys2Proof.Machine.execRetirementGo v s
  | .cacheFlush => Sys2Proof.Machine.execCacheFlush s
  | .frameMigrationSelect frame => Sys2Proof.Machine.execFrameMigrationSelect frame s
  | .frameDrainEnd frame => Sys2Proof.Machine.execFrameDrainEnd frame s
  | .frameCommit frame => Sys2Proof.Machine.execFrameCommit frame s
  | .homeRequestArrival req => Sys2Proof.Machine.execHomeRequestArrival req s
  | .memoryReady => Sys2Proof.Machine.execMemoryReady s
  | .stackTrainingTimeout stack => Sys2Proof.Machine.execStackTrainingTimeout stack s
  | .assign => Sys2Proof.Machine.execAssign s
  | .unassign => Sys2Proof.Machine.execUnassign s
  | .attest => Sys2Proof.Machine.execAttest s
  | .identity => Sys2Proof.Machine.execIdentity s
  | .dbgunlock => Sys2Proof.Machine.execDbgunlock s
  | .dbgUnlockComplete => Sys2Proof.Machine.execDbgUnlockComplete s
  | .save => Sys2Proof.Machine.execSave s
  | .secmodeWrite v => Sys2Proof.Machine.execSecmodeWrite v s
  | .teardown ctx => Sys2Proof.Machine.execTeardown ctx s
  | .scrubStart => Sys2Proof.Machine.execScrubStart s
  | .scrubRangeDone => Sys2Proof.Machine.execScrubRangeDone s
  | .scrubComplete => Sys2Proof.Machine.execScrubComplete s
  | .resetScrub => Sys2Proof.Machine.execResetScrub s
  | .keyStoreError slot => Sys2Proof.Machine.execKeyStoreError slot s
  | .networkMessageArrival src dst world number tagOk => Sys2Proof.Machine.execNetworkMessageArrival src dst world number tagOk s
  | .powerOn => Sys2Proof.Machine.execPowerOn s
  | .rstctlCold v => Sys2Proof.Machine.execRstctlCold v s
  | .rstctlWarm v => Sys2Proof.Machine.execRstctlWarm v s
  | .boardReset => Sys2Proof.Machine.execBoardReset s
  | .fwload v => Sys2Proof.Machine.execFwload v s
  | .firmwareLoadDone => Sys2Proof.Machine.execFirmwareLoadDone s
  | .linkTrainingDone ver lanes => Sys2Proof.Machine.execLinkTrainingDone ver lanes s
  | .linkLaneFailure => Sys2Proof.Machine.execLinkLaneFailure s
  | .companionAccess acc => Sys2Proof.Machine.execCompanionAccess acc s
  | .clusterSelfTest cluster pass => Sys2Proof.Machine.execClusterSelfTest cluster pass s
  | .mxcalSet => Sys2Proof.Machine.execMxcalSet s
  | .fullService => Sys2Proof.Machine.execFullService s
  | .clretGo v => Sys2Proof.Machine.execClretGo v s
  | .clretReadmit v => Sys2Proof.Machine.execClretReadmit v s
  | .islandCap island mhz => Sys2Proof.Machine.execIslandCap island mhz s
  | .registerWrite off v => Sys2Proof.Machine.execRegisterWrite off v s
  | .mdrainSwapEligible r => Sys2Proof.Machine.execMdrainSwapEligible r s
  | .stackTrainingDone stack => Sys2Proof.Machine.execStackTrainingDone stack s
  | .fabricCreditReturn port => Sys2Proof.Machine.execFabricCreditReturn port s

end Sys2Proof.Machine
end

