-- ==== Sys2Proof/Machine/Plan.lean ====
section
/-! DEFINITION. What a step does before it runs an instruction: the schedule of the model and the clocks. -/
namespace Sys2Proof.Machine
open Sys2Proof

/-! ### The schedule -/

/-- A message of another rank enters the device's inbox. -/
def State.takeMsg (s : State) (m : Msg) : State :=
  let (id, s) := s.fresh
  { s with msgs := s.msgs.put id { m with inbound := true, state := .sent } }

/-- A 32-bit element of an outstanding instruction's result lands early: the rest is still to be written (R80). -/
def State.landElement (s : State) (n i k : Nat) : State :=
  match s.ops.get? n with
  | none => s
  | some o =>
    match o.writes[i]? with
    | none => s
    | some w =>
      match w.elements[k]? with
      | none => s
      | some e =>
        let rest := w.elements.eraseIdx k
        { s with ops := s.ops.put n { o with writes := o.writes.take i ++ rest ++ o.writes.drop (i + 1) } }.updGroup o.owner
          fun g => g.apply e

/-- What an act does before an instruction runs, and the instruction. -/
def State.planAct (s : State) : Act → State × Option Instr
  | .issue core p late =>
    match s.pick core p with
    | none => (s, none)
    | some (r, t, _) =>
      let x := s.part core p
      { (s.putPart core p { x with last := t.slot * 32 + r.grp }) with late := late }.groupNext r
  | .retry r =>
    match s.team? r.team, s.group? r with
    | some t, some g =>
      if g.held && g.place = .pending then (s.updGroup r fun g => { g with held := false, readySince := s.ref }, none)
      else if (g.waiting || g.held) && s.teamLive t then
        match g.clause with
        | some _ => ({ s with cur := some r }, g.instr)
        | none => s.groupNext r
      else (s, none)
    | _, _ => (s, none)
  | .event i => (s, some i)
  | .compStore a bs => ({ s with comp := s.comp.writeN a bs }, none)
  | .deliver m => (s.takeMsg m, none)
  | .reply n data st =>
    ({ s with msgs := s.msgs.upd n fun m => if m.inbound || m.state ≠ .sent || m.reply.isSome then m else { m with reply := some (data, st) } },
      none)
  | .pilotStore plan p a bs =>
    (s.pilotStore plan p a bs, none)
  | .pilotLoad c p a n x => (s.pilotLoad c p a n x, none)
  | .rchDone => (s.rchDone, none)
  | .linkError n => (s.linkError n, none)
  | .sensors i t p => ({ s with islands := s.islands.upd i fun x => { x with temp := t, power := p } }, none)
  | .collRead c => (s.collRead c, none)
  | .collPeer c k shared src => (s.collPeer c k shared src, none)
  | .collPlace c => (s.collPlace c, none)
  | .collHalt c k i => (s.collHalt c k i, none)
  | .memError n => (s.lineError n, none)
  | .land n i k => (s.landElement n i k, none)
  | .form n => (s.formResult n, none)
  | .scrub n => (s.scrubUnits n, none)
  | .netSend a b w m => (s.netSend a b w m, none)
  | .copyMove c n => (s.copyRun c n, none)
  | .part n k => (s.servePart n k, none)
  | .reread n k j => (s.rereadSource n k j, none)
  | .evictL1 core line => (s.evictLine core line, none)
  | .evictPartial n =>
    match s.partials[n]? with
    | some p => (s.combine p.addr p.bytes, none)
    | none => (s, none)
  | .evictTlb n => ({ s with tlb := s.tlb.eraseIdx n }, none)
  | .idle => (s, none)

/-- What the model does with the group at hand when the schedule is empty: its partition issues, if the group is ready; else the group looks
again at the condition of the instruction it is blocked or held at (R131). -/
def State.handAct (s : State) (r : GRef) : Act :=
  match s.team? r.team, s.group? r with
  | some t, some g => if s.ready t r.grp g then .issue t.coreN (t.partOf r.grp) else .retry r
  | _, _ => .idle

/-- What a step runs: the next turn of the schedule, in the order that the spec fixes within a cycle; with none left, the group at hand, or an
idle cycle. -/
def State.plan (s : State) : State × Option Instr :=
  let s := { s.background with late := false }
  match s.sched with
  | [] =>
    match s.cur with
    | some r => (s.tick 1).planAct ((s.tick 1).handAct r)
    | none => (s.tick 1, none)
  | x :: rest =>
    let s := s.tick x.dt
    let (a, rest) := s.nextTurn x rest
    { s with sched := rest }.planAct a

end Sys2Proof.Machine
end

