-- ==== Sys2Proof/Machine/Step.lean ====
section
/-! DEFINITION. One step of the machine, and the state whose next step runs a given instruction. -/
namespace Sys2Proof.Machine
open Sys2Proof

/-- One step: the next turn of the schedule is prepared, and its instruction, if it has one, runs. -/
def step (s : State) : Host.Outcome State Fault Refusal :=
  match s.plan with
  | (s, some i) => exec i s
  | (s, none) => .next s

/-- `s` with the instruction whose bits are `w` where the next step fetches: see log entry 5. A group runs on core 0 in a live
context whose page table maps its code; the instruction is the only one of the group's open clause, or, when it is a CLAUSE
header, the word at the group's PC. -/
def State.withFetchWord (s : State) (nbits w : Nat) : State := s.withProgram (wordsOfNat nbits w)

end Sys2Proof.Machine
end

