-- ==== Sys2Proof/Safety.lean ====
section
/-! DEFINITION. What a safe run is, and the words in which statements are made: an instruction that completes, what of a group and of
the machine stays as it was. -/
namespace Sys2Proof
open Sys2Proof.Machine

/-- Every memory of the machine is in canonical form. -/
def Machine.State.memWf (s : Machine.State) : Bool := s.mem.wf && s.spad.wf && s.tmem.wf && s.comp.wf

/-- A run of `n` steps ends in a next state. -/
def safeFor (n : Nat) (s : Machine.State) : Prop := ∃ t, core.run n s = .next t

/-- The instruction `i`, of `n` words, of the issuing group `r` of team `t` takes effect: exec answers the next state in which the
machine is `s'`, the group is `g'`, and the group has gone on past the instruction. -/
def Completes (i : Instr) (s : Machine.State) (r : GRef) (t : Team) (n : Nat) (s' : Machine.State) (g' : Group) : Prop :=
  exec i s = .next (s.finish r t n (.done s' g'))

/-- The instruction `i` of the issuing group transfers control: the group's PC, mask and stack are those of `g'`, in `s'`. -/
def Jumps (i : Instr) (s : Machine.State) (r : GRef) (t : Team) (n : Nat) (s' : Machine.State) (g' : Group) : Prop :=
  exec i s = .next (s.finish r t n (.jump s' g'))

/-- The instruction `i` of the issuing group raises a fault that ends its context. -/
def Faults (i : Instr) (s : Machine.State) (r : GRef) (t : Team) (n : Nat) (f : FaultInfo) : Prop :=
  exec i s = .next (s.finish r t n (.fault f))

/-- The instruction `i` leaves its group where it is, as `g'`, in the machine `s'`; it is looked at again. -/
def Stays (i : Instr) (s : Machine.State) (r : GRef) (t : Team) (n : Nat) (s' : Machine.State) (g' : Group) : Prop :=
  exec i s = .next (s.finish r t n (.stay s' g'))

/-- Scalar registers s0 to s59 but those in `ds` hold what they held. s60 to s62 are the activity mask (R33). -/
def sameS (g h : Group) (ds : List Nat) : Prop := ∀ k, k < 60 → k ∉ ds → h.s k = g.s k

/-- Everything of a group that no instruction of the plain families writes, its vector, predicate and scalar registers left out:
flags, numeric control, random state, and the registers of traps. -/
def sameSpecial (g h : Group) : Prop :=
  h.flag = g.flag ∧ h.cvm = g.cvm ∧ h.srseed = g.srseed ∧ h.sr = g.sr ∧ h.trapvec = g.trapvec ∧ h.trapcode = g.trapcode ∧
  h.trappc = g.trappc ∧ h.trapinfo = g.trapinfo ∧ h.cfg = g.cfg ∧ (h.retired = false → h.intrap = g.intrap) ∧ h.trapmask = g.trapmask ∧
  h.trapdepth = g.trapdepth

/-- The byte memories: HBM4 and capacity tier, scratchpads, tile memory, companion memory. -/
def sameMemory (s u : Machine.State) : Prop := u.mem = s.mem ∧ u.spad = s.spad ∧ u.tmem = s.tmem ∧ u.comp = s.comp

/-- No entry of the group's divergence stack is in memory, and none has to go there (R136). -/
def stackHeld (g : Group) : Prop := g.divSpilled = 0 ∧ g.divTop.length ≤ 16

end Sys2Proof
end

