-- ==== Sys2Proof/Certificates/Slice0/Obligations.lean ====
section
/-! DEFINITION. What is claimed of the model, for the provers to prove. Each statement cites the rules of spec/ it rests on. -/
open Sys2Proof Sys2Proof.Machine

/-! ### Scalar and predicate instructions -/

/-- R33, R54, R69, R70, R144: what each scalar instruction writes to s[D]. `a` is s[A], `b` operand B with a sign-extended immediate, `z`
operand B with a zero-extended one. R144: SCLZ counts the zeros above the highest one, 64 for zero; SBFI replaces the field of s[D] that
operand B names. R66, R147: the predicate instructions. -/
def Obligations.ScalarResults : Prop :=
  (∀ (s : State) (r : GRef) (t : Team) (g : Group) (f : FmtBR), s.current = some (r, t, g) →
     let a := g.s f.a.toNat
     let b := g.opS f false
     let z := g.opS f true
     let nat : Bool := f.sub = 1
     ∀ p ∈ ([(.sadd f, a + b), (.ssub f, a - b), (.smul f, a * b),
         (.smulh f, if nat then BitVec.ofNat 64 (a.toNat * b.toNat / 2 ^ 64) else BitVec.ofInt 64 (a.toInt * b.toInt / 2 ^ 64)),
         (.sand f, a &&& z), (.sor f, a ||| z), (.sxor f, a ^^^ z), (.sandn f, a &&& ~~~b),
         (.sshl f, if z.toNat < 64 then a <<< z.toNat else 0), (.sshr f, if z.toNat < 64 then a >>> z.toNat else 0),
         (.ssra f, if z.toNat < 64 then a.sshiftRight z.toNat else if a.msb then BitVec.allOnes 64 else 0),
         (.smin f, if nat then (if a.toNat ≤ b.toNat then a else b) else if a.toInt ≤ b.toInt then a else b),
         (.smax f, if nat then (if a.toNat ≤ b.toNat then b else a) else if a.toInt ≤ b.toInt then b else a),
         (.ssel f, if (g.p f.c.toNat).bit 0 then a else b), (.smov f, b),
         (.spopc f, BitVec.ofNat 64 ((List.range 64).filter a.getLsbD).length),
         (.sbfe f, BitVec.ofNat 64 (a.toNat / 2 ^ (z.toNat % 64) % 2 ^ min (z.toNat / 256 % 128) 64)),
         (.saddr f, a + (b <<< f.mod.toNat))] : List (Instr × DWord)),
       Completes p.1 s r t f.len s (g.setS f.d.toNat p.2)) ∧
  (∀ (s : State) (r : GRef) (t : Team) (g : Group) (f : FmtBR), s.current = some (r, t, g) →
     let a := g.s f.a.toNat
     let z := g.opS f true
     let pos := z.toNat % 64
     let m : DWord := BitVec.ofNat 64 ((2 ^ min (z.toNat / 256 % 128) 64 - 1) * 2 ^ pos)
     (∃ n, Completes (.sclz f) s r t f.len s (g.setS f.d.toNat (BitVec.ofNat 64 n)) ∧ n ≤ 64 ∧ a.toNat < 2 ^ (64 - n) ∧
       (n < 64 → 2 ^ (63 - n) ≤ a.toNat)) ∧
     Completes (.sbfi f) s r t f.len s (g.setS f.d.toNat ((g.s f.d.toNat &&& ~~~m) ||| ((a <<< pos) &&& m)))) ∧
  (∀ (s : State) (r : GRef) (t : Team) (g : Group) (f : FmtBR), s.current = some (r, t, g) →
     let a := g.p f.a.toNat
     let b := g.p f.b.toNat
     let x := a &&& g.mask
     let d := f.d.toNat
     let low (n : Nat) : DWord := (a.extractLsb' (32 * n) 32).zeroExtend 64
     (∀ p ∈ ([(.pand f, a &&& b), (.por f, a ||| b), (.pxor f, a ^^^ b), (.pandn f, a &&& ~~~b), (.pnot f, ~~~a),
         (.pmovToPredicate f, (g.s (f.a.toNat + 2)).extractLsb' 0 32 ++ (g.s (f.a.toNat + 1)).extractLsb' 0 32
           ++ (g.s f.a.toNat).extractLsb' 0 32),
         (.ptest f, if (if f.sub = 0 then x ≠ 0 else if f.sub = 1 then x = g.mask else x = 0) then Mask.all else 0)]
         : List (Instr × Mask)),
       Completes p.1 s r t f.len s (g.setP d p.2)) ∧
     Completes (.pmovToScalar f) s r t f.len s (((g.setS d (low 0)).setS (d + 1) (low 1)).setS (d + 2) (low 2)) ∧
     Completes (.ballot f) s r t f.len s ((g.setS d (x.extractLsb' 0 64)).setS (d + 1) ((x.extractLsb' 64 32).zeroExtend 64)) ∧
     Completes (.ppopc f) s r t f.len s (g.setS d (BitVec.ofNat 64 ((List.range 96).filter x.getLsbD).length)) ∧
     Completes (.pfirst f) s r t f.len s (g.setS d (BitVec.ofNat 64 (((List.range 96).find? x.getLsbD).getD 96))))

/-- R145: SDIV and SREM; a zero divisor traps only with %cfg.DZT. -/
def Obligations.DivisionResults : Prop :=
  ∀ (s : State) (r : GRef) (t : Team) (g : Group) (f : FmtBR), s.current = some (r, t, g) →
    let a := g.s f.a.toNat
    let b := g.opS f false
    let nat : Bool := f.sub = 1
    let q : DWord := if b = 0 then 0xFFFFFFFFFFFFFFFF
      else if nat then BitVec.ofNat 64 (a.toNat / b.toNat) else BitVec.ofInt 64 (a.toInt.tdiv b.toInt)
    let m : DWord := if b = 0 then a
      else if nat then BitVec.ofNat 64 (a.toNat % b.toNat) else BitVec.ofInt 64 (a.toInt.tmod b.toInt)
    (¬ (b = 0 ∧ g.cfg.getLsbD 1) →
      Completes (.sdiv f) s r t f.len s (g.setS f.d.toNat q) ∧ Completes (.srem f) s r t f.len s (g.setS f.d.toNat m)) ∧
    (b = 0 → g.cfg.getLsbD 1 → ∃ pc n,
      exec (.sdiv f) s = .next (s.finish r t f.len (.trap s (g.setS f.d.toNat q) { code := .arith, detail := 0 } pc n)) ∧
      exec (.srem f) s = .next (s.finish r t f.len (.trap s (g.setS f.d.toNat m) { code := .arith, detail := 1 } pc n))) ∧
    (nat = false → a = 0x8000000000000000 → b = 0xFFFFFFFFFFFFFFFF → q = a ∧ m = 0)

/-- R85, R146: SCMP sets all 96 bits of p[D]; with D = 0 it writes nothing; a well-formed one has D at most 7. -/
def Obligations.ScmpResult : Prop :=
  ∀ (s : State) (r : GRef) (t : Team) (g : Group) (f : FmtBR), s.current = some (r, t, g) →
    let a := g.s f.a.toNat
    let b := g.opS f false
    let holds : Bool := match f.sub.toNat with
      | 0 => a = b | 1 => a ≠ b | 2 => a.toInt < b.toInt | 3 => a.toInt ≤ b.toInt | 4 => b.toInt < a.toInt | 5 => b.toInt ≤ a.toInt
      | 6 => a.toNat < b.toNat | 7 => a.toNat ≤ b.toNat | 8 => b.toNat < a.toNat | _ => b.toNat ≤ a.toNat
    (f.d.toNat = 0 → Completes (.scmp f) s r t f.len s g) ∧
    (f.d.toNat ≠ 0 → ∃ g', Completes (.scmp f) s r t f.len s g' ∧
      g' = { g with preg := g.preg.setIfInBounds f.d.toNat (if holds then Mask.all else 0) }) ∧
    (wellFormed (.scmp f) = true → f.d.toNat ≤ 7)

/-- R33, R34: the registers that are hard-wired, and what a write of a scalar or predicate register leaves. R34, R66, R162: a write of a vector
register: each selected lane takes its value, and every other lane and register stays. -/
def Obligations.RegisterFile : Prop :=
  (∀ (g : Group) (d k : Nat) (x : DWord) (m : Mask),
     (g.setS d x).s 63 = 0 ∧ (g.setP d m).p 0 = BitVec.allOnes 96 ∧ g.setS 63 x = g ∧ g.setP 0 m = g ∧
     (d < 60 → (g.setS d x).s d = x) ∧
     (60 ≤ d → d < 63 → (g.setS d x).s d = ((x.extractLsb' 0 32 &&& ~~~(g.exited.extractLsb' (32 * (d - 60)) 32)).zeroExtend 64)) ∧
     (k ≠ d → (g.setS d x).s k = g.s k) ∧ (g.setS d x).vreg = g.vreg ∧ (g.setS d x).preg = g.preg ∧
     (0 < d → d < 8 → (g.setP d m).p d = m) ∧ (k ≠ d → (g.setP d m).p k = g.p k) ∧
     (g.setP d m).sreg = g.sreg ∧ (g.setP d m).vreg = g.vreg ∧ sameSpecial g (g.setS d x) ∧ sameSpecial g (g.setP d m)) ∧
  (∀ (g : Group) (d k l : Nat) (m : Mask) (x : Nat → Word), d < 64 → l < 96 →
     (((g.setV d m x).v d).lane l = if m.getLsbD l then x l else (g.v d).lane l) ∧ (k ≠ d → (g.setV d m x).v k = g.v k) ∧
     (g.setV d m x).sreg = g.sreg ∧ (g.setV d m x).preg = g.preg ∧ sameSpecial g (g.setV d m x))

/-- R63, R75: inside a clause, with a lane active, an instruction that is not the last of its clause moves its group to the next slot and
changes nothing else. R137: what an instruction that has taken effect leaves of the machine, whatever path its group settles on. Only its
own group changes; a spilled stack is the one thing that can make it write memory (R136). Where the spec is silent it states the model's
choice: log entry 71. -/
def Obligations.NextSlot : Prop :=
  (∀ (s : State) (r : GRef) (t : Team) (g' : Group) (n : Nat) (c : OpenClause), g'.clause = some c → c.slot + 1 < c.count → g'.mask ≠ 0 →
     s.finish r t n (.done s g') =
       s.putGroup r { (g'.unblock s.ref) with clause := some { c with slot := c.slot + 1, off := c.off + n } }) ∧
  (∀ (s : State) (r : GRef) (t : Team) (g g' : Group) (n : Nat), s.current = some (r, t, g) →
     let u := s.finish r t n (.done s g')
     (∃ h, u.group? r = some h ∧ sameS g' h [] ∧ h.vreg = g'.vreg ∧ h.preg = g'.preg ∧ sameSpecial g' h) ∧
     (∀ q, q ≠ r → u.group? q = s.group? q) ∧ u.spad = s.spad ∧ u.tmem = s.tmem ∧ u.comp = s.comp ∧
     (stackHeld g' → u.mem = s.mem))

/-- R144 to R147: what the scalar and predicate instructions leave unchanged: every register but the destinations, the flags, the special
registers, every other group and every byte of memory. A division by zero that traps changes the trap registers too (R154). -/
def Obligations.ScalarFrame : Prop :=
  ∀ (s u : State) (r : GRef) (t : Team) (g : Group) (f : FmtBR), s.current = some (r, t, g) → stackHeld g →
    (∀ p ∈ ([(.sadd f, 1), (.ssub f, 1), (.smul f, 1), (.smulh f, 1), (.sand f, 1), (.sor f, 1), (.sxor f, 1), (.sandn f, 1), (.sshl f, 1),
        (.sshr f, 1), (.ssra f, 1), (.smin f, 1), (.smax f, 1), (.ssel f, 1), (.smov f, 1), (.spopc f, 1), (.sclz f, 1), (.sbfe f, 1),
        (.sbfi f, 1), (.saddr f, 1), (.ppopc f, 1), (.pfirst f, 1), (.ballot f, 2), (.pmovToScalar f, 3)] : List (Instr × Nat)),
      exec p.1 s = .next u →
        (∃ h, u.group? r = some h ∧ sameS g h (List.range' f.d.toNat p.2) ∧ h.vreg = g.vreg ∧ h.preg = g.preg ∧ sameSpecial g h) ∧
        (∀ q, q ≠ r → u.group? q = s.group? q) ∧ sameMemory s u) ∧
    (∀ i ∈ ([.sdiv f, .srem f] : List Instr), exec i s = .next u →
      (∃ h, u.group? r = some h ∧ sameS g h [f.d.toNat] ∧ h.vreg = g.vreg ∧ h.preg = g.preg ∧ h.flag = g.flag ∧ h.cvm = g.cvm ∧
        h.srseed = g.srseed ∧ h.sr = g.sr ∧ h.trapvec = g.trapvec ∧ h.cfg = g.cfg ∧
        (¬ (g.opS f false = 0 ∧ g.cfg.getLsbD 1) → sameSpecial g h)) ∧
      (∀ q, q ≠ r → u.group? q = s.group? q) ∧ sameMemory s u) ∧
    (∀ i ∈ ([.scmp f, .pand f, .por f, .pxor f, .pandn f, .pnot f, .pmovToPredicate f, .ptest f] : List Instr),
      exec i s = .next u →
        (∃ h, u.group? r = some h ∧ sameS g h [] ∧ h.vreg = g.vreg ∧ (∀ k, k ≠ f.d.toNat → h.p k = g.p k) ∧ sameSpecial g h) ∧
        (∀ q, q ≠ r → u.group? q = s.group? q) ∧ sameMemory s u)

/-! ### Vector instructions -/

/-- R39, R66, R67, R162, R166: every vector integer instruction applies its operation to each element of v[A], operand B and v[C] in the
selected lanes of v[D], and leaves the other lanes. `sg` tells a signed type; `w` is the element width. R85, R166 to R169: the other vector
integer instructions, lane by lane: VCLZ, VCMP, VSEL, VMOV, VBFE, VBFI and VHASH. -/
def Obligations.VectorIntegerResults : Prop :=
  (∀ (s : State) (r : GRef) (t : Team) (g : Group) (f : FmtBR), s.current = some (r, t, g) →
     let sat : Bool := f.w1.sat = 1
     let val (w : Nat) (sg : Bool) (x : BitVec w) : Int := if sg then x.toInt else x.toNat
     let clamp (w : Nat) (sg : Bool) (x : Int) : BitVec w :=
       if sg then BitVec.ofInt w (max (-(2 ^ (w - 1))) (min x (2 ^ (w - 1) - 1))) else BitVec.ofInt w (max 0 (min x (2 ^ w - 1)))
     ∀ p ∈ ([(.vadd f, false, fun w sg a b _ => if sat then clamp w sg (val w sg a + val w sg b) else a + b),
         (.vsub f, false, fun w sg a b _ => if sat then clamp w sg (val w sg a - val w sg b) else a - b),
         (.vmul f, false, fun _ _ a b _ => a * b),
         (.vmulh f, false, fun w sg a b _ => BitVec.ofInt w (val w sg a * val w sg b / 2 ^ w)),
         (.vmad f, false, fun _ _ a b c => a * b + c), (.vand f, false, fun _ _ a b _ => a &&& b),
         (.vor f, false, fun _ _ a b _ => a ||| b), (.vxor f, false, fun _ _ a b _ => a ^^^ b),
         (.vandn f, false, fun _ _ a b _ => a &&& ~~~b),
         (.vshl f, true, fun w _ a b _ => if w ≤ b.toNat then 0 else a <<< b.toNat),
         (.vshr f, true, fun w _ a b _ => if w ≤ b.toNat then 0 else a >>> b.toNat),
         (.vsra f, true, fun w _ a b _ => if w ≤ b.toNat then (if a.msb then BitVec.allOnes w else 0) else a.sshiftRight b.toNat),
         (.vmin f, false, fun w sg a b _ => if val w sg a ≤ val w sg b then a else b),
         (.vmax f, false, fun w sg a b _ => if val w sg a ≤ val w sg b then b else a),
         (.vabs f, false, fun w sg a _ _ => if !sg || !a.msb then a else if sat then clamp w true (-a.toInt) else -a),
         (.vneg f, false, fun w sg a _ _ => if sat then clamp w sg (-(val w sg a)) else -a),
         (.vpopc f, false, fun w _ a _ _ => BitVec.ofNat w ((List.range w).filter a.getLsbD).length)]
         : List (Instr × Bool × ElemOp)),
       Completes p.1 s r t f.len s (g.setV f.d.toNat (g.sel f) fun l =>
         mapElems p.2.2 f.ty.toNat ((g.v f.a.toNat).lane l) (g.opV f p.2.1 l) ((g.v f.c.toNat).lane l))) ∧
  (∀ (s : State) (r : GRef) (t : Team) (g : Group) (f : FmtBR), s.current = some (r, t, g) →
     let a (l : Nat) : Word := (g.v f.a.toNat).lane l
     let c (l : Nat) : Word := (g.v f.c.toNat).lane l
     let b := g.opV f false
     let z := g.opV f true
     let m := g.sel f
     let d := f.d.toNat
     let field (x : Word) : Word := BitVec.ofNat 32 ((2 ^ min (x.toNat / 256 % 64) 32 - 1) * 2 ^ (x.toNat % 32))
     Completes (.vclz f) s r t f.len s (g.setV d m fun l =>
       mapElems (fun w _ x _ _ => BitVec.ofNat w (if x = 0 then w else w - 1 - x.toNat.log2)) f.ty.toNat (a l) (b l) (c l)) ∧
     (∃ x : Mask, Completes (.vcmp f) s r t f.len s (g.setP d x) ∧
       ∀ l, l < 96 → x.getLsbD l = if m.getLsbD l then condOf f.sub.toNat (a l) (b l) else (g.p d).getLsbD l) ∧
     Completes (.vsel f) s r t f.len s (g.setV d m fun l => if (g.p f.c.toNat).bit l then a l else b l) ∧
     Completes (.vmov f) s r t f.len s (g.setV d m b) ∧
     Completes (.vbfe f) s r t f.len s (g.setV d m fun l =>
       let n := min ((z l).toNat / 256 % 64) 32
       let x := (a l).toNat / 2 ^ ((z l).toNat % 32) % 2 ^ n
       if n = 0 then 0
       else if f.ty = 0 && x.testBit (n - 1) then BitVec.ofInt 32 ((x : Int) - 2 ^ n) else BitVec.ofNat 32 x) ∧
     Completes (.vbfi f) s r t f.len s (g.setV d m fun l =>
       (c l &&& ~~~(field (z l))) ||| ((a l <<< ((z l).toNat % 32)) &&& field (z l))) ∧
     Completes (.vhash f) s r t f.len s (g.setV d m fun l => mix32 (a l)))

/-- R41, R43, R60, R170 to R172, R174: the float instructions, element by element, with one rounding in the format of TYPE. `x` and `y` are the
elements of operands A and B after ABS and NEG, `w` that of v[C]. R78, R79, R173: an SFU instruction starts unless its flag is full: it is
recorded as outstanding with the result of every selected lane, its flag's count rises by one, and no register changes before its completion
point. With no lane selected it has no effect. Where the spec is silent it states the model's choice: log entries 6, 7. -/
def Obligations.VectorFloatResults : Prop :=
  (∀ (s : State) (r : GRef) (t : Team) (g : Group) (f : FmtBR), s.current = some (r, t, g) →
     let fm := tyFmt f.fty
     let x := fopA f g
     let y := fopB f g
     let w := fopC f g f.fty
     let elem (l k : Nat) : Nat := fElem f.fty k ((g.v f.a.toNat).lane l)
     let p (l k : Nat) : FVal := fm.unpack (fm.pack .rne 0 (x l k))
     let q (l k : Nat) : FVal := fm.unpack (fm.pack .rne 0 (y l k))
     let sum := f.fsum
     (∀ p ∈ ([(.vfadd f, fun l k => sum [x l k, y l k]), (.vfsub f, fun l k => sum [x l k, (y l k).neg]),
         (.vfmul f, fun l k => (x l k).mul (y l k)), (.vfma f, fun l k => sum [(x l k).mul (y l k), w l k])]
         : List (Instr × (Nat → Nat → FVal))),
       Completes p.1 s r t f.len s (g.setV f.d.toNat (g.sel f) fun l => packLane f.fty fun k => fm.pack f.rmode f.satCode (p.2 l k))) ∧
     Completes (.vfdot2 f) s r t f.len s (g.setV f.d.toNat (g.sel f) fun l => BitVec.ofNat 32
       (Fmt.fp32.pack f.rmode f.satCode (sum [(x l 0).mul (y l 0), (x l 1).mul (y l 1), fopC f g 6 l 0]))) ∧
     (Completes (.vfmin f) s r t f.len s (g.setV f.d.toNat (g.sel f) fun l => packLane f.fty fun k => fm.pack .rne f.satCode
         (if p l k = .nan ∨ q l k = .nan then fm.unpack fm.canon else if (p l k).lt (q l k) then p l k else if (q l k).lt (p l k) then q l k
           else if (p l k).isNeg then p l k else q l k)) ∧
       Completes (.vfmax f) s r t f.len s (g.setV f.d.toNat (g.sel f) fun l => packLane f.fty fun k => fm.pack .rne f.satCode
         (if p l k = .nan ∨ q l k = .nan then fm.unpack fm.canon else if (p l k).lt (q l k) then q l k else if (q l k).lt (p l k) then p l k
           else if (p l k).isNeg then q l k else p l k))) ∧
     (∃ c : Mask, Completes (.vfcmp f) s r t f.len s (g.setP f.d.toNat c) ∧
       ∀ l, l < 96 → c.getLsbD l = if (g.sel f).getLsbD l then fcond f.sub.toNat (x l 0) (y l 0) else (g.p f.d.toNat).getLsbD l) ∧
     Completes (.vfclass f) s r t f.len s (g.setV f.d.toNat (g.sel f) fun l => packLane f.fty fun k => fclass fm (elem l k)) ∧
     Completes (.vfrnd f) s r t f.len s (g.setV f.d.toNat (g.sel f) fun l => packLane f.fty fun k =>
       fm.pack f.rmode f.satCode (match fm.unpack (elem l k) with
         | .fin n m e => .fin n (toInteger f.rmode n m e).natAbs 0
         | v => v)) ∧
     Completes (.vfscale f) s r t f.len s (g.setV f.d.toNat (g.sel f) fun l => packLane f.fty fun k =>
       fm.pack f.rmode f.satCode ((fm.unpack (elem l k)).scale (max (-2000) (min 2000 (scaleB f g l k)))))) ∧
  (∀ (s : State) (r : GRef) (t : Team) (g : Group) (f : FmtBR), s.current = some (r, t, g) →
     let fs : Bool := f.w1.fs = 1
     ∀ p ∈ ([(.vfrcp f, 0), (.vfrsq f, 1), (.vfsqrt f, 2), (.vfexp2 f, 3), (.vflog2 f, 4), (.vfsin f, 5), (.vfcos f, 6), (.vftanh f, 7)]
         : List (Instr × Nat)),
       let ws := (g.sel f).lanes.map fun l => RegWrite.v f.d.toNat l (packLane f.fty fun k =>
         crFun p.2 (tyFmt f.fty) f.satCode (fElem f.fty k ((g.v f.a.toNat).lane l)))
       (g.flagFull fs = true → Stays p.1 s r t f.len s g) ∧
       (g.flagFull fs = false → ws = [] → Completes p.1 s r t f.len s g) ∧
       (g.flagFull fs = false → ws ≠ [] → ∃ id s' o, Completes p.1 s r t f.len s' (g.raiseFlag fs) ∧ s'.ops.get? id = some o ∧
         o.owner = r ∧ o.flag = g.flagOf fs ∧ o.writes = ws ∧ o.need = [] ∧ s'.mem = s.mem ∧ s'.teams = s.teams))

/-- R38, R43, R45, R46, R50, R51, R175 to R179: the conversions, element by element. VFCVT and VICVT convert the G elements of the part that SEL
names; VFPACK packs two values, or quantises each beat with a selected lane into one block. What is not written keeps its value. A
stochastic mode rounds element position i under the lane's state after i + 1 advances; the instruction then leaves every lane state advanced
once for each position, and adds their number to STEP. Where the spec is silent it states the model's choice: log entry 16. -/
def Obligations.ConversionResults : Prop :=
  ∀ (s : State) (r : GRef) (t : Team) (g : Group) (f : FmtBR), s.current = some (r, t, g) →
    let m := g.sel f
    let d := f.d.toNat
    let mod := f.mod.toNat % 8
    let el (w k : Nat) (x : Word) : Nat := x.toNat / 2 ^ (w * k) % 2 ^ w
    let a (l : Nat) : Word := (g.v f.a.toNat).lane l
    let b (l : Nat) : Word := if f.sb = 1 then (g.s f.b.toNat).extractLsb' 0 32 else (g.v f.b.toNat).lane l
    -- mode, saturation and random values
    let code (dst : ElemTy) : Nat :=
      if f.w1.rnd ≠ 0 then f.w1.rnd.toNat - 1 else (dst.cvm.map fun n => g.cvm.toNat / 2 ^ n % 8).getD 0
    let sat (dst : ElemTy) : Nat := if f.w1.sat = 1 then 1 else (dst.cvm.map fun n => g.cvm.toNat / 2 ^ (n + 3) % 4).getD 0
    let advance (x : Word) : Word :=
      let y := x ^^^ (x <<< 13)
      let z := y ^^^ (y >>> 17)
      z ^^^ (z <<< 5)
    let mode (dst : ElemTy) (l i : Nat) : RMode := match code dst with
      | 0 => .rne | 1 => .rtz | 2 => .rdn | 3 => .rup | 4 => .rna | _ => .stoch (Nat.repeat advance (i + 1) (g.sr.lane l))
    -- Convert
    let fit (w : Nat) (sg : Bool) (sat : Nat) (x : Int) : Nat :=
      let lo : Int := if sg then -(2 ^ (w - 1)) else 0
      let hi : Int := if sg then 2 ^ (w - 1) - 1 else 2 ^ w - 1
      ((if sat = 0 then x else max lo (min hi x)) % 2 ^ w).toNat
    let convert (src dst : ElemTy) (m : RMode) (x : Nat) : Nat := (match src, dst with
      | .fp p _, .fp q _ => if p = q then (if p.unpack x = .nan then p.canon else x) else q.pack m (sat dst) (p.unpack x)
      | .fp p _, .int w sg _ => (match p.unpack x with
        | .nan => if sat dst = 2 && sg then 2 ^ (w - 1) else 0
        | .inf n => if sat dst = 0 then 0 else if n then (if sg then 2 ^ (w - 1) else 0) else if sg then 2 ^ (w - 1) - 1 else 2 ^ w - 1
        | .fin n k e => fit w sg (sat dst) (toInteger m n k e))
      | .int w sg _, .fp q _ =>
        let n : Int := if sg then (BitVec.ofNat w x).toInt else x
        q.round m (sat dst) (n < 0) n.natAbs 0
      | .int w sg _, .int v sh _ => fit v sh (sat dst) (if sg then (BitVec.ofNat w x).toInt else x)) % 2 ^ dst.bits
    -- what every conversion of n positions leaves
    let rest (dst : ElemTy) (n : Nat) (h : Group) : Prop :=
      h.sreg = g.sreg ∧ h.preg = g.preg ∧ (∀ k, k ≠ d → h.v k = g.v k) ∧
      (code dst ≠ 5 → h.sr = g.sr ∧ h.srseed = g.srseed) ∧
      (code dst = 5 → (∀ l, l < 96 → h.sr.lane l = Nat.repeat advance n (g.sr.lane l)) ∧
        h.srseed.extractLsb' 0 32 = g.srseed.extractLsb' 0 32 + BitVec.ofNat 32 n ∧
        h.srseed.extractLsb' 32 32 = g.srseed.extractLsb' 32 32)
    let unselected (h : Group) : Prop := ∀ l, l < 96 → m.bit l = false → (h.v d).lane l = (g.v d).lane l
    let converts (i : Instr) (src dst : ElemTy) : Prop :=
      let n := min (32 / src.bits) (32 / dst.bits)
      let part := f.mod.toNat / 8 * n
      ∃ h, Completes i s r t f.len s h ∧ rest dst n h ∧ unselected h ∧
        (∀ l i, l < 96 → m.bit l = true → i < n → (32 / dst.bits ≤ 32 / src.bits →
            el dst.bits i ((h.v d).lane l) = convert src dst (mode dst l i) (el src.bits (part + i) (a l))) ∧
          (32 / src.bits < 32 / dst.bits →
            el dst.bits (part + i) ((h.v d).lane l) = convert src dst (mode dst l i) (el src.bits i (a l)))) ∧
        (∀ l e, l < 96 → e < 32 / dst.bits → 32 / src.bits < 32 / dst.bits → (e < part ∨ part + n ≤ e) →
          el dst.bits e ((h.v d).lane l) = el dst.bits e ((g.v d).lane l))
    let packs (dst : ElemTy) (k : Nat) : Prop :=
      ∃ h, Completes (.vfpack f) s r t f.len s h ∧ rest dst 2 h ∧ unselected h ∧
        (∀ l, l < 96 → m.bit l = true → el dst.bits k ((h.v d).lane l) = convert tyF32 dst (mode dst l 0) (a l).toNat ∧
          el dst.bits (k + 1) ((h.v d).lane l) = convert tyF32 dst (mode dst l 1) (b l).toNat) ∧
        (∀ l e, l < 96 → e < 32 / dst.bits → e ≠ k → e ≠ k + 1 → el dst.bits e ((h.v d).lane l) = el dst.bits e ((g.v d).lane l))
    let quantises (dst : ElemTy) (fm : Fmt) : Prop :=
      ∃ h, Completes (.vfpack f) s r t f.len s h ∧ rest dst 1 h ∧ ∀ j, j < 3 →
        ((∀ k, k < 32 → m.bit (32 * j + k) = false) → ∀ k, k < 32 → (h.v d).lane (32 * j + k) = (g.v d).lane (32 * j + k)) ∧
        ((∃ k, k < 32 ∧ m.bit (32 * j + k) = true) →
          let block := mxQuant fm (fun k => mode dst (32 * j + k) 0) (sat dst)
            ((List.range 32).map fun k => if m.bit (32 * j + k) then (a (32 * j + k)).toNat else 0)
          let bits := (List.range fm.bits).foldl (fun x k => x + ((h.v d).lane (32 * j + k)).toNat * 2 ^ (32 * k)) 0
          (∀ k, k < 32 → bits / 2 ^ (fm.bits * k) % 2 ^ fm.bits = block.2[k]?.getD 0 % 2 ^ fm.bits) ∧
          (∀ k, fm.bits ≤ k → k < 31 → (h.v d).lane (32 * j + k) = 0) ∧
          (h.v d).lane (32 * j + 31) = BitVec.ofNat 32 block.1)
    (wellFormed (.vfcvt f) = true → ∀ p ∈ ([(4, tyE4m3), (5, tyE5m2), (6, tyF32), (7, tyFp16), (8, tyBf16)] : List (Nat × ElemTy)),
      ∀ q ∈ ([(0, tyF32), (1, tyFp16), (2, tyBf16), (3, tyE4m3), (4, tyE5m2)] : List (Nat × ElemTy)),
        f.ty.toNat = p.1 → mod = q.1 → converts (.vfcvt f) p.2 q.2) ∧
    (wellFormed (.vicvt f) = true → ∀ p ∈ ([(0, tyInt32 true), (1, tyInt32 false), (2, tyInt16 true), (3, tyInt16 false), (4, tyInt8 true),
        (5, tyInt8 false), (6, tyF32), (7, tyFp16), (8, tyBf16)] : List (Nat × ElemTy)),
      ∀ q ∈ ([(0, tyInt32 true), (1, tyInt32 false), (2, tyInt16 true), (3, tyInt16 false), (4, tyInt8 true), (5, tyInt8 false), (6, tyF32),
        (7, tyBf16)] : List (Nat × ElemTy)),
        f.ty.toNat = p.1 → mod = q.1 → converts (.vicvt f) p.2 q.2) ∧
    (wellFormed (.vfpack f) = true →
      (mod = 0 → f.ty = 7 → packs tyFp16 0) ∧ (mod = 0 → f.ty = 8 → packs tyBf16 0) ∧
      (mod = 1 → packs tyE4m3 (2 * (f.mod.toNat / 8))) ∧ (mod = 2 → packs tyE5m2 (2 * (f.mod.toNat / 8))) ∧
      (mod = 3 → quantises tyE4m3 .e4m3) ∧ (mod = 4 → quantises tyE5m2 .e5m2) ∧ (mod = 5 → quantises (.fp .e3m2 (some 20)) .e3m2) ∧
      (mod = 6 → quantises (.fp .e2m3 (some 25)) .e2m3) ∧ (mod = 7 → quantises (.fp .e2m1 (some 30)) .e2m1))

/-- R58, R59, R163, R180 to R185: the cross-lane instructions read all lanes of their sources before they write. VRED combines the selected
lanes, and VSCAN, for each selected lane, those up to it, in lane order for the integer types and by the fixed tree for FP32. VMATCH gives
every selected lane the number of the selected lanes whose keys match its own and the lowest of them, and marks that one in p[C]. -/
def Obligations.CrossLaneResults : Prop :=
  ∀ (s : State) (r : GRef) (t : Team) (g : Group) (f : FmtBR), s.current = some (r, t, g) →
    let a := g.v f.a.toNat
    let m := g.sel f
    let d := f.d.toNat
    let src := m.lanes.map a.lane
    let nat : Bool := f.ty = 1
    let combine (keep : Nat → Bool) : Word := BitVec.ofNat 32 (if f.ty = 6 then redLanes f a keep
      else (List.range 96).foldl (fun x l => if keep l then redOp f.sub.toNat nat 4 x (a.lane l).toNat else x) (redIdentity f.sub.toNat nat 4))
    let x := combine m.bit
    let hi := g.v (f.a.toNat + 1)
    let equal (i j : Nat) : Bool := if f.sub = 1 then fcond 0 (f32v (a.lane i).toNat) (f32v (a.lane j).toNat)
      else a.lane i = a.lane j && (f.mod ≠ 1 || hi.lane i = hi.lane j)
    let set (l : Nat) : List Nat := m.lanes.filter fun j => j = l || equal j l
    Completes (.vshuf f) s r t f.len s (g.setV d m fun l =>
      let b := g.opX f l
      match f.sub.toNat with
      | 0 => if b < 96 then a.lane b else 0
      | 1 => if l ^^^ b < 96 then a.lane (l ^^^ b) else a.lane l
      | 2 => if b ≤ l then a.lane (l - b) else a.lane l
      | _ => if l + b < 96 then a.lane (l + b) else a.lane l) ∧
    Completes (.vred f) s r t f.len s (g.setS d (if f.ty = 0 then x.signExtend 64 else x.zeroExtend 64)) ∧
    Completes (.vscan f) s r t f.len s
      (g.setV d m fun l => combine fun j => m.bit j && (if f.mod.getLsbD 0 then decide (j < l) else decide (j ≤ l))) ∧
    (∃ p : Mask, Completes (.vmatch f) s r t f.len s ((g.setV d m fun l => BitVec.ofNat 32 ((set l).length * 2 ^ 16 + (set l).headD l)).setP
        f.c.toNat p) ∧
      ∀ l, l < 96 → p.getLsbD l = if m.getLsbD l then decide ((set l).headD l = l) else (g.p f.c.toNat).getLsbD l) ∧
    Completes (.vcompact f) s r t f.len s (g.setV d (Mask.build fun l => l < src.length) fun l => src[l]?.getD 0) ∧
    Completes (.vexpand f) s r t f.len s (g.setV d m fun l => a.lane (m.lanes.filter (· < l)).length)

/-- R181: VBCAST gives every selected lane a[n], or 0 when n is 96 or more; VROT gives lane L a[(L + n) mod 96]. -/
def Obligations.BroadcastAndRotate : Prop :=
  ∀ (s : State) (r : GRef) (t : Team) (g : Group) (f : FmtBR), s.current = some (r, t, g) →
    let a := g.v f.a.toNat
    let n : Nat := match f.tail.lit? with
      | some x => (x.extractLsb' 0 32).toNat
      | none => if f.immSel then (f.w2.imm.signExtend 32).toNat
        else if f.sb = 1 then ((g.s f.b.toNat).extractLsb' 0 32).toNat else ((g.v f.b.toNat).lane 0).toNat
    Completes (.vbcast f) s r t f.len s (g.setV f.d.toNat (g.sel f) fun _ => if n < 96 then a.lane n else 0) ∧
    Completes (.vrot f) s r t f.len s (g.setV f.d.toNat (g.sel f) fun l => a.lane ((l + n) % 96))

/-- R73, R74, R164: a pair gives each destination what the single instruction with the same operands gives it: both operations read the state
before the pair, and neither sees what the other writes. An SFU operation Y is recorded as outstanding on SETA, with the function of every
selected lane of v[A] as it was; the pair is stalled while that flag is full. -/
def Obligations.PairResult : Prop :=
  ∀ (s : State) (r : GRef) (t : Team) (g : Group) (f : FmtPair), s.current = some (r, t, g) → wellFormed (.pair f) = true →
    let x := f.fx
    let y := f.fy
    let fm := tyFmt y.fty
    let ws (n : Nat) : List RegWrite := (g.sel y).lanes.map fun l => RegWrite.v y.d.toNat l (packLane y.fty fun k =>
      crFun n fm y.satCode (fElem y.fty k ((g.v y.a.toNat).lane l)))
    ∀ p ∈ ([(0x30, .vadd x), (0x31, .vsub x), (0x32, .vmul x), (0x33, .vmulh x), (0x34, .vmad x), (0x48, .vfadd x), (0x49, .vfsub x),
        (0x4A, .vfmul x), (0x4B, .vfma x), (0x5A, .vfdot2 x)] : List (Nat × Instr)), f.x.op.toNat = p.1 →
      ∃ gx, Completes p.2 s r t x.len s gx ∧
        (∀ q ∈ ([(0x35, .vand y), (0x36, .vor y), (0x37, .vxor y), (0x38, .vandn y), (0x39, .vshl y), (0x3A, .vshr y), (0x3B, .vsra y),
            (0x3C, .vmin y), (0x3D, .vmax y), (0x3E, .vabs y), (0x3F, .vneg y), (0x40, .vcmp y), (0x41, .vsel y), (0x42, .vmov y),
            (0x43, .vpopc y), (0x44, .vclz y), (0x45, .vbfe y), (0x46, .vbfi y), (0x47, .vhash y), (0x4E, .vfcmp y), (0x58, .vfcvt y),
            (0x59, .vicvt y), (0x60, .vshuf y), (0x67, .vrot y)] : List (Nat × Instr)), f.y.op.toNat = q.1 →
          ∃ gy h, Completes q.2 s r t y.len s gy ∧ Completes (.pair f) s r t 3 s h ∧
            (∀ k, h.v k = if k = x.d.toNat then gx.v k else gy.v k) ∧ h.preg = gy.preg ∧ h.sr = gy.sr ∧ h.srseed = gy.srseed ∧
            h.sreg = g.sreg ∧ h.flag = g.flag) ∧
        (∀ n, n < 8 → f.y.op.toNat = 0x50 + n →
          (g.flagFull false = true → Stays (.pair f) s r t 3 s g) ∧
          (g.flagFull false = false → ∃ s' h, Completes (.pair f) s r t 3 s' h ∧ h.vreg = gx.vreg ∧ h.sreg = g.sreg ∧ h.preg = g.preg ∧
            s'.mem = s.mem ∧ s'.teams = s.teams ∧ (ws n = [] → s' = s ∧ h.flag = g.flag) ∧
            (ws n ≠ [] → h.flag = (g.raiseFlag false).flag ∧ ∃ id o, s'.ops.get? id = some o ∧ o.owner = r ∧ o.flag = g.flagOf false ∧
              o.writes = ws n ∧ o.need = [])))

/-- R74, R162 to R185: what the vector instructions leave unchanged: the lanes that are not selected, every other register, the flags and
special registers, every other group and every byte of memory. An SFU instruction changes nothing but the count of its flag as it issues,
and a pair nothing but the two destinations, the flag of an SFU operation, and the random state. -/
def Obligations.VectorFrame : Prop :=
  ∀ (s u : State) (r : GRef) (t : Team) (g : Group) (f : FmtBR), s.current = some (r, t, g) → stackHeld g →
    let d := f.d.toNat
    let rest : Prop := (∀ q, q ≠ r → u.group? q = s.group? q) ∧ sameMemory s u
    (∀ i ∈ ([.vadd f, .vsub f, .vmul f, .vmulh f, .vmad f, .vand f, .vor f, .vxor f, .vandn f, .vshl f, .vshr f, .vsra f, .vmin f, .vmax f,
        .vabs f, .vneg f, .vsel f, .vmov f, .vpopc f, .vclz f, .vbfe f, .vbfi f, .vhash f, .vfadd f, .vfsub f, .vfmul f, .vfma f, .vfdot2 f,
        .vfmin f, .vfmax f, .vfclass f, .vfrnd f, .vfscale f, .vshuf f, .vbcast f, .vrot f, .vscan f, .vexpand f, .ateval f] : List Instr),
      exec i s = .next u → rest ∧ ∃ h, u.group? r = some h ∧ sameS g h [] ∧ h.preg = g.preg ∧ sameSpecial g h ∧
        (∀ k, k ≠ d → h.v k = g.v k) ∧ ∀ l, (g.sel f).getLsbD l = false → (h.v d).lane l = (g.v d).lane l) ∧
    (∀ i ∈ ([.vcmp f, .vfcmp f] : List Instr),
      exec i s = .next u → rest ∧ ∃ h, u.group? r = some h ∧ sameS g h [] ∧ h.vreg = g.vreg ∧ sameSpecial g h ∧
        (∀ k, k ≠ d → h.p k = g.p k) ∧ ∀ l, (g.sel f).getLsbD l = false → (h.p d).getLsbD l = (g.p d).getLsbD l) ∧
    (exec (.vred f) s = .next u → rest ∧ ∃ h, u.group? r = some h ∧ sameS g h [d] ∧ h.vreg = g.vreg ∧ h.preg = g.preg ∧ sameSpecial g h) ∧
    (exec (.vcompact f) s = .next u → rest ∧ ∃ h, u.group? r = some h ∧ sameS g h [] ∧ h.preg = g.preg ∧ sameSpecial g h ∧
      ∀ k, k ≠ d → h.v k = g.v k) ∧
    (exec (.vmatch f) s = .next u → rest ∧ ∃ h, u.group? r = some h ∧ sameS g h [] ∧ sameSpecial g h ∧ (∀ k, k ≠ d → h.v k = g.v k) ∧
      (∀ k, k ≠ f.c.toNat → h.p k = g.p k) ∧ ∀ l, (g.sel f).getLsbD l = false →
        (h.v d).lane l = (g.v d).lane l ∧ (h.p f.c.toNat).getLsbD l = (g.p f.c.toNat).getLsbD l) ∧
    (let traps (h : Group) : Prop := h.trapvec = g.trapvec ∧ h.trapcode = g.trapcode ∧ h.trappc = g.trappc ∧ h.trapinfo = g.trapinfo ∧
        h.cvm = g.cvm ∧ h.cfg = g.cfg;
      (∀ i ∈ ([.vfrcp f, .vfrsq f, .vfsqrt f, .vfexp2 f, .vflog2 f, .vfsin f, .vfcos f, .vftanh f] : List Instr),
        exec i s = .next u → rest ∧ ∃ h, u.group? r = some h ∧ sameS g h [] ∧ h.vreg = g.vreg ∧ h.preg = g.preg ∧ traps h ∧
          h.srseed = g.srseed ∧ h.sr = g.sr ∧ ∀ n, g.flagOf (f.w1.fs = 1) ≠ some n → h.flagCount n = g.flagCount n) ∧
      ∀ p : FmtPair, exec (.pair p) s = .next u → rest ∧ ∃ h, u.group? r = some h ∧ sameS g h [] ∧ traps h ∧
        (∀ k, k ≠ p.x.d.toNat → k ≠ p.y.d.toNat → h.v k = g.v k) ∧ (∀ k, k ≠ p.y.d.toNat → h.p k = g.p k) ∧
        (∀ k l, (g.sel p.fx).getLsbD l = false → (h.v k).lane l = (g.v k).lane l) ∧
        ∀ n, g.flagOf false ≠ some n → h.flagCount n = g.flagCount n) ∧
    (∀ i ∈ ([.vfcvt f, .vicvt f, .vfpack f] : List Instr),
      exec i s = .next u → rest ∧ ∃ h, u.group? r = some h ∧ sameS g h [] ∧ h.preg = g.preg ∧ (∀ k, k ≠ d → h.v k = g.v k) ∧
        h.flag = g.flag ∧ h.cvm = g.cvm ∧ h.trapvec = g.trapvec ∧ h.trapcode = g.trapcode ∧ h.trappc = g.trappc ∧
        h.trapinfo = g.trapinfo ∧ h.cfg = g.cfg)

/-! ### Control, traps, debug and special registers -/

/-- R75 to R77, R81, R142: NOP, WAITF and SLEEP, and the CLAUSE header. A header whose words are good opens its clause at slot 0 once the flags
of WAIT are clear, and leaves the group where it is before that. R132, R142, R143: YIELD makes the group the one that entered the active set
last; EXIT.S ends every lane and fixes the successor of a task, and takes TASKQ outside a task; a sleep ends at its expiry. Where the spec
is silent it states the model's choice: log entries 77, 96. -/
def Obligations.SequencerResults : Prop :=
  (∀ (s : State) (r : GRef) (t : Team) (g : Group), s.current = some (r, t, g) →
     (∀ x, Completes (.nop x) s r t 1 s g) ∧
     (∀ f : FmtBW, (g.flagsClear f.mask = true → Completes (.waitf f) s r t 1 s g) ∧
       (g.flagsClear f.mask = false → Stays (.waitf f) s r t 1 s { g with waiting := true })) ∧
     (∀ f : FmtBI, f.imm11 = 0 → Completes (.sleep f) s r t 1 s g) ∧
     (∀ f : FmtBI, f.imm11 ≠ 0 → exec (.sleep f) s = .next ((s.finish r t 1 (.done s g)).updGroup r fun h =>
       { h with sleepUntil := some ((s.finish r t 1 (.done s g)).ref + 64 * f.imm11.toNat), eligible := decide (4 < f.imm11.toNat) })) ∧
     (∀ (f : FmtBC) ws es, g.clause = none → g.resume = none → firstBad (clauseChecks f) = none →
       s.readClause t t.shape.v (t.shape.roleOf r.grp) (f.count.toNat + 1) (g.pc.toNat + 4) 0 (f.count.toNat + 1) = .ok (ws, es) →
         (g.flagsClear f.wait = true → Stays (.clause f) s r t 0 (s.addTlb es)
           { g with clause := some { seta := f.seta, setb := f.setb, count := f.count.toNat + 1, slot := 0, words := ws, off := 0 } }) ∧
         (g.flagsClear f.wait = false → Stays (.clause f) s r t 0 (s.addTlb es) g)) ∧
     (∀ (f : FmtBC) c, g.clause = some c → Faults (.clause f) s r t 0 { code := .clause })) ∧
  ((∀ (s : State) (r : GRef) (t : Team) (g : Group) x, s.current = some (r, t, g) → g.mask ≠ 0 → g.divSpilled = 0 → g.divTop = [] →
     ∃ u h, exec (.yield x) s = .next u ∧ u.group? r = some h ∧ h.entered = (s.part t.coreN (t.partOf r.grp)).order ∧
       h.yieldAt = s.ref + 1 ∧ (h.clause = none → h.readySince = s.ref + 1) ∧ h.mask = g.mask ∧ h.sreg = g.sreg ∧ h.vreg = g.vreg) ∧
   (∀ (s : State) (r : GRef) (t : Team) (g : Group) (f : FmtBR) p, s.current = some (r, t, g) →
     let a := g.s f.a.toNat
     let taskq : FaultInfo := { code := .taskq, detail := 0xFF05, addr := a, bytes := s.peek t a 64 }
     (t.isTask = false → Faults (.exitS f) s r t f.len taskq) ∧
     (∀ b, t.isTask = true → a.toNat % 64 = 0 → s.where_ t.coreN a 64 = .ok p → t.successor = some b → b ≠ a →
       Faults (.exitS f) s r t f.len taskq) ∧
     (t.isTask = true → a.toNat % 64 ≠ 0 → Faults (.exitS f) s r t f.len { code := .align, addr := a }) ∧
     (t.isTask = true → a.toNat % 64 = 0 → s.where_ t.coreN a 64 = .ok p → (t.successor = none ∨ t.successor = some a) →
       ∃ g', Jumps (.exitS f) s r t f.len (s.updTeam r.team fun t => { t with successor := some a }) g' ∧ g'.mask = 0 ∧
         g'.exited = Mask.all ∧ g'.divTop = [] ∧ g'.divSpilled = 0)) ∧
   (∀ (s : State) (r : GRef) (g : Group) n, s.group? r = some g → g.sleepUntil = some n → n ≤ s.ref →
     exec (.sleepExpiry r) s = .next (s.updGroup r fun g => { g with sleepUntil := none, eligible := false, readySince := s.ref })))

/-- R63, R135, R138, R139, R140, R142: the branches. With no lane selected nothing happens; with every active lane selected the group goes to
the target; otherwise it diverges: a JOIN entry at the reconvergence point R, unless one with that PC is on top already, and a PATH entry
for the side that waits, unless its PC is R. The larger side goes first, or the one that HINT says; with HINT group-uniform and %cfg.UT the
divergence then traps with DIV_UNIFORM. A divergence that would pass 256 entries takes DIV_DEPTH. A target that some lane takes, and the
fall-through of a branch that diverges, must be CLAUSE headers: the branch faults where one can be read and is not, and one that cannot be
read is noted with the branch's clause. R135, R138, R142: CALL pushes the address after it with the mask and goes to its target; RET parks
the returning lanes in the nearest CALL entry; without one, RET ends them, as EXIT does. Where the spec is silent it states the model's
choice: log entries 22, 79. -/
def Obligations.BranchResults : Prop :=
  (∀ (s : State) (r : GRef) (t : Team) (g : Group), s.current = some (r, t, g) →
     let branches (i : Instr) (len : Nat) (f : FmtBra) (fall : DWord) (rpOf : DWord → DWord) : Prop :=
       let m := g.mask &&& g.guard f.pg f.pn
       let target := g.here + (f.off.signExtend 64 <<< 2)
       let rp := rpOf target
       let other : Mask := g.mask &&& ~~~(g.guard f.pg f.pn)
       let taken : Bool := if f.hint = 1 then true else if f.hint = 2 then false else other.count < m.count
       let bad : Bool := s.noHeader t target || (decide (other ≠ 0) && s.noHeader t fall)
       let pc1 := if taken then target else fall
       let m1 := if taken then m else other
       let pc2 := if taken then fall else target
       let m2 := if taken then other else m
       let st := s.stack t r.grp g
       let new := (if pc2 = rp then [] else [(⟨pc2, m2, .path⟩ : DivEntry)]) ++
         (if st.head?.any fun e => e.kind = .join && e.pc = rp then [] else [⟨rp, m ||| other, .join⟩]) ++ st
       let g1 := s.noteLandings t g [target, fall]
       let uniform : Prop := f.hint = 3 ∧ g.cfg.getLsbD 0 = true
       let traps (x : List DivEntry) (pc : DWord) (k : Mask) : Prop := exec i s = .next (s.finish r t len
         (.trap s ({ g1 with divTop := x }.setMask k) { code := .divUniform, detail := m.count + other.count * 256 } pc 0))
       (m = 0 → Completes i s r t len s g) ∧ (m ≠ 0 → bad = true → Faults i s r t len { code := .clause, slot := some 0xFF }) ∧
       (m ≠ 0 → bad = false → other = 0 → Jumps i s r t len s (g.goto target)) ∧
       (m ≠ 0 → bad = false → other ≠ 0 →
         (256 < new.length → Faults i s r t len { code := .divDepth }) ∧
         (g.divSpilled = 0 → new.length ≤ 16 →
           (¬ uniform → Jumps i s r t len s (({ g1 with divTop := new }.setMask m1).goto pc1)) ∧
           (uniform → pc1 ≠ rp → traps new pc1 m1) ∧ (uniform → pc1 = rp → pc2 ≠ rp → traps new.tail pc2 m2))) ∧
       (∀ x y, s.fetchWord t target.toNat = .ok x → s.fetchWord t fall.toNat = .ok y → g1 = g) ∧
       (∀ pc ∈ [target, fall], ∀ e, s.fetchWord t pc.toNat = .error e → (pc, g.pc) ∈ g1.landings)
     (∀ f : FmtBra, branches (.bra f) 1 f (g.here + 4) fun target => if 0 < f.off.toInt then target else g.here + 4) ∧
     (∀ (f : FmtBra) w1 (w2 : Word2) (w : Word) es, s.fetchWord t (g.here + (w2.imm.signExtend 64 <<< 2)).toNat = .ok (w, es) →
       (isHeader w → branches (.braX f w1 w2) 3 f (g.here + 12) fun _ => g.here + (w2.imm.signExtend 64 <<< 2)) ∧
       (¬ isHeader w → Faults (.braX f w1 w2) s r t 3 { code := .clause, slot := some 0xFF })) ∧
     (∀ off, Jumps (.jmp off) s r t 1 s (g.goto (g.here + (off.signExtend 64 <<< 2)))) ∧
     (∀ f : FmtBR,
       let a := g.s f.a.toNat
       (a.toNat % 4 = 0 → a.toNat < 2 ^ 56 → Jumps (.brx f) s r t f.len s (g.goto a)) ∧
       (a.toNat % 4 ≠ 0 → Faults (.brx f) s r t f.len { code := .align, addr := a }) ∧
       (a.toNat % 4 = 0 → 2 ^ 56 ≤ a.toNat → Faults (.brx f) s r t f.len { code := .illAddr, addr := a }))) ∧
  (∀ (s : State) (r : GRef) (t : Team) (g : Group), s.current = some (r, t, g) → g.divSpilled = 0 →
     (∀ off, g.divTop.length < 16 → Jumps (.call off) s r t 1 s
       ({ g with divTop := ⟨g.here + 4, g.mask, .call⟩ :: g.divTop }.goto (g.here + (off.signExtend 64 <<< 2)))) ∧
     (∀ x, (∀ e ∈ g.divTop, e.kind ≠ .call) → Jumps (.ret x) s r t 1 s ((g.exitLanes g.mask).goto (g.here + 4))) ∧
     (∀ x pre c post, g.divTop = pre ++ c :: post → c.kind = .call → (∀ e ∈ pre, e.kind ≠ .call) → g.divTop.length ≤ 16 →
       Jumps (.ret x) s r t 1 s (({ g with
         divTop := pre.map (fun e : DivEntry => (⟨e.pc, e.mask &&& ~~~g.mask, e.kind⟩ : DivEntry)) ++ c :: post }.setMask 0).goto (g.here + 4))) ∧
     (∀ f : FmtBR, ∃ g', Completes (.exit f) s r t f.len s g' ∧ g'.mask = g.mask &&& ~~~(g.sel f) ∧ g'.exited = g.exited ||| g.sel f ∧
       g'.vreg = g.vreg ∧ g'.preg = g.preg ∧ g'.divTop = g.divTop.map fun e => ⟨e.pc, e.mask &&& ~~~(g.sel f), e.kind⟩))

/-- R148, R154, R157: TRAP goes to the group's handler: its mask, stack depth, code, return PC and information are saved, INTRAP is set, and the
PC is %trapvec. With no handler, or inside it, the context ends. R156: TRET returns to %trappc with the saved mask; the clause is entered at
its RESUME slot when that is not zero. Outside a handler it takes PRIV (R154). Where the spec is silent it states the model's choice: log
entries 15, 19. -/
def Obligations.TrapEntry : Prop :=
  (∀ (s : State) (r : GRef) (t : Team) (g : Group) (f : FmtBI), s.current = some (r, t, g) →
     (g.intrap = false → g.trapvec ≠ 0 → g.mask ≠ 0 → g.divSpilled = 0 → g.divTop = [] →
       ∃ u h, exec (.trap f) s = .next u ∧ u.group? r = some h ∧ h.intrap = true ∧ h.pc = g.trapvec ∧ h.clause = none ∧
         h.trapcode.toNat = FaultCode.trapSw.code.toNat ∧ h.trappc = g.here + 4 ∧ h.trapmask = g.mask ∧ h.trapdepth = 0 ∧
         h.trapinfo = BitVec.ofNat 64 (f.imm11.toNat * 2 ^ 32 + g.slot % 256) ∧ h.mask = g.mask ∧ h.sreg = g.sreg ∧
         h.vreg = g.vreg ∧ h.preg = g.preg ∧ h.flag = g.flag ∧ h.cvm = g.cvm ∧ h.cfg = g.cfg ∧ h.trapvec = g.trapvec ∧
         sameMemory s u) ∧
     (g.intrap = true ∨ g.trapvec = 0 → ∀ c, s.ctx? t.ctx = some c → c.state = .live → c.pending = none →
       ∃ u x e, exec (.trap f) s = .next u ∧ u.ctx? t.ctx = some x ∧ x.pending = some e ∧ e.code = .trapSw ∧
         e.kind = (if g.intrap then 2 else 1) ∧ e.pc = g.pc ∧ e.grp = r.grp)) ∧
  (∀ (s : State) (r : GRef) (t : Team) (g : Group) x, s.current = some (r, t, g) →
     (g.intrap = false → Faults (.tret x) s r t 1 { code := .priv }) ∧
     (g.intrap = true → g.divSpilled = 0 → g.divTop.length ≤ 16 →
       ∃ s' g', Jumps (.tret x) s r t 1 s' g' ∧ g'.pc = g.trappc ∧ g'.intrap = false ∧ g'.mask = g.trapmask &&& ~~~g.exited ∧
         g'.divTop = g.divTop.drop (g.divTop.length - g.trapdepth) ∧ g'.divSpilled = 0 ∧ g'.vreg = g.vreg ∧ g'.preg = g.preg ∧
         g'.resume = (let n := (g.trapinfo.extractLsb' 16 8).toNat; if n = 0 then none else some n) ∧ sameMemory s s'))

/-- R88 to R90: SRD completes for every special register that R88 lists, and reads its value; %lane goes to a vector register. A number that R88
does not list is no well-formed SRD or SWR. R45, R48, R49, R88, R148: SWR completes for the five writable special registers, when the value
is legal, and writes it; a write of any other register that R88 lists takes PRIV. -/
def Obligations.SpecialRegisterReads : Prop :=
  (∀ (s : State) (r : GRef) (t : Team) (g : Group) (f : FmtBS), s.current = some (r, t, g) →
     let nat (n : Nat) : DWord := BitVec.ofNat 64 n
     let listed : List Nat := [0x00, 0x01, 0x02, 0x03, 0x04, 0x05, 0x06, 0x07, 0x08, 0x09, 0x0A, 0x10, 0x11, 0x12, 0x13, 0x14, 0x18, 0x19, 0x1A,
       0x1B, 0x20, 0x21, 0x22, 0x23, 0x24, 0x25, 0x26]
     ((wellFormed (.srd f) = true ∨ wellFormed (.swr f) = true) → f.num.toNat ∈ listed) ∧
     (f.num.toNat ∈ listed → ∃ g', Completes (.srd f) s r t 1 s g' ∧ g'.preg = g.preg ∧ sameSpecial g g') ∧
     (f.num = 0 → Completes (.srd f) s r t 1 s (g.setV f.r.toNat Mask.all fun l => BitVec.ofNat 32 l)) ∧
     ∀ p ∈ ([(0x01, nat r.grp), (0x02, nat t.index), (0x03, nat t.gridIdx), (0x04, nat t.coreN), (0x05, nat (t.coreN / 8)),
         (0x06, nat (dieOf t.coreN)), (0x07, nat s.rank), (0x08, nat s.nrank), (0x09, nat t.depth),
         (0x0A, nat (t.shape.roleOf r.grp)), (0x10, g.cvm), (0x11, g.srseed), (0x12, g.flags), (0x13, nat (s.clk t.coreN)),
         (0x14, nat s.time), (0x18, s.stk.mphase.zeroExtend 64), (0x19, nat s.stk.memcap), (0x1A, nat (s.worldOf t)), (0x1B, nat t.ctx),
         (0x20, g.trapvec), (0x21, g.trapcode.zeroExtend 64), (0x22, g.trappc), (0x23, g.trapinfo), (0x24, g.cfg),
         (0x25, nat (g.divTop.length + g.divSpilled)), (0x26, t.pfcount.zeroExtend 64)] : List (Nat × DWord)),
       f.num.toNat = p.1 → Completes (.srd f) s r t 1 s (g.setS f.r.toNat p.2)) ∧
  (∀ (s : State) (r : GRef) (t : Team) (g : Group) (f : FmtBS), s.current = some (r, t, g) →
     let x := g.s f.r.toNat
     let n := f.num.toNat
     let bad : FaultInfo := { code := .illField }
     let legal : Bool := n = 0x11 || (n = 0x10 && cvmOk x) || (n = 0x24 && cfgOk x) ||
       ((n = 0x20 || n = 0x22) && (x.toNat % 4 = 0) && decide (x.toNat < 2 ^ 56))
     (legal = true → ∃ g', Completes (.swr f) s r t 1 s g' ∧ g'.sreg = g.sreg ∧ g'.vreg = g.vreg ∧ g'.preg = g.preg ∧ g'.flag = g.flag) ∧
     (n = 0x10 → (cvmOk x = true → Completes (.swr f) s r t 1 s { g with cvm := x }) ∧ (cvmOk x = false → Faults (.swr f) s r t 1 bad)) ∧
     (n = 0x11 → Completes (.swr f) s r t 1 s { g with srseed := x, sr := srInit x }) ∧
     (n = 0x20 → (x.toNat % 4 = 0 ∧ x.toNat < 2 ^ 56 → Completes (.swr f) s r t 1 s { g with trapvec := x }) ∧
       (¬ (x.toNat % 4 = 0 ∧ x.toNat < 2 ^ 56) → Faults (.swr f) s r t 1 bad)) ∧
     (n = 0x22 → (x.toNat % 4 = 0 ∧ x.toNat < 2 ^ 56 → ∃ i, Completes (.swr f) s r t 1 s { g with trappc := x, trapinfo := i } ∧
         i.extractLsb' 16 8 = 0 ∧ i.extractLsb' 0 16 = g.trapinfo.extractLsb' 0 16 ∧ i.extractLsb' 24 40 = g.trapinfo.extractLsb' 24 40) ∧
       (¬ (x.toNat % 4 = 0 ∧ x.toNat < 2 ^ 56) → Faults (.swr f) s r t 1 bad)) ∧
     (n = 0x24 → (cfgOk x = true → Completes (.swr f) s r t 1 s { g with cfg := x }) ∧ (cfgOk x = false → Faults (.swr f) s r t 1 bad)) ∧
     (wellFormed (.swr f) = true → n ≠ 0x10 → n ≠ 0x11 → n ≠ 0x20 → n ≠ 0x22 → n ≠ 0x24 → Faults (.swr f) s r t 1 { code := .priv }))

/-- R142, R143, R148, R154, R159: what the control instructions leave of registers, other groups and memory. -/
def Obligations.ControlFrame : Prop :=
  ∀ (s u : State) (r : GRef) (t : Team) (g : Group), s.current = some (r, t, g) → stackHeld g →
    let rest : Prop := (∀ q, q ≠ r → u.group? q = s.group? q) ∧ sameMemory s u
    let frame : Prop := rest ∧ ∃ h, u.group? r = some h ∧ sameS g h [] ∧ h.vreg = g.vreg ∧ h.preg = g.preg ∧ sameSpecial g h
    (∀ (x : BitVec 23) (f : FmtBW) (k : FmtBI) (e : FmtBR) (c : FmtBC) (q : GRef),
      (∀ i ∈ ([.nop x, .jmp x, .yield x, .ret x, .waitf f, .sleep k, .exit e, .brx e, .exitS e, .clause c] : List Instr),
        exec i s = .next u → frame) ∧
      (exec (.sleepExpiry q) s = .next u → (∀ q', q' ≠ q → u.group? q' = s.group? q') ∧ sameMemory s u)) ∧
    (∀ (f : FmtBra) x, g.divTop.length ≤ 14 → ((exec (.bra f) s = .next u → f.hint ≠ 3 → frame) ∧ (exec (.call x) s = .next u → frame))) ∧
    (∀ f : FmtBS, exec (.srd f) s = .next u → rest ∧ ∃ h, u.group? r = some h ∧ h.preg = g.preg ∧ sameSpecial g h ∧
      (if f.num = 0 then sameS g h [] ∧ ∀ k, k ≠ f.r.toNat → h.v k = g.v k else sameS g h [f.r.toNat] ∧ h.vreg = g.vreg)) ∧
    (∀ f : FmtBS, exec (.swr f) s = .next u → rest ∧ ∃ h, u.group? r = some h ∧ sameS g h [] ∧ h.vreg = g.vreg ∧ h.preg = g.preg ∧
      h.flag = g.flag ∧ h.trapcode = g.trapcode ∧ h.trapmask = g.trapmask ∧ h.trapdepth = g.trapdepth ∧
      (f.num ≠ 0x10 → h.cvm = g.cvm) ∧ (f.num ≠ 0x11 → h.srseed = g.srseed ∧ h.sr = g.sr) ∧ (f.num ≠ 0x20 → h.trapvec = g.trapvec) ∧
      (f.num ≠ 0x22 → h.trappc = g.trappc ∧ h.trapinfo = g.trapinfo) ∧ (f.num ≠ 0x24 → h.cfg = g.cfg))

/-! ### The table unit -/

/-- R187 to R189: an ATLOAD waits in the table unit; the unit starts its image once the bank has no user; TABLE_SWITCH makes the bank current
and the group goes on, or a bad image raises ILL_FIELD. ATEVAL reads the table of the current bank in every selected lane. Where the spec is
silent it states the model's choice: log entry 21. -/
def Obligations.TableResults : Prop :=
  (∀ (s : State) (r : GRef) (t : Team) (g : Group) (f : FmtBR), s.current = some (r, t, g) → g.waiting = false →
    let a := (g.s f.a.toNat).toNat
    (g.sel f = 0 → Completes (.atload f) s r t f.len s g) ∧
    (g.sel f ≠ 0 → a % 16 = 0 → a + tableBytes ≤ t.shape.mem → s.engineHeld r = true → Stays (.atload f) s r t f.len s g) ∧
    (g.sel f ≠ 0 → a % 16 = 0 → a + tableBytes ≤ t.shape.mem → s.engineHeld r = false → Stays (.atload f) s r t f.len
      (s.updTeam r.team fun t => { t with atq := t.atq ++ [⟨r.grp, a⟩] }) { g with waiting := true }) ∧
    (g.sel f ≠ 0 → a % 16 ≠ 0 → Faults (.atload f) s r t f.len { code := .align, addr := g.s f.a.toNat }) ∧
    (g.sel f ≠ 0 → a % 16 = 0 → t.shape.mem < a + tableBytes →
      Faults (.atload f) s r t f.len { code := .pageProt, addr := g.s f.a.toNat })) ∧
  (∀ (s : State) (r : GRef) (t : Team) (g : Group) (f : FmtBR), s.current = some (r, t, g) →
    Completes (.ateval f) s r t f.len s (g.setV f.d.toNat (g.sel f) fun l =>
      BitVec.ofNat 32 (atEval (if t.cur = 0 then t.bank0 else t.bank1) ((g.v f.a.toNat).lane l).toNat))) ∧
  (∀ (s : State) (k : Nat) (t : Team) x rest, s.team? k = some t → t.unit = .idle → t.atq = x :: rest → t.core ≠ none →
    s.bankUsed k (1 - t.cur) = false → exec (.tableWriteStart k) s =
      .next (s.putTeam k { t with unit := .writing x.grp (1 - t.cur) (s.teamRead t x.offset tableBytes), atq := rest })) ∧
  (∀ (s : State) (k : Nat) (t : Team) (g : Group) grp bank img, s.team? k = some t → t.unit = .writing grp bank img →
    t.groups[grp]? = some g →
    (tableBad img = true → exec (.tableSwitch k) s = .next ((s.updTeam k fun t => { t with unit := .idle }).fatal ⟨k, grp⟩ { code := .illField })) ∧
    (tableBad img = false → ∃ u t', t'.cur = bank ∧ t'.unit = .idle ∧ (bank = 0 → t'.bank0 = img ∧ t'.bank1 = t.bank1) ∧
      (bank = 1 → t'.bank1 = img ∧ t'.bank0 = t.bank0) ∧ t'.groups = t.groups ∧ u = s.putTeam k t' ∧
      exec (.tableSwitch k) s = .next (u.finish ⟨k, grp⟩ t' 3 (.done u g))))

/-! ### Loads and stores -/

/-- R192 to R195, R197, R212: a load that passes the checks is recorded as outstanding on its flag; bytes of scratchpads are taken at once, and
a unit of memory that the L1 does not hold is asked of its home; no register changes yet. A prefetch only reads. R83, R196: an address that
is not a multiple of the access size takes ALIGN before any page is looked at; the lowest lane's fault is the instruction's. Where the spec
is silent it states the model's choice: log entries 18, 39, 82. -/
def Obligations.LoadResults : Prop :=
  (∀ (s : State) (r : GRef) (t : Team) (g : Group), s.current = some (r, t, g) →
     let loads (i : Instr) (len n : Nat) (fs acq : Bool) (us : List LaneUnit) (dst : LaneUnit → Nat → ReadUnit) : Prop :=
       (s.memStalled r g fs acq n us = true → Stays i s r t len s g) ∧
       (s.memStalled r g fs acq n us = false → us = [] → Completes i s r t len s g) ∧
       (s.memStalled r g fs acq n us = false → us ≠ [] → ∃ s' id o, Completes i s r t len s' (g.raiseFlag fs) ∧ s'.ops.get? id = some o ∧
         o.owner = r ∧ o.flag = g.flagOf fs ∧ o.acq = acq ∧ s'.teams = s.teams ∧ s'.l1 = s.l1 ∧ sameMemory s s' ∧
         (∀ l a b, let u : LaneUnit := ⟨l, a, .spad b, 0⟩;
           us = [u] → s.late = false → o.need = [] ∧ o.writes = (u.accesses n).flatMap fun v =>
             (dst v (b + 8 * v.half)).writes (s.spad.readN (b + 8 * v.half) (min n 8))) ∧
         (∀ l a p reg va, let u : LaneUnit := ⟨l, a, .phys p reg va, 0⟩;
           us = [u] → p.pa % 128 + n ≤ 128 → s.l1Take r t.coreN acq p (min n 8) = none →
           (8 < n → s.l1Take r t.coreN acq { p with pa := p.pa + 8 } 8 = none) →
           ∃ q k, s'.reqs.get? q = some k ∧ o.need = [q] ∧ o.writes = [] ∧ k.op = some id ∧ k.owner = some r ∧ k.addr = p.pa / 128 * 128 ∧
             k.kind = .read ((u.accesses n).map fun v => dst v (p.pa + 8 * v.half))))
     (∀ (f : FmtBR) us, s.checkAll t r.grp f.mod.toNat (accBytes f) { write := false } ((g.sel f).lanes.map fun l => (l, laneX f g l)) = .ok us →
       loads (.ld f) f.len (accBytes f) (f.w1.fs = 1) (f.w1.acq = 1) us fun u a =>
         ⟨a, min (accBytes f) 8, true, f.d.toNat + 2 * u.half, u.lane⟩) ∧
     (∀ (f : FmtBI) us, s.checkOne t r.grp 0 8 { write := false } ((g.s f.a.toNat).toNat + f.imm11.toInt) = .ok us →
       loads (.lds f) 1 8 false false us fun _ a => ⟨a, 8, false, f.d.toNat, 0xFF⟩) ∧
     (∀ (f : FmtBR) us, s.checkOne t r.grp f.mod.toNat (accBytes f) { write := false } ((g.s f.a.toNat).toNat + f.off24) = .ok us →
       loads (.ldsExt f) f.len (accBytes f) (f.w1.fs = 1) (f.w1.acq = 1) us fun _ a => ⟨a, accBytes f, false, f.d.toNat, 0xFF⟩) ∧
     (∀ (f : FmtBR) va reg, g.flagFull (f.w1.fs = 1) = false →
       s.where_ t.coreN (BitVec.ofInt 64 ((g.s f.a.toNat).toNat + f.off24)) 1 = .ok (.virt va reg) →
       ∃ s', Completes (.pref f) s r t f.len s' g ∧ s'.teams = s.teams ∧ s'.spad = s.spad ∧ (f.mod ≠ 0 → s' = s))) ∧
  (∀ (s : State) (t : Team) (grp n : Nat) (k : AccKind) (x : Int) (l : Nat) (rest : List (Nat × Int)) (a : DWord) w,
     s.space t grp 0 x = .ok a → s.where_ t.coreN a n = .ok w → a.toNat % n ≠ 0 →
     s.checkAll t grp 0 n k ((l, x) :: rest) = .error (.fault { code := .align, detail := l, addr := a }))

/-- R192 to R197: a store that passes the checks is recorded on its flag. Bytes for a scratchpad are written at once; a unit of memory goes to
its home as a request that carries the bytes of the registers as they are now. -/
def Obligations.StoreResults : Prop :=
  ∀ (s : State) (r : GRef) (t : Team) (g : Group), s.current = some (r, t, g) →
    let stores (i : Instr) (len n : Nat) (fs rel : Bool) (us : List LaneUnit) (data : LaneUnit → List Byte) : Prop :=
      (s.memStalled r g fs false n us = true → Stays i s r t len s g) ∧
      (s.memStalled r g fs false n us = false → us = [] → Completes i s r t len s g) ∧
      (s.memStalled r g fs false n us = false → us ≠ [] → ∃ s' id o, Completes i s r t len s' (g.raiseFlag fs) ∧ s'.ops.get? id = some o ∧
        o.owner = r ∧ o.flag = g.flagOf fs ∧ o.writes = [] ∧ s'.teams = s.teams ∧ s'.mem = s.mem ∧
        (∀ l a b, let u : LaneUnit := ⟨l, a, .spad b, 0⟩;
          us = [u] → s.late = false → (rel = false ∨ s.outstanding r = []) →
          s'.spad = (u.accesses n).foldl (fun m v => m.writeN (b + 8 * v.half) (data v)) s.spad) ∧
        (∀ l m a c b, let u : LaneUnit := ⟨m, c, .spad b, 0⟩;
          us = [⟨l, a, .spad b, 0⟩, u] → l < m → n ≤ 8 → s.late = false → (rel = false ∨ s.outstanding r = []) →
          s'.spad = s.spad.writeN b (data u)) ∧
        (∀ l a p reg va, let u : LaneUnit := ⟨l, a, .phys p reg va, 0⟩;
          us = [u] → p.pa % 128 + n ≤ 128 → s'.spad = s.spad ∧
          ∃ q k, s'.reqs.get? q = some k ∧ k.owner = some r ∧ k.addr = p.pa / 128 * 128 ∧ k.nc = p.nc ∧ k.core = t.coreN ∧
            k.after = (if rel then s.outstanding r else []) ∧
            ∃ from_ : LaneUnit → Nat × Option Nat, k.kind = .write ((u.accesses n).map fun v => ⟨p.pa + 8 * v.half, data v, some (from_ v)⟩)))
    (∀ (f : FmtBR) us, s.checkAll t r.grp f.mod.toNat (accBytes f) { write := true } ((g.sel f).lanes.map fun l => (l, laneX f g l)) = .ok us →
      stores (.st f) f.len (accBytes f) (f.w1.fs = 1) (f.w1.rel = 1) us fun u =>
        laneBytes g (f.d.toNat + 2 * u.half) (min (accBytes f) 8) u.lane) ∧
    (∀ (f : FmtBI) us, s.checkOne t r.grp 0 8 { write := true } ((g.s f.a.toNat).toNat + f.imm11.toInt) = .ok us →
      stores (.sts f) 1 8 false false us fun _ => leBytes 8 (g.s f.d.toNat).toNat) ∧
    (∀ (f : FmtBR) us, s.checkOne t r.grp f.mod.toNat (accBytes f) { write := true } ((g.s f.a.toNat).toNat + f.off24) = .ok us →
      stores (.stsExt f) f.len (accBytes f) (f.w1.fs = 1) (f.w1.rel = 1) us fun _ => leBytes (accBytes f) (g.s f.d.toNat).toNat)

/-- R213 to R218: ATOM, RED and the sequenced RED. On a scratchpad the old value is read and the new one written in one step; on memory the
operation goes to its home. -/
def Obligations.AtomicResults : Prop :=
  ∀ (s : State) (r : GRef) (t : Team) (g : Group) (f : FmtBR), s.current = some (r, t, g) →
    let n := accBytes f
    let fs : Bool := f.w1.fs = 1
    let x : Int := (g.s f.a.toNat).toNat + f.off24
    let after := if f.w1.rel = 1 then s.outstanding r else []
    let low (m : Nat) (v : DWord) : Nat := v.toNat % 2 ^ (8 * m)
    let b := g.s f.b.toNat
    let c := g.s f.c.toNat
    (∀ u, s.checkOne t r.grp 0 n { write := true, atom := true } x = .ok [u] → s.memStalled r g fs (f.w1.acq = 1) n [u] = false →
      ∃ s' id o, Completes (.atom f) s r t f.len s' (g.raiseFlag fs) ∧ s'.ops.get? id = some o ∧ o.owner = r ∧ s'.mem = s.mem ∧
        (∀ a, u.unit = .spad a → after = [] → s.late = false →
          let old := s.spad.num a n
          s'.spad = s.spad.writeN a (leBytes n (atomOp f.sub.toNat n old (low n b) (low n c))) ∧
          o.writes = if f.d = 63 then [] else [.s f.d.toNat (BitVec.ofNat 64 old)]) ∧
        (∀ p reg va, u.unit = .phys p reg va → s'.spad = s.spad ∧ ∃ q k, s'.reqs.get? q = some k ∧ k.owner = some r ∧ k.addr = p.pa ∧
          k.after = after ∧ k.kind = .atom f.sub.toNat n b c f.d.toNat)) ∧
    (∀ u, s.checkOne t r.grp 0 n { write := true, red := true } x = .ok [u] → s.memStalled r g fs false n [u] = false →
      ∃ s' id o, Completes (.red f) s r t f.len s' (g.raiseFlag fs) ∧ s'.ops.get? id = some o ∧ o.owner = r ∧ o.writes = [] ∧
        s'.mem = s.mem ∧
        (∀ a, u.unit = .spad a → after = [] → s.late = false →
          s'.spad = s.spad.writeN a (leBytes n (redOp f.sub.toNat (f.mod.getLsbD 0) n (s.spad.num a n) (low n b)))) ∧
        (∀ p reg va, u.unit = .phys p reg va → s'.spad = s.spad ∧ ∃ q k, s'.reqs.get? q = some k ∧ k.owner = some r ∧ k.addr = p.pa ∧
          k.after = after ∧ k.kind = .red f.sub.toNat (f.mod.getLsbD 0) n b)) ∧
    (∀ u p reg va, s.checkOne t r.grp 0 4 { write := true, red := true, seq := true } x = .ok [u] → u.unit = .phys p reg va →
      s.memStalled r g fs false 4 [u] = false → s.allDone after = true →
      ∃ s' id k, Completes (.redFadd f) s r t f.len s' (g.raiseFlag fs) ∧ s'.contribs.get? id = some k ∧ k.owner = some r ∧ k.unit = p.pa ∧
        k.index = (if f.mod.getLsbD 0 then 0 else (c.extractLsb' 0 24).toNat) ∧ k.value = b.extractLsb' 0 32 ∧ k.bf16 = decide (f.sub = 9) ∧
        k.first = f.mod.getLsbD 0 ∧ k.last = f.mod.getLsbD 1 ∧ k.held = false ∧ k.waits = false ∧ s'.mem = s.mem ∧ s'.spad = s.spad)

/-- R194 to R197, R212 to R218: what the issue of a memory instruction leaves unchanged: every register, every other group, and every byte of
memory but the scratchpad bytes that a store, an atomic or a reduction stores to. -/
def Obligations.MemoryIssueFrame : Prop :=
  ∀ (s u : State) (r : GRef) (t : Team) (g : Group) (f : FmtBR) (k : FmtBI), s.current = some (r, t, g) → stackHeld g → s.memWf = true →
    let rest : Prop := (∀ q, q ≠ r → u.group? q = s.group? q) ∧ u.mem = s.mem ∧ u.tmem = s.tmem ∧ u.comp = s.comp ∧
      ∃ h, u.group? r = some h ∧ sameS g h [] ∧ h.vreg = g.vreg ∧ h.preg = g.preg ∧ h.cvm = g.cvm ∧ h.srseed = g.srseed ∧ h.sr = g.sr ∧
        h.trapvec = g.trapvec ∧ h.trapcode = g.trapcode ∧ h.trappc = g.trappc ∧ h.trapinfo = g.trapinfo ∧ h.cfg = g.cfg
    let outside (n : Nat) (us : List LaneUnit) : Prop :=
      ∀ a, (∀ x ∈ us, ∀ b, x.unit = .spad b → a < b ∨ b + n ≤ a) → u.spad.read a = s.spad.read a
    let x (o : Int) (m : Nat) : Int := (g.s m).toNat + o
    (∀ i ∈ ([.ld f, .lds k, .ldsExt f] : List Instr), exec i s = .next u → rest ∧ u.spad = s.spad) ∧
    (∀ us, s.checkAll t r.grp f.mod.toNat (accBytes f) { write := true } ((g.sel f).lanes.map fun l => (l, laneX f g l)) = .ok us →
      exec (.st f) s = .next u → rest ∧ outside (accBytes f) us) ∧
    (∀ us, s.checkOne t r.grp 0 8 { write := true } (x k.imm11.toInt k.a.toNat) = .ok us → exec (.sts k) s = .next u →
      rest ∧ outside 8 us) ∧
    (∀ us, s.checkOne t r.grp f.mod.toNat (accBytes f) { write := true } (x f.off24 f.a.toNat) = .ok us → exec (.stsExt f) s = .next u →
      rest ∧ outside (accBytes f) us) ∧
    (∀ us, s.checkOne t r.grp 0 (accBytes f) { write := true, atom := true } (x f.off24 f.a.toNat) = .ok us → exec (.atom f) s = .next u →
      rest ∧ outside (accBytes f) us) ∧
    (∀ us, s.checkOne t r.grp 0 (accBytes f) { write := true, red := true } (x f.off24 f.a.toNat) = .ok us → exec (.red f) s = .next u →
      rest ∧ outside (accBytes f) us) ∧
    (exec (.redFadd f) s = .next u → rest ∧ u.spad = s.spad)

/-- R101, R107, R109, R196, R197, R309, R386, R391, R394, R396, R410, R423: a request is performed when it reaches its home: what it waits for
is done, nothing of its group comes before it, its address is neither retired nor lost, its world has the right to it, and a write meets no
sealed range and no sealed code. A write to a frame that is MOVING is held and counted as a stall; a request routed under the old mapping
that finds its frame NEW counts as a replay. R107, R197, R201, R214, R216: what a performed request does to memory and to the instruction
that waits for it, where no word is held changed under a lock and no partial is registered: a read answers the bytes at the home, a write
stores its bytes, an atomic and a reduction without an update-only partial combine with what is there. Where the spec is silent it states
the model's choice: log entries 18, 103. -/
def Obligations.HomeArrival : Prop :=
  (∀ (s : State) (id : Nat) (q : Req), s.reqs.get? id = some q → s.allDone q.after = true → s.reqFirst id q = true →
     let arrives (u : State) : Prop := exec (.homeRequestArrival id) s = .next u
     let stk := s.stk
     let frame := stk.mig.get? (q.addr / 2 ^ 21)
     (q.atSpad = true → arrives (s.performReq id q)) ∧
     (q.atSpad = false → ∀ c, s.homeBad q.addr = some c → arrives (s.reqFault id q c)) ∧
     (q.atSpad = false → s.homeBad q.addr = none → s.lateWorld q.world q.addr q.target = true → arrives (s.reqFault id q .world)) ∧
     (q.atSpad = false → s.homeBad q.addr = none → s.lateWorld q.world q.addr q.target = false →
       (q.isRead = false → s.sealedAt q.addr = true → arrives (s.reqFault id q .sealed)) ∧
       (q.isRead = false → s.sealedAt q.addr = false → s.codeSealedAt q.addr = true → arrives (s.reqFault id q .pageProt)) ∧
       ((q.isRead = true ∨ s.sealedAt q.addr = false ∧ s.codeSealedAt q.addr = false) →
         (stk.migrating = false → q.phase = stk.mphase.toNat → arrives (s.performReq id q)) ∧
         (q.isRead = false → stk.migrating = true → q.addr < 2 ^ 40 → frame = some .moving →
           (q.stalled = true → arrives s) ∧
           (q.stalled = false → arrives
             { s with reqs := s.reqs.put id { q with stalled := true }, stk := { stk with stalls := min (stk.stalls + 1) (2 ^ 32 - 1) } })) ∧
         (q.addr < 2 ^ 40 → q.phase ≠ stk.mphase.toNat → (stk.migrating = false ∨ frame = some .new) →
           arrives (State.performReq { s with stk := { stk with replays := min (stk.replays + 1) (2 ^ 32 - 1) } } id q))))) ∧
  (∀ (s : State) (id : Nat) (q : Req), s.memWf = true → s.partials = [] → (∀ k x, (k, L1Word.d x) ∉ s.l1) →
     let u := s.performReq id q
     let low (m : Nat) (v : DWord) : Nat := v.toNat % 2 ^ (8 * m)
     u.reqs = s.reqs.del id ∧
     (∀ us op o, q.kind = .read us → q.op = some op → s.ops.get? op = some o → ∃ o', u.ops.get? op = some o' ∧ u.mem = s.mem ∧
       o'.writes = o.writes ++ us.flatMap fun x => x.writes (s.mem.readN x.addr x.bytes)) ∧
     (∀ us, q.kind = .write us → (q.nc = true ∨ s.locks = []) → u.mem = us.foldl (fun m x => m.writeN x.addr x.data) s.mem) ∧
     (∀ sub n b c d op o, q.kind = .atom sub n b c d → q.op = some op → s.ops.get? op = some o →
       let old := s.mem.num q.addr n
       u.mem = s.mem.writeN q.addr (leBytes n (atomOp sub n old (low n b) (low n c))) ∧ ∃ o', u.ops.get? op = some o' ∧
         o'.writes = o.writes ++ if d = 63 then [] else [.s d (BitVec.ofNat 64 old)]) ∧
     (∀ sub nat n b, q.kind = .red sub nat n b → q.nc = true →
       u.mem = s.mem.writeN q.addr (leBytes n (redOp sub nat n (s.mem.num q.addr n) (low n b)))) ∧
     (∀ sub nat n b, q.kind = .red sub nat n b → q.nc = false → q.addr % 128 + n ≤ 128 → s.stk.mig.get? (frameOf q.addr) ≠ some .drain →
       u.mem = s.mem ∧ u.partials = [⟨q.core, q.addr, n, sub, nat, redOp sub nat n (redIdentity sub nat n) (low n b), q.ctx, q.va⟩]))

/-- R197, R201, R216, R225: a store request that is performed changes no byte of memory but those of its units, those of an update-only partial
that its home combines, a word that a core holds changed, and, where a lock is held, the words that its units touch. Where the spec is
silent it states the model's choice: log entry 18. -/
def Obligations.HomeStoreFrame : Prop :=
  ∀ (s u : State) (id : Nat) (q : Req) (us : List WriteUnit), s.reqs.get? id = some q → q.kind = .write us → s.memWf = true →
    s.homeBad q.addr = none → s.sealedAt q.addr = false → exec (.homeRequestArrival id) s = .next u →
    u.spad = s.spad ∧ u.tmem = s.tmem ∧ u.comp = s.comp ∧ (∀ r, u.group? r = s.group? r) ∧
    ∀ a, (∀ x ∈ us, a < x.addr ∨ x.addr + x.data.length ≤ a) → (∀ p ∈ s.partials, a < p.addr ∨ p.addr + p.bytes ≤ a) →
      (∀ k w, (k, L1Word.d w) ∈ s.l1 → k % 2 ^ 40 ≠ a / 4) →
      ((s.locks ≠ [] ∨ ∃ k w, (k, L1Word.d w) ∈ s.l1) → ∀ x ∈ us, a / 4 ∉ wordsOf x.addr x.data.length) → u.mem.read a = s.mem.read a

/-- R116, R217 to R220, R386, R410, R423: the contribution that its stream expects is added to its unit, and the stream's next index follows;
another waits in the slice's reorder buffer, or at its issuer while that is full; one that stays away past the lookout limit ends the
context. Where the spec is silent it states the model's choice: log entry 24. -/
def Obligations.SequencedReductions : Prop :=
  (∀ (s : State) (id : Nat) (c : Contrib), s.contribs.get? id = some c → c.held = false → c.waits = false → s.homeBad c.unit = none →
    s.lateWorld c.world c.unit none = false → s.stk.migrating = false → c.phase = s.stk.mphase.toNat →
    (s.sealedAt c.unit = true → exec (.contributionArrival id) s = .next (s.contribFault id c .sealed)) ∧
    (s.sealedAt c.unit = false → s.codeSealedAt c.unit = true → exec (.contributionArrival id) s = .next (s.contribFault id c .pageProt)) ∧
    (s.sealedAt c.unit = false → s.codeSealedAt c.unit = false → s.eligible c = true → ∃ v, exec (.contributionArrival id) s = .next (v.drainStream c.ctx c.unit s.contribs.length) ∧
      v = s.applyContrib id c ∧ v.mem = (s.combine c.unit 4).mem.writeN c.unit (leBytes 4 (addContrib c.bf16
        ((s.combine c.unit 4).mem.num c.unit 4) c.value)) ∧
      v.streamNext c.ctx c.unit = if c.last then none else some (if c.first then 1 else c.index + 1)) ∧
    (s.sealedAt c.unit = false → s.codeSealedAt c.unit = false → s.eligible c = false → s.reorderUsed (s.sliceOf c.unit) < 4096 → exec (.contributionArrival id) s =
      .next { s with contribs := s.contribs.put id { c with held := true, since := s.ref } }) ∧
    (s.sealedAt c.unit = false → s.codeSealedAt c.unit = false → s.eligible c = false → 4096 ≤ s.reorderUsed (s.sliceOf c.unit) → exec (.contributionArrival id) s =
      .next { s with contribs := s.contribs.put id { c with waits := true, since := s.ref } })) ∧
  (∀ (s : State) (id : Nat) (c : Contrib), s.contribs.get? id = some c → c.waits = true → s.stk.migrating = false →
    s.reorderUsed (s.sliceOf c.unit) < 4096 ∨ s.eligible c = true →
    exec (.reorderEntryFree id) s = .next { s with contribs := s.contribs.put id { c with waits := false, phase := s.stk.mphase.toNat } }) ∧
  (∀ (s : State) (ctx unit id : Nat) (c : Contrib) (x : Ctx), s.ctx? ctx = some x → x.state = .live → x.pending = none →
    s.contribs = [(id, c)] → c.ctx = ctx → c.unit = unit → c.held = true → s.eligible c = false → c.since + x.lookout ≤ s.ref →
    ∃ u y e, exec (.redStall ctx unit) s = .next u ∧ u.ctx? ctx = some y ∧ y.pending = some e ∧ e.code = .redStall ∧ u.contribs = [])

/-! ### Fences, barriers and locks -/

/-- R103, R111, R113: a fence lets its group go on once nothing that it waits for is outstanding, and holds it before that. FENCE.ACQ, FENCE.AR
and FENCE.COPY acquire: the core's L1 keeps no copy of a word it does not own. Where the spec is silent it states the model's choice: log
entries 25, 33. -/
def Obligations.FenceResults : Prop :=
  ∀ (s : State) (r : GRef) (t : Team) (g : Group) (f : FmtBR), s.current = some (r, t, g) →
    let acq := s.acquireCore t.coreN
    (∀ p ∈ ([(.fenceAcq f, s.loadsOut r, true), (.fenceRel f, !(s.outstanding r).isEmpty, false), (.fenceAr f, !(s.outstanding r).isEmpty, true),
        (.fenceCopy f, s.copiesOut r, true), (.fenceTier f, s.farOut r, false)] : List (Instr × Bool × Bool)),
      (p.2.1 = false → p.2.2 = true → Completes p.1 s r t f.len acq g.acquired) ∧
      (p.2.1 = false → p.2.2 = false → Completes p.1 s r t f.len s g) ∧
      (p.2.1 = true → ∃ g', Stays p.1 s r t f.len s g' ∧ g'.waiting = true)) ∧
    acq.mem = s.mem ∧ acq.spad = s.spad ∧ ∀ k x, (k, L1Word.v x) ∈ acq.l1 → k / 2 ^ 40 ≠ t.coreN

/-- R149 to R152: the barrier instructions of a member. An arrival counts once in a phase; the last expected one advances the phase, which stays
open until the accesses that its arrivals release have been performed; then its waiters go on. WAIT waits on the phase of the group's last
arrival while that is not complete, and else on the current one. The last expected arrival and a DROP of one cycle count toward the same
phase, whichever comes first, and the drop lowers the count that follows. R130, R153: a group that has waited 256 cycles at a barrier may
leave the active set, and a barrier whose lookout counter reaches the context's limit ends the context with BAR_TIMEOUT. Where the spec is
silent it states the model's choice: log entry 23. -/
def Obligations.BarrierResults : Prop :=
  ((∀ (s : State) (r : GRef) (t : Team) (g : Group) (f : FmtBR) k b m, s.current = some (r, t, g) →
     t.bars.get? f.w2.imm.toNat = some k → s.bars.get? k = some b → b.member? r = some m → b.inert = false → g.waiting = false →
     let filledAt (x : BarFilled) : Prop := b.filled = some x ∧ x.at_ = s.ref ∧ ∃ p ∈ b.open_, p.phase = x.phase
     let owed (x : BarFilled) : Prop := filledAt x ∧ x.owing = true ∧ m.arrived ≠ some x.phase ∧ x.phase ≠ b.phase
     let joined (n : Nat) := b.open_.map fun p => if p.phase = n then { p with ids := p.ids ++ s.outstanding r } else p
     let arrived (b' : Barrier) : Prop :=
       (b.arrivals + 1 < b.expected → b'.arrivals = b.arrivals + 1 ∧ b'.phase = b.phase ∧ b'.open_ = b.open_) ∧
       (b.expected ≤ b.arrivals + 1 → b'.arrivals = 0 ∧ b'.phase = (b.phase + 1) % 2 ^ 16 ∧ b'.expected = b.expected - b.drops ∧
         b'.drops = 0 ∧ b'.open_ = b.open_ ++ [⟨b.phase, b.ids ++ s.outstanding r⟩])
     let late (x : BarFilled) (b' : Barrier) : Prop := b'.phase = b.phase ∧ b'.arrivals = b.arrivals ∧ b'.expected = b.expected ∧
       b'.open_ = joined x.phase ∧ (∀ y, b'.filled = some y → y.owing = false)
     (m.inPhase = false → (∀ x, ¬ owed x) →
       (∃ b', Completes (.barArrive f) s r t f.len (s.putBar k b') g ∧ arrived b' ∧ b'.waiters = b.waiters) ∧
       ∃ b' g', Stays (.barSync f) s r t f.len (s.putBar k b') g' ∧ g'.waiting = true ∧ arrived b' ∧ b'.waiters = b.waiters ++ [(r, b.phase)]) ∧
     (∀ x, m.inPhase = false → owed x →
       (∃ b', Completes (.barArrive f) s r t f.len (s.putBar k b') g ∧ late x b' ∧ b'.waiters = b.waiters) ∧
       ∃ b' g', Stays (.barSync f) s r t f.len (s.putBar k b') g' ∧ g'.waiting = true ∧ late x b' ∧ b'.waiters = b.waiters ++ [(r, x.phase)]) ∧
     (m.inPhase = true → Faults (.barArrive f) s r t f.len { code := .barConfig } ∧
       Faults (.barSync f) s r t f.len { code := .barConfig }) ∧
     (∃ g' p, Stays (.barWait f) s r t f.len (s.putBar k { b with waiters := b.waiters ++ [(r, p)] }) g' ∧ g'.waiting = true ∧
       g'.waitPhase = p ∧ (∀ n, m.arrived = some n → (n = b.phase ∨ ∃ x ∈ b.open_, x.phase = n) → p = n) ∧
       ((∀ n, m.arrived = some n → n ≠ b.phase ∧ ∀ x ∈ b.open_, x.phase ≠ n) → p = b.phase)) ∧
     ((∀ x, ¬ filledAt x) →
       (m.inPhase = true → Completes (.barDrop f) s r t f.len (s.putBar k { (b.updMember r fun m => { m with dropped := true }) with
         drops := b.drops + 1, ids := b.ids ++ s.outstanding r }) g) ∧
       (m.inPhase = false → ∃ b', Completes (.barDrop f) s r t f.len (s.putBar k b') g ∧
         (b.arrivals + 1 < b.expected → b'.arrivals = b.arrivals + 1 ∧ b'.drops = b.drops + 1 ∧ b'.phase = b.phase) ∧
         (b.expected ≤ b.arrivals + 1 → b'.phase = (b.phase + 1) % 2 ^ 16 ∧ b'.expected = b.expected - (b.drops + 1)))) ∧
     (∀ x, filledAt x → ∃ b', Completes (.barDrop f) s r t f.len (s.putBar k b') g ∧
       (b.expected ≤ 1 → b'.expected = 0 ∧ b'.inert = true ∧ b'.open_ = joined x.phase) ∧
       (b.arrivals + 1 < b.expected → b'.expected = b.expected - 1 ∧ b'.arrivals = b.arrivals ∧ b'.drops = b.drops ∧ b'.phase = b.phase ∧
         b'.open_ = joined x.phase)) ∧
     Completes (.barQuery f) s r t f.len s (g.setS f.d.toNat
       (BitVec.ofNat 64 (b.phase * 2 ^ 48 + b.expected * 2 ^ 32 + b.arrivals * 2 ^ 16)))) ∧
   (∀ (s : State) (r : GRef) (t : Team) (g : Group) (f : FmtBR) k b, s.current = some (r, t, g) →
     t.bars.get? f.w2.imm.toNat = some k → s.bars.get? k = some b → g.waiting = true → (∀ w ∈ b.waiters, w.1 ≠ r) →
     ∀ i ∈ ([.barWait f, .barSync f] : List Instr), Completes i s r t f.len (s.acquireCore t.coreN) g.acquired) ∧
   (∀ (s : State) (r : GRef) (t : Team) (g : Group) (f : FmtBR), s.current = some (r, t, g) → t.bars.get? f.w2.imm.toNat = none →
     ∀ i ∈ ([.barArrive f, .barWait f, .barSync f, .barDrop f, .barQuery f] : List Instr),
       Faults i s r t f.len { code := .barConfig }) ∧
   (∀ (s : State) (k : Nat) (b : Barrier) pre p post, s.bars.get? k = some b → b.open_ = pre ++ p :: post →
     (∀ x ∈ pre, s.allDone x.ids = false) → s.allDone p.ids = true → ∃ b', exec (.barrierPhaseComplete k) s = .next (s.putBar k b') ∧
       b'.open_ = b.open_.filter (· ≠ p) ∧ b'.waiters = b.waiters.filter (·.2 ≠ p.phase) ∧ b'.phase = b.phase ∧ b'.arrivals = b.arrivals)) ∧
  ((∀ (s : State) (r : GRef) (g : Group) k b w, (k, b) ∈ s.bars → (r, w) ∈ b.waiters → s.group? r = some g →
     g.waiting = true → g.waitFrom + 256 ≤ s.ref →
     exec (.barrierSwapEligible r) s = .next (s.updGroup r fun g => { g with eligible := true })) ∧
   (∀ (s : State) (k : Nat) (b : Barrier) (c : Ctx), s.bars.get? k = some b → s.ctx? b.ctx = some c → c.state = .live → c.pending = none →
     s.lookoutRuns b = true → c.lookout ≤ b.lookout →
     ∃ u x e, exec (.lookout k) s = .next u ∧ u.ctx? b.ctx = some x ∧ x.pending = some e ∧ e.code = .barTimeout ∧ e.grp = 0xFF ∧
       e.detail.length = 64 ∧ u.teams = s.teams ∧ sameMemory s u))

/-- R222 to R225: the lock instructions. ACQ joins the queue; TRY holds the lock at once or answers false; REL starts the release; LOCK_GRANT
frees a lock whose release is done and grants it to the head of the queue, with an acquire. Where the spec is silent it states the model's
choice: log entry 27. -/
def Obligations.LockResults : Prop :=
  (∀ (s : State) (r : GRef) (t : Team) (g : Group) (f : FmtBR) k l, s.current = some (r, t, g) →
    let fs : Bool := f.w1.fs = 1
    t.locks.get? f.w2.imm.toNat = some k → s.locks.get? k = some l → g.flagFull fs = false →
    (l.has r = false → ∃ s' id o, Completes (.lockAcq f) s r t f.len s' (g.raiseFlag fs) ∧ s'.ops.get? id = some o ∧ o.owner = r ∧
      o.kind = .lock k ∧ s'.locks.get? k = some { l with queue := l.queue ++ [⟨r, id⟩] } ∧ s'.mem = s.mem) ∧
    (l.has r = false → l.holder = none → l.queue = [] → ∃ s' id o l', Completes (.lockTry f) s r t f.len s' (g.raiseFlag fs).acquired ∧
      s'.ops.get? id = some o ∧ o.owner = r ∧ o.writes = [.p f.d.toNat Mask.all] ∧ s'.locks.get? k = some l' ∧ l'.holder = some r) ∧
    (l.has r = false → (l.holder ≠ none ∨ l.queue ≠ []) → ∃ s' id o, Completes (.lockTry f) s r t f.len s' (g.raiseFlag fs) ∧
      s'.ops.get? id = some o ∧ o.owner = r ∧ o.writes = [.p f.d.toNat 0] ∧ s'.locks = s.locks ∧ s'.mem = s.mem) ∧
    (l.has r = true → Faults (.lockAcq f) s r t f.len { code := .lock } ∧ Faults (.lockTry f) s r t f.len { code := .lock }) ∧
    (l.holder = some r → l.pushing = false → ∃ s' id o, Completes (.lockRel f) s r t f.len s' (g.raiseFlag fs) ∧ s'.ops.get? id = some o ∧
      o.owner = r ∧ o.kind = .unlock k ∧ s'.locks.get? k = some { l with pushing := true, ids := s.outstanding r } ∧ s'.mem = s.mem) ∧
    (l.holder ≠ some r → Faults (.lockRel f) s r t f.len { code := .lock })) ∧
  (∀ (s : State) (k : Nat) (l : Lock) w rest (t : Team), s.locks.get? k = some l → l.holder = none → l.pushing = false →
    l.queue = w :: rest → s.team? w.who.team = some t →
    ∃ u l', exec (.lockGrant k) s = .next u ∧ u.locks.get? k = some l' ∧ l'.holder = some w.who ∧ l'.queue = rest ∧ l'.pushing = false) ∧
  (∀ (s : State) (k : Nat) (l : Lock), s.locks.get? k = some l → l.pushing = true → s.allDone l.ids = true → l.queue = [] →
    s.stk.migrating = false →
    ∃ u l', exec (.lockGrant k) s = .next u ∧ u.locks.get? k = some l' ∧ l'.holder = none ∧ l'.pushing = false)

/-! ### Stage rings and the copy engine -/

/-- R252 to R258: the ring and logbook instructions. RESERVE and WAIT write the slot's address to s[D] and its number and phase to s[D + 1];
COMMIT and FREE change the slot once the group's earlier accesses are performed. -/
def Obligations.RingResults : Prop :=
  ∀ (s : State) (r : GRef) (t : Team) (g : Group) (f : FmtBR), s.current = some (r, t, g) →
    let id := f.w2.imm.toNat
    let acq := s.acquireCore t.coreN
    let g0 : Group := g.acquired
    (∀ x, t.rings.get? id = some x → (∀ q ∈ t.relq, ¬ (q.grp = r.grp ∧ q.ring = id)) →
      let slot := (g.s f.a.toNat).toNat % 16
      (∀ n y, x.claim .cs = some (n, y) → Completes (.ringReserve f) s r t f.len ((s.updRing r.team id fun _ => y).acquireCore t.coreN)
        (g0.setSlot t x f.d.toNat n (!x.phaseOf n))) ∧
      (x.claim .cs = none → ∃ g', Stays (.ringReserve f) s r t f.len s g' ∧ g'.waiting = true) ∧
      (slot < x.slots → x.at slot = .cs → (∀ q ∈ t.relq, ¬ (q.ring = id ∧ q.slot = slot)) →
        Completes (.ringCommit f) s r t f.len (s.updTeam r.team fun t =>
          if s.outstanding r = [] then t.ringRelease ⟨r.grp, id, slot, false, []⟩
          else { t with relq := t.relq ++ [⟨r.grp, id, slot, false, s.outstanding r⟩] }) g) ∧
      (slot < x.slots → (x.at slot = .l ∨ x.at slot = .lf) → (∀ q ∈ t.relq, ¬ (q.ring = id ∧ q.slot = slot)) →
        Completes (.ringFree f) s r t f.len (s.updTeam r.team fun t =>
          if s.outstanding r = [] then t.ringRelease ⟨r.grp, id, slot, true, []⟩
          else { t with relq := t.relq ++ [⟨r.grp, id, slot, true, s.outstanding r⟩] }) g) ∧
      (slot < x.slots → (x.at slot = .l ∨ x.at slot = .lf) → x.phaseOf slot = (g.s f.a.toNat).getLsbD 8 →
        Completes (.ringWait f) s r t f.len acq (g0.setSlot t x f.d.toNat slot (x.phaseOf slot))) ∧
      (x.slots ≤ slot → Faults (.ringWait f) s r t f.len { code := .ring }) ∧
      Completes (.ringQuery f) s r t f.len s (g.setS f.d.toNat (BitVec.ofNat 64 (x.phaseBits * 2 ^ 32 + x.slots * 2 ^ 24 + x.tail * 2 ^ 16
        + ((List.range x.slots).filter fun n => x.at n = .l || x.at n = .lf).length * 2 ^ 8
        + ((List.range x.slots).filter fun n => x.at n = .f).length)))) ∧
    (∀ x, t.logs.get? id = some x →
      (x.rd < x.wr → Completes (.ringLogwait f) s r t f.len s g) ∧
      (x.wr ≤ x.rd → ∃ g', Stays (.ringLogwait f) s r t f.len s g' ∧ g'.waiting = true) ∧
      (x.rd < x.wr → Completes (.ringLogpop f) s r t f.len ((s.updTeam r.team fun t => { t with logs := t.logs.upd id fun x =>
          { x with rd := x.rd + 1, taken := some (x.rd % x.records) } }).acquireCore t.coreN)
        (g0.setS f.d.toNat (t.window (x.base + 32 * (x.rd % x.records))))) ∧
      (x.wr ≤ x.rd → Completes (.ringLogpop f) s r t f.len s (g.setS f.d.toNat (BitVec.allOnes 64)))) ∧
    (t.rings.get? id = none → ∀ i ∈ ([.ringReserve f, .ringCommit f, .ringWait f, .ringFree f, .ringQuery f] : List Instr),
      Faults i s r t f.len { code := .ring }) ∧
    (t.logs.get? id = none → ∀ i ∈ ([.ringLogwait f, .ringLogpop f] : List Instr), Faults i s r t f.len { code := .ring })

/-- R232 to R235, R259: a copy instruction puts a copy in its team's queue with the addresses, conversion and seed of its group as they are now;
CQUIESCE waits for the team's earlier copies; CQUIESCE.SET writes an entry of the multicast or the chain table. R236, R238: an element that
is copied as it is goes from its source bytes to its destination bytes: a scratchpad to itself, and memory to a scratchpad; nothing else of
the scratchpads changes. R232, R242, R249 to R252, R256, R261: a copy that can start starts when the engine's round-robin comes to its team
and an execution place is free, and a head that cannot start is blocked; a copy completes when it has placed all its bytes, with its slot
committed, its record written and its entry freed; a multicast and a chain deliver to one receiver at a time. R260, R261: a token leaves the
head of a copy queue that has been blocked for 4,096 cycles, and again every 4,096; it passes its edges one by one; when it comes back to
its queue, the head is set aside, or the context ends when a copy is set aside already. Where the spec is silent it states the model's
choice: log entries 20, 24, 84. -/
def Obligations.CopyIssue : Prop :=
  (∀ (s : State) (r : GRef) (t : Team) (g : Group) (f : FmtBR), s.current = some (r, t, g) →
     let fs : Bool := f.w1.fs = 1
     let a := g.s f.a.toNat
     let b := g.s f.b.toNat
     g.flagFull fs = false →
     (∀ p ∈ ([(.tcopy f, 0), (.tcopyMc f, 1), (.tcopyCh f, 2), (.gthr f, 3)] : List (Instr × Nat)),
       (a.toNat % 64 ≠ 0 → Faults p.1 s r t f.len { code := .align, addr := a }) ∧
       (a.toNat % 64 = 0 → (p.2 = 3 → b.toNat % 4 = 0) → a.toNat + 64 ≤ t.shape.mem → (s.copyQueue r.team).length < 16 →
         ∃ s' id k o c, Completes p.1 s r t f.len s' ((g.srAdvance 1).raiseFlag fs) ∧ s'.ops.get? id = some o ∧ o.owner = r ∧
           o.kind = .copy k ∧ s'.copies.get? k = some c ∧ c.team = r.team ∧ c.grp = r.grp ∧ c.sub = p.2 ∧ c.descAt = a.toNat ∧
           c.sdelta = b ∧ c.ddelta = g.s f.c.toNat ∧ c.cvm = g.cvm ∧ c.step0 = g.srseed.extractLsb' 0 32 ∧ c.after = s.outstanding r ∧
           c.started = false ∧ c.pos = 0 ∧ sameMemory s s')) ∧
     (s.quiesceOut r.team = false → ∃ s' id o, Completes (.cquiesce f) s r t f.len s' (g.raiseFlag fs) ∧ s'.ops.get? id = some o ∧
       o.owner = r ∧ o.kind = .cquiesce ∧ o.need = (s.copies.filter fun (_, c) => c.team = r.team).map (·.1)) ∧
     (s.quiesceOut r.team = false → f.mod.getLsbD 1 = false → s.entryUsed t r.team 1 (f.w2.imm.toNat % 16) = false → b.toNat < 256 →
       ∃ s' t', Completes (.cquiesceSet f) s r t f.len s' (g.raiseFlag fs) ∧ s'.team? r.team = some t' ∧
         t'.mcast.get? (f.w2.imm.toNat % 16) = some (b.truncate 8)) ∧
     (∀ cs, s.quiesceOut r.team = false → f.mod.getLsbD 1 = true → s.entryUsed t r.team 2 (f.w2.imm.toNat % 16) = false →
       chainOf b = some cs → ∃ s' t', Completes (.cquiesceSet f) s r t f.len s' (g.raiseFlag fs) ∧ s'.team? r.team = some t' ∧
         t'.chains.get? (f.w2.imm.toNat % 16) = some cs)) ∧
  (∀ (s : State) (t : Team) (id : Nat) (c : Copy) (d : CopyDesc) (p : Nat) ad b,
     d.conv = 0 → d.rmode = 0 → d.etype ≤ 3 → d.side = false → d.dring = false → c.sub = 0 →
     s.copyUnit t c.grp d.dsize d.dstKind d.dstk (c.effDst d) (d.dstOff p) = .ok (ad, .spad b) →
     let off := d.rowOff (boxPos d.sizes p) + p % d.sizes.headD 1 * d.esize
     (∀ as a, d.sizes ≠ [] → s.copyUnit t c.grp d.esize { write := false } d.srck (c.effSrc d) off = .ok (as, .spad a) →
       s.copyPlace t id c d p = .ok { s with spad := s.spad.writeN b (s.spad.readN a d.esize) }) ∧
     (∀ as q reg va, d.sizes ≠ [] → s.copyUnit t c.grp d.esize { write := false } d.srck (c.effSrc d) off = .ok (as, .phys q reg va) →
       ∃ s', s.copyPlace t id c d p = .ok s' ∧ s'.spad = s.spad.writeN b ((s.addTlb q.tlb).performRead none q.nc q.pa d.esize).1)) ∧
  ((∀ (s : State) (k : Nat) (t : Team), s.team? k = some t → t.core ≠ none → t.allRetired = false →
     (∀ x ∈ s.copies, x.2.team = k → x.2.desc ≠ none) →
     (∀ id c b, s.copyNext k t = some (id, c) → s.copies.get? id = some c → c.desc = some b → s.executing t.coreN < 16 →
       s.copyTurn t.coreN = some k → ∃ u c', exec (.copyStart k) s = .next u ∧ u.copies.get? id = some c' ∧ c'.started = true ∧
         c'.blockedFrom = none ∧ c'.pos = c.pos ∧ u.copyLast.get? t.coreN = some t.slot ∧ sameMemory s u ∧
         (c.claims = none → u.teams = s.teams ∧ c'.claim = c.claim) ∧
         ∀ n x j y, c.claims = some n → t.rings.get? n = some x → x.claim .ce = some (j, y) → c'.claim = some j ∧
           u.teams = (s.updRing k n fun _ => y).teams) ∧
     (∀ id c, s.copyNext k t = none → (s.copyFirsts k).2 = some (id, c) → exec (.copyStart k) s = .next (s.blockHead id))) ∧
   (∀ (s : State) (id : Nat) (t : Team) (c : Copy) b, s.copies.get? id = some c → s.team? c.team = some t → t.core ≠ none →
     c.desc = some b → c.started = true → c.parked = false → c.committed = false → c.asked = true → c.sub = 0 → c.recv = [] →
     (CopyDesc.parse b).count ≤ c.pos → s.allDone c.reads = true → s.allDone c.need = true → (CopyDesc.parse b).logen = false →
     (c.fault = none → ∃ u, exec (.copyComplete id) s = .next u ∧ u.copies = (s.copies.upd id fun c => { c with committed := true }).del id ∧ sameMemory s u ∧
       (c.claim = none → u.teams = s.teams) ∧ (∀ slot, c.claim = some slot →
         u.team? c.team = some (t.fill (CopyDesc.parse b).ring slot .l))) ∧
     (∀ e a, c.fault = some (e, a) → exec (.copyComplete id) s = .next (s.copyFatal id c e a))) ∧
   (∀ (s : State) (id : Nat) (t : Team) (c : Copy) b x, s.copies.get? id = some c → s.team? c.team = some t → t.core ≠ none →
     c.desc = some b → c.committed = true → c.parked = false → (CopyDesc.parse b).logen = true →
     t.logs.get? (CopyDesc.parse b).log = some x → x.room = true →
     ∃ u t' x', exec (.logbookRecordWrite id) s = .next u ∧ u.copies = s.copies.del id ∧ u.team? c.team = some t' ∧
       t'.logs.get? (CopyDesc.parse b).log = some x' ∧ x'.wr = x.wr + 1 ∧ x'.rd = x.rd ∧ u.mem = s.mem) ∧
   (∀ (s : State) (id core : Nat) (c : Copy) (t tr : Team) b x data y slot y', s.copies.get? id = some c → s.team? c.team = some t →
     c.asked = true → c.parked = false → c.data = some data → c.desc = some b → c.recv = [x] → x.core = core → x.committed = false →
     s.team? x.team = some tr → tr.allRetired = false → tr.core ≠ none → tr.rings.get? (CopyDesc.parse b).ring = some y →
     y.claim .ce = some (slot, y') →
     ∀ i ∈ ([(.multicastDelivery id core, 1), (.chainForward id, 2)] : List (Instr × Nat)), c.sub = i.2 →
       ∃ u c', exec i.1 s = .next u ∧ u.copies.get? id = some c' ∧ (∀ z ∈ c'.recv, z.committed = true ∧ z.slot = some slot) ∧
         u.spad = s.spad.writeN (tr.coreN * 2 ^ 21 + tr.base + y.offset + slot * y.bytes) data ∧ u.mem = s.mem)) ∧
  ((∀ (s : State) (k : Nat) (t : Team) id c n, s.copyHead k = some (id, c) → s.team? k = some t → c.blockedFrom = some n →
     n + 4096 ≤ s.ref → (t.tokenAt ≤ n ∨ t.tokenAt + 4096 ≤ s.ref) →
     ∃ u j, exec (.soundingTokenSend k) s = .next (if (u.tokenEdges (.copyQueue k)).isEmpty then u
         else { u with tokens := u.tokens.put j ⟨k, u.tokenEdges (.copyQueue k)⟩ }) ∧
       u.team? k = some { t with tokenAt := s.ref } ∧ u.copies = s.copies ∧ u.tokens = s.tokens ∧ u.mem = s.mem) ∧
   (∀ (s : State) (j edge : Nat) (k : Token) n, s.tokens.get? j = some k → k.left[edge]? = some n → n ≠ .copyQueue k.origin →
     ∃ u, exec (.soundingTokenPass j edge) s = .next u ∧ u.copies = s.copies ∧ u.teams = s.teams ∧
       (s.tokenEdges n ≠ [] → ∃ i x, u.tokens.get? i = some x ∧ x.origin = k.origin ∧ x.left = s.tokenEdges n)) ∧
   (∀ (s : State) (j edge : Nat) (k : Token) id c n, s.tokens.get? j = some k → k.left[edge]? = some (.copyQueue k.origin) →
     s.blockedHead k.origin = some (id, c, n) → s.copies.get? id = some c →
     (∀ x ∈ s.copies, ¬ (x.2.team = k.origin ∧ x.2.aside = true)) →
     ∃ u c', exec (.soundingTokenPass j edge) s = .next u ∧ u.copies.get? id = some c' ∧ c'.aside = true ∧ c'.blockedFrom = none ∧
       c'.flags = c.flags ||| 8) ∧
   (∀ (s : State) (j edge : Nat) (k : Token) id c n (t : Team) g x y, s.tokens.get? j = some k → k.left[edge]? = some (.copyQueue k.origin) →
     s.blockedHead k.origin = some (id, c, n) → x ∈ s.copies → x.2.team = k.origin → x.2.aside = true → s.team? k.origin = some t →
     t.groups[c.grp]? = some g → s.ctx? t.ctx = some y → y.state = .live → y.pending = none →
     ∃ u z e, exec (.soundingTokenPass j edge) s = .next u ∧ u.ctx? t.ctx = some z ∧ z.pending = some e ∧ e.code = .deadlock ∧ e.grp = c.grp ∧
       e.pc = c.hdr ∧ sameMemory s u) ∧
   (∀ (s : State) (j edge : Nat) (k : Token), s.tokens.get? j = some k → k.left[edge]? = some (.copyQueue k.origin) →
     s.blockedHead k.origin = none → ∃ u, exec (.soundingTokenPass j edge) s = .next u ∧ u.copies = s.copies ∧ u.teams = s.teams ∧ u.mem = s.mem))

/-! ### The matrix engine and the vocabulary instructions -/

/-- R263, R264, R266, R272, R273, R276, R278, R280: a MATRIX instruction that passes its checks enters the reorder window of its tile, with one
operation for each active beat of an MMA, and its group goes on; MDRAIN enters the team's drain queue; EPIBIND takes the image at once. One
that reads memory stays while the group has an acquire or a scratchpad access outstanding (R109, R271). R61, R264, R267, R272: an operation
that is first on its tile takes effect. A beat of an MMA gives each element of its 32 rows the k-step of the element, row i of A and row j
of B; MZERO writes zeros; MLOAD copies 256 bytes a row. No other byte of tile memory changes. R270, R280, R284: passes close and start in
order while arrays are free; the TEP takes the next team's drain and runs its program once on every active row, ascending, each row's stores
in order going to its destination row, to team memory, or in pieces of 16 bytes to memory; when all is written it commits the slot and frees
the entry. R283, R284: what each TEP instruction does to the 64 elements of a row, to its format, and to what the row has stored. Where the
spec is silent it states the model's choice: log entries 17, 28, 84, 85, 86, 110. -/
def Obligations.MatrixIssue : Prop :=
  (∀ (s : State) (r : GRef) (t : Team) (g : Group) (f : FmtBR), s.current = some (r, t, g) →
     let fs : Bool := f.w1.fs = 1
     let k := f.d.toNat
     let window := s.windowUsed r.team k
     g.flagFull fs = false →
     (∀ oa ob, s.mmaCheck t g f = .ok (oa, ob) → s.engineHeld r = false → window + g.beats.length ≤ 8 → g.beats ≠ [] →
       ∃ s' id o, Completes (.mma f) s r t f.len s' (g.raiseFlag fs) ∧ s'.ops.get? id = some o ∧ o.owner = r ∧ o.kind = .matrix ∧
         o.need.length = g.beats.length ∧ sameMemory s s' ∧ ∀ beat ∈ g.beats, ∃ q x, q ∈ o.need ∧ s'.tileOps.get? q = some x ∧
           x.team = r.team ∧ x.tiles = [k] ∧
           x.kind = .mma (f.mod.toNat % 16) oa ob (f.w2.imm.toNat % 256) (f.w2.imm.toNat / 256 % 256) beat) ∧
     (∀ oa ob, s.mmaCheck t g f = .ok (oa, ob) → s.engineHeld r = false → window ≤ 8 → g.beats = [] → Completes (.mma f) s r t f.len s g) ∧
     (∀ p ∈ ([(.mzero f, some (.zero g.beats)), (.mload f, (s.mloadCheck t g f).toOption)] : List (Instr × Option TileOpKind)),
       ∀ kind, p.2 = some kind → t.hasTile k = true → (kind.memory = true → s.engineHeld r = false) → window < 8 →
       ∃ s' id q o x t', Completes p.1 s r t f.len s' (g.raiseFlag fs) ∧ s'.ops.get? id = some o ∧ o.owner = r ∧ o.need = [q] ∧
         s'.tileOps.get? q = some x ∧ x.tiles = [k] ∧ x.kind = kind ∧ sameMemory s s' ∧ s'.team? r.team = some t' ∧
         t'.tileTy = t.tileTy.set k (if f.mod.getLsbD 0 then .i32 else .f32)) ∧
     (t.hasTile k = false → Faults (.mzero f) s r t f.len { code := .mmaShape, detail := 5 * 256 + 1 }) ∧
     (∃ s' id o, Completes (.msync f) s r t f.len s' (g.raiseFlag fs) ∧ s'.ops.get? id = some o ∧ o.owner = r ∧
       ∀ q, q ∈ o.need ↔ ∃ x, (q, x) ∈ s.ops ∧ x.owner = r ∧ x.kind = .matrix) ∧
     (let a := (g.s f.a.toNat).toNat;
       a % 128 = 0 → a + 128 ≤ t.shape.mem → s.engineHeld r = false → tepBad (s.teamRead t a 128) = none →
         Completes (.epibind f) s r t f.len (s.updTeam r.team fun t => { t with tep := some (s.teamRead t a 128) }) g) ∧
     (s.engineHeld r = true → (∀ oa ob, s.mmaCheck t g f = .ok (oa, ob) → Stays (.mma f) s r t f.len s g) ∧
       (∀ kind, s.mloadCheck t g f = .ok kind → Stays (.mload f) s r t f.len s g) ∧
       (∀ chunks, s.drainCheck t g f none = .ok chunks → Stays (.mdrain f) s r t f.len s g)) ∧
     (let drains (i : Instr) (chunks : List (Bool × Nat)) (dest : DrainDest) : Prop :=
       ∃ s' id d o, Completes i s r t f.len s' ((g.srAdvance 1).raiseFlag fs) ∧ s'.drains.get? id = some d ∧ d.team = r.team ∧ d.tile = k ∧
         d.beats = g.beats ∧ d.ty = t.typeOf k ∧ d.cvm = g.cvm ∧ d.chunks = chunks ∧ d.dest = dest ∧ d.started = false ∧ d.image = t.tep.getD [] ∧
         s'.ops.get? d.op = some o ∧ o.owner = r ∧ sameMemory s s';
       s.engineHeld r = false →
       (∀ chunks, s.drainCheck t g f none = .ok chunks → window < 8 → (s.drainQueue r.team).length < 4 → drains (.mdrain f) chunks .mem) ∧
       (∀ chunks n x slot y, n = f.w2.imm.toNat % 16 → s.drainCheck t g f (some n) = .ok chunks → t.rings.get? n = some x →
         x.claim .ce = some (slot, y) → window < 8 → (s.drainQueue r.team).length < 4 → drains (.mdrainRing f) chunks (.ring n slot)) ∧
       (∀ chunks, s.drainCheck t g f none = .ok chunks → window < 8 → 4 ≤ (s.drainQueue r.team).length →
         ∃ g', Stays (.mdrain f) s r t f.len s g' ∧ g'.waiting = true))) ∧
  (∀ (s : State) (id : Nat) (o : TileOp) (t : Team) k, s.tileOps.get? id = some o → s.team? o.team = some t → s.tileMayGo id o = true →
     t.core ≠ none → o.tiles = [k] → s.memWf = true →
     (∀ fmt a b pa pb beat, o.kind = .mma fmt a b pa pb beat → beat < 3 → ∃ u, exec (.tileOpTakeEffect id) s = .next u ∧
       u.tileOps = s.tileOps.del id ∧ u.mem = s.mem ∧ u.spad = s.spad ∧ u.comp = s.comp ∧
       (∀ i j, 32 * beat ≤ i → i < 32 * beat + 32 → j < 64 → u.tileElem t k i j =
         mmaElem (mmaFmt fmt) (s.tileElem t k i j) (s.spad.readN (a + 16 * pa * i) (mmaFmt fmt).rowBytes)
           (s.spad.readN (b + 16 * pb * j) (mmaFmt fmt).rowBytes) % 2 ^ 32) ∧
       ∀ x, (x < t.tileBase k + 8192 * beat ∨ t.tileBase k + 8192 * (beat + 1) ≤ x) → u.tmem.read x = s.tmem.read x) ∧
     (∀ beats, o.kind = .zero beats → ∃ u, exec (.tileOpTakeEffect id) s = .next u ∧ u.tileOps = s.tileOps.del id ∧ u.mem = s.mem ∧
       u.spad = s.spad ∧ u.comp = s.comp ∧ (∀ i j, i ∈ beatRows beats → j < 64 → u.tileElem t k i j = 0) ∧
       ∀ x, (∀ i ∈ beatRows beats, x < t.tileBase k + 256 * i ∨ t.tileBase k + 256 * (i + 1) ≤ x) → u.tmem.read x = s.tmem.read x) ∧
     (∀ src pitch beats, o.kind = .load src pitch beats → ∃ u, exec (.tileOpTakeEffect id) s = .next u ∧ u.tileOps = s.tileOps.del id ∧
       u.mem = s.mem ∧ u.spad = s.spad ∧ u.comp = s.comp ∧
       (∀ i x, i ∈ beatRows beats → x < 256 → u.tmem.read (t.tileBase k + 256 * i + x) = s.spad.read (src + i * pitch + x)) ∧
       ∀ x, (∀ i ∈ beatRows beats, x < t.tileBase k + 256 * i ∨ t.tileBase k + 256 * (i + 1) ≤ x) → u.tmem.read x = s.tmem.read x)) ∧
  ((∀ (s : State) (k : Nat) (p : Pass), s.passes.get? k = some p → p.closed = false → (4 ≤ p.members.length ∨ p.since + 8 ≤ s.ref) →
     ∃ u p', exec (.passClose k) s = .next u ∧ u.passes.get? k = some p' ∧ p'.closed = true ∧ p'.members = p.members ∧ u.teams = s.teams) ∧
   (∀ (s : State) (k : Nat) (p : Pass), s.passes = [(k, p)] → p.closed = true → p.started = none → p.members.length ≤ 4 →
     exec (.passStart k) s = .next { s with passes := [(k, { p with started := some s.ref })] }) ∧
   (∀ (s : State) (k id : Nat) (t : Team) (d : Drain), s.team? k = some t → t.core ≠ none → (∀ x ∈ s.drains, x.2.started = false) →
     s.tepNext t.coreN = some k → s.drainReady k = some (id, d) →
     let prog := (tepProgram d.image).getD []
     let fm := outFmt prog d.ty
     let c : TepCtx := ⟨d.image, d.deltas, d.cvm, d.seed, d.step0, s.teamRead t, t.bank t.cur⟩
     let stores (i : Nat) := (prog.foldl (c.slot i) ⟨s.tileRow t d.tile i, [], tileFmt d.ty, []⟩).out
     let team := t.coreN * 2 ^ 21 + t.base
     let pieces := (fm.bytes + 15) / 16
     let places (n : Nat) (x : Nat × Nat × List Byte) (l : List (Bool × WriteUnit)) : Prop :=
       (x.1 = 4 → l = [(true, ⟨team + x.2.1, x.2.2, none⟩)]) ∧
       (x.1 ≠ 4 → ∀ m slot y, d.dest = .ring m slot → t.rings.get? m = some y →
         l = [(true, ⟨team + (y.offset + slot * y.bytes) + x.2.1 * fm.pitch, x.2.2.take fm.bytes, none⟩)]) ∧
       (x.1 ≠ 4 → d.dest = .mem → x.2.2.length = fm.bytes → (n + 1) * pieces ≤ d.chunks.length →
         l.length = pieces ∧ ∀ j, j < pieces → ∃ w, d.chunks[n * pieces + j]? = some w ∧
           l[j]? = some (w.1, ⟨w.2, (x.2.2.drop (16 * j)).take 16, none⟩))
     ∃ u d', ∃ place : Nat → Nat × Nat × List Byte → List (Bool × WriteUnit), exec (.drainStart k) s = .next u ∧
       u.drains.get? id = some d' ∧ d'.started = true ∧ d'.bank = t.cur ∧ (∀ n x, places n x (place n x)) ∧
       (let all := ((List.range (beatRows d.beats).length).zip (beatRows d.beats)).flatMap fun p => (stores p.2).flatMap (place p.1);
         d'.out = some ((all.filter (·.1)).map (·.2), (all.filter (!·.1)).map (·.2))) ∧
       sameMemory s u ∧ u.teams = s.teams) ∧
   (∀ (s : State) (k id : Nat) (d : Drain) sp, (s.drainQueue k).find? (fun x => x.2.started) = some (id, d) → d.out = some (sp, []) →
     ∃ u, exec (.drainComplete k) s = .next u ∧ u.drains = s.drains.del id ∧
       u.spad = sp.foldl (fun m w => m.writeN w.addr w.data) s.spad ∧ u.mem = s.mem ∧ u.tmem = s.tmem ∧
       (d.dest = .mem → u.teams = s.teams) ∧ (∀ n slot, d.dest = .ring n slot → u.teams = (s.updTeam k fun t => t.fill n slot .l).teams)) ∧
   (∀ (s : State) (r : GRef) (g : Group) (f : FmtBR), s.group? r = some g → (g.instr = some (.mdrain f) ∨ g.instr = some (.mdrainRing f)) →
     g.waiting = true → g.waitFrom + 256 ≤ s.ref →
     exec (.mdrainSwapEligible r) s = .next (s.updGroup r fun g => { g with eligible := true }))) ∧
  (∀ (c : TepCtx) (i : Nat) (r : TepRow) (h : Nat),
     let u := c.slot i r h
     let op := h / 2 ^ 12
     let n := bitsOf h 10 8
     let ptr (n : Nat) := bytesNum c.img (0x60 + 8 * n) 8
     let at_ (n : Nat) := bitsOf (ptr n) 31 0 + c.deltas[n]?.getD 0
     let row (n : Nat) := at_ n + i * bitsOf (ptr n) 47 32
     let konst (n : Nat) := bytesNum c.img (0x40 + 4 * n) 4
     let vec (k : Nat) := if bitAt h 11 then bytesNum (c.mem (at_ n) 256) (4 * k) 4 else konst n
     let keeps : Prop := u.scales = r.scales ∧ u.fmt = r.fmt ∧ u.out = r.out
     let each (f : Nat → Nat → Nat) : Prop := ∀ k a, k < 64 → r.x[k]? = some a → u.x[k]? = some (f k a)
     let writes (x : Nat × Nat × List Byte) : Prop := u.x = r.x ∧ u.scales = r.scales ∧ u.fmt = r.fmt ∧ u.out = r.out ++ [x]
     let mode (ty : ElemTy) (k : Nat) : RMode := cvmMode (roundCode 0 c.cvm ty) (engineRand c.seed c.step0 (64 * i + k))
     let amax (xs : List Nat) (m : Nat) : Prop :=
       ((∃ x ∈ xs, f32v x = .nan) → m = 0x7FC00000) ∧
       ((∀ x ∈ xs, f32v x ≠ .nan) → (∀ x ∈ xs, x % 2 ^ 31 ≤ m) ∧ (m = 0 ∨ ∃ x ∈ xs, m = x % 2 ^ 31))
     (op = 0 → u.x = r.x ∧ keeps) ∧
     (op = 1 → keeps ∧ each fun k a => f32add a (vec k)) ∧
     (op = 2 → keeps ∧ each fun k a => f32mul a (vec k)) ∧
     (op = 3 → keeps ∧ each fun _ a => atEval c.bank a) ∧
     (op = 4 → keeps ∧ each fun _ a => Fmt.fp32.min (Fmt.fp32.max a (konst n)) (konst (bitsOf h 6 4))) ∧
     (op = 5 → keeps ∧ each fun k a => Fmt.fp32.max a (vec k)) ∧
     (op = 6 → keeps ∧ each fun k a => Fmt.fp32.min a (vec k)) ∧
     (op = 7 → keeps ∧ (bitsOf h 7 4 = 0 → each fun k a => f32add a (bytesNum (c.mem (row (bitsOf h 9 8)) 256) (4 * k) 4)) ∧
       (bitsOf h 7 4 = 1 → each fun k a =>
         f32r (sumExact false [f32v a, Fmt.bf16.unpack (bytesNum (c.mem (row (bitsOf h 9 8)) 128) (2 * k) 2)]))) ∧
     (op = 8 → ∃ m0 m1, amax (r.x.take 32) m0 ∧ amax ((r.x.drop 32).take 32) m1 ∧
       writes (4, row (bitsOf h 9 8), leBytes 4 m0 ++ leBytes 4 m1)) ∧
     (op = 9 → let ty := emxqTy (bitsOf h 2 0)
       let b0 := mxQuant ty.fmt (mode ty) (satCodeOf 0 c.cvm ty) (r.x.take 32)
       let b1 := mxQuant ty.fmt (fun k => mode ty (32 + k)) (satCodeOf 0 c.cvm ty) ((r.x.drop 32).take 32)
       u.x = b0.2 ++ b1.2 ∧ u.scales = [b0.1, b1.1] ∧ u.fmt = ⟨ty, true⟩ ∧ u.out = r.out) ∧
     (op = 10 → let ty := ecvtTy (bitsOf h 3 0)
       (bitsOf h 3 0 ≠ 7 → each fun k a => convElem r.fmt.ty ty (mode ty k) (satCodeOf 0 c.cvm ty) a) ∧
       (bitsOf h 3 0 = 7 → each fun _ a => convElem r.fmt.ty tyF32 .rne 0 a) ∧ u.fmt = ⟨ty, false⟩ ∧ u.scales = r.scales ∧ u.out = r.out) ∧
     (op = 11 → let bytes := leBytes (8 * r.fmt.ty.bits) (packBits r.fmt.ty.bits r.x) ++ r.scales.map (BitVec.ofNat 8)
       (bitsOf h 1 0 = 0 → writes (0, i, bytes)) ∧ (bitsOf h 1 0 ≠ 0 → writes (4, row (bitsOf h 1 0), bytes))))

/-- R326 to R342: a VOC instruction that passes its checks enters the window of its tiles; VOCF and VOCM trap with HEAP_SPILL, and change
nothing, when the heap could run past its room; the operations take effect in turn. VOCI writes fresh records; VOCI.SPILL moves the
candidates beyond the first 32; VOCF folds a chunk in; VOCM merges checked images in; VOCB adds the gradients to its two tiles; VOCR sends
the images out. Where the spec is silent it states the model's choice: log entries 21, 31. -/
def Obligations.VocabularyResults : Prop :=
  (∀ (s : State) (r : GRef) (t : Team) (g : Group) (f : FmtBR), s.current = some (r, t, g) →
    let fs : Bool := f.w1.fs = 1
    let k := f.d.toNat
    let v := t.vocOf k
    let enters (i : Instr) (tiles : List Nat) (kind : TileOpKind) (new : Option VocIssue) : Prop :=
      g.flagFull fs = false → s.engineHeld r = false → (∀ n ∈ tiles, s.windowUsed r.team n < 8) →
      ∃ s' id q o x t', Completes i s r t f.len s' (g.raiseFlag fs) ∧ s'.ops.get? id = some o ∧ o.owner = r ∧ o.kind = .matrix ∧
        o.need = [q] ∧ s'.tileOps.get? q = some x ∧ x.tiles = tiles ∧ x.kind = kind ∧ sameMemory s s' ∧ s'.team? r.team = some t' ∧
        ∀ n, new = some n → t'.vocOf k = n
    (∀ b, vociCheck s t g f = .ok b → enters (.voci f) [k] (.voci b)
      (some ⟨bytesNum b 0xC 1, bytesNum b 4 2, bytesNum b 0xD 1, bytesNum b 0x14 4, 0⟩)) ∧
    (let base := (g.s f.a.toNat).toNat;
      let cap := (g.s f.b.toNat).toNat;
      t.hasTile k = true → t.typeOf k = .state → base % 16 = 0 → cap ≤ 224 → v.t ≤ 32 + cap → (cap = 0 ∨ base + 8 * cap * v.ntok ≤ t.shape.mem) →
        enters (.vociSpill f) [k] (.vociSpill base cap) (some { v with cap := cap })) ∧
    (∀ kind, vocfCheck s t g f = .ok kind →
      (min v.k (v.t + f.vocNv) ≤ 32 + v.cap → enters (.vocf f) [k] kind (some { v with t := min v.k (v.t + f.vocNv) })) ∧
      (32 + v.cap < min v.k (v.t + f.vocNv) → exec (.vocf f) s = .next (s.finish r t f.len
        (.trap s g { code := .heapSpill, detail := min v.k (v.t + f.vocNv) * 65536 + 256 + k } g.pc g.slot)))) ∧
    (∀ tiles kind, vocbCheck s t g f = .ok (tiles, kind) → enters (.vocb f) tiles kind none) ∧
    (∀ kind, vocmCheck s t g f = .ok kind →
      (min v.k (v.t + v.k) ≤ 32 + v.cap → enters (.vocm f) [k] kind (some { v with t := min v.k (v.t + v.k) })) ∧
      (32 + v.cap < min v.k (v.t + v.k) → exec (.vocm f) s = .next (s.finish r t f.len
        (.trap s g { code := .heapSpill, detail := min v.k (v.t + v.k) * 65536 + 3 * 256 + k } g.pc g.slot)))) ∧
    (∀ chunks, vocrCheck s t g f = .ok chunks → enters (.vocr f) [k] (.vocr (g.s f.a.toNat) chunks) none) ∧
    (s.engineHeld r = true → Stays (.voci f) s r t f.len s g ∧ Stays (.vocb f) s r t f.len s g)) ∧
  (∀ (s : State) (id : Nat) (o : TileOp) (t : Team) fmt h w bias d nv xs k, s.tileOps.get? id = some o → s.team? o.team = some t →
    s.tileMayGo id o = true → t.core ≠ none → o.tiles = [k] → o.kind = .vocf fmt h w bias d nv →
    let v : State := { s with tileOps := s.tileOps.del id }
    vocAll (fun r => (v.vocRec t k r).fold (v.chunk fmt h w bias d nv) r) (v.vocValid t k) = .ok xs →
    exec (.tileOpTakeEffect id) s = .next (xs.foldl (fun s (r, x) => s.putVocRec t k r x) v)) ∧
  (∀ (s : State) (id : Nat) (o : TileOp) (t : Team) k more, s.tileOps.get? id = some o → s.team? o.team = some t →
    s.tileMayGo id o = true → t.core ≠ none → o.tiles = k :: more → s.memWf = true →
    let v : State := { s with tileOps := s.tileOps.del id }
    let recs := v.vocValid t k
    let goes (u : State) : Prop := exec (.tileOpTakeEffect id) s = .next u
    let puts (xs : List (Nat × VocRec)) : Prop := goes (xs.foldl (fun s p => s.putVocRec t k p.1 p.2) v)
    -- VOCI
    (∀ b, o.kind = .voci b → ∃ u, goes u ∧ u.tileOps = s.tileOps.del id ∧ u.mem = s.mem ∧ u.spad = s.spad ∧ u.teams = s.teams ∧
      (∀ x, (x < t.tileBase k ∨ t.tileBase k + 24576 ≤ x) → u.tmem.read x = s.tmem.read x) ∧
      ∀ r, r < 48 →
        let at_ (off n : Nat) := u.tmem.num (t.tileBase k + 512 * r + off) n
        (bytesNum b 0xC 1 ≤ r → ∀ x, x < 512 → at_ x 1 = 0) ∧
        (r < bytesNum b 0xC 1 →
          at_ 0 4 = 0xFF800000 ∧ at_ 4 4 = 0 ∧ at_ 8 4 = bytesNum b 0 4 ∧ at_ 0xC 4 = 0 ∧ at_ 0x10 4 = bytesNum b 8 4 ∧ at_ 0x14 4 = bytesNum b 8 4 ∧
          at_ 0x18 2 = bytesNum b 4 2 ∧ at_ 0x1A 2 = 0 ∧ at_ 0x1C 2 = bytesNum b 6 2 ∧ at_ 0x1E 2 = bytesNum b 6 2 ∧
          at_ 0x20 4 = (if bytesNum b 0x14 4 = 0 then 0 else (bytesNum b 0x10 4 + r * 8 * bytesNum b 0x14 4) % 2 ^ 32) ∧
          at_ 0x24 4 = bytesNum b 0x14 4 ∧ at_ 0x28 1 = bytesNum b 0xD 1 ∧ at_ 0x29 1 = 0 ∧ at_ 0x2A 1 = 1 ∧ at_ 0x2B 1 = bytesNum b 0xC 1 ∧
          (∀ j, j < 4 → at_ (0x30 + 4 * j) 4 = (if j < bytesNum b 0xD 1 then bytesNum b (0x20 + 16 * r + 4 * j) 4 else 0xFFFFFFFF) ∧
            at_ (0x40 + 4 * j) 4 = 0xFF800000) ∧
          ∀ i, i < 32 → at_ (0x80 + 8 * i) 4 = 0xFF800000 ∧ at_ (0x84 + 8 * i) 4 = 0xFFFFFFFF)) ∧
    -- VOCI.SPILL
    (∀ base cap, o.kind = .vociSpill base cap → puts (recs.map fun r =>
      (r, { v.vocRec t k r with spill := if cap = 0 then 0 else base + r * 8 * cap, spillcap := cap }))) ∧
    -- VOCM
    (∀ src, o.kind = .vocm src →
      let bytes (r : Nat) := v.spad.readN (src + r * imageBytes (v.vocRec t k r).k) (imageBytes (v.vocRec t k r).k)
      let image (r : Nat) := VocRec.parse (bytes r) ((bytes r).drop 512)
      let merged (x i y : VocRec) : Prop :=
        (x.m = negInf → i.m = negInf → y.m = x.m ∧ y.s = 0) ∧
        ((x.m ≠ negInf ∨ i.m ≠ negInf) → y.m = Fmt.fp32.max x.m i.m ∧ y.s = f32fma i.s (exp2Diff i.m y.m) (f32mul x.s (exp2Diff x.m y.m))) ∧
        y.list = candMerge x.k x.list i.list ∧ y.shlast = i.shlast ∧ y.cnt = (x.cnt + i.cnt) % 2 ^ 32 ∧
        (∀ j, j < 4 → j < x.nlab → bitAt x.lfound j = false → bitAt i.lfound j = true →
          bitAt y.lfound j = true ∧ y.lz[j]? = some (i.lz[j]?.getD 0)) ∧
        (∀ j, j < 4 → ¬ (j < x.nlab ∧ bitAt x.lfound j = false ∧ bitAt i.lfound j = true) →
          bitAt y.lfound j = bitAt x.lfound j ∧ y.lz[j]? = some (x.lz[j]?.getD 0)) ∧
        y.rt = x.rt ∧ y.vbase = x.vbase ∧ y.vnext = x.vnext ∧ y.k = x.k ∧ y.shard = x.shard ∧ y.spill = x.spill ∧ y.spillcap = x.spillcap ∧
        y.nlab = x.nlab ∧ y.valid = x.valid ∧ y.ntok = x.ntok ∧ y.lid = x.lid
      ((∀ r ∈ recs, (v.vocRec t k r).imageBad (bytes r) (image r) = none) →
        ∃ y : Nat → VocRec, (∀ r ∈ recs, merged (v.vocRec t k r) (image r) (y r)) ∧ puts (recs.map fun r => (r, y r))) ∧
      (∀ pre r post d, recs = pre ++ r :: post → (∀ q ∈ pre, (v.vocRec t k q).imageBad (bytes q) (image q) = none) →
        (v.vocRec t k r).imageBad (bytes r) (image r) = some d →
        let bytes := leBytes 1 d ++ leBytes 1 k ++ leBytes 1 r ++ leBytes 1 3 ++ leBytes 2 (((v.vocRec t k r).shlast + 1) % 2 ^ 16) ++
          leBytes 2 (image r).shard ++ leBytes 8 0 ++ leBytes 48 0
        goes (v.fatal ⟨o.team, o.grp⟩ { code := .vocOrder, slot := some o.slot, hdr := some o.hdr, bytes := bytes }))) ∧
    -- VOCB
    (∀ fmt h w bias d nv dl dh dw c0 vid0, o.kind = .vocb fmt h w bias d nv dl dh dw c0 vid0 → t.physTile dh ≠ t.physTile dw → nv ≤ 64 →
      let c := v.chunk fmt h w bias d nv
      let x (r : Nat) := v.vocRec t k r
      let z (r n : Nat) : Nat := ((c.logits r (x r).rt)[n]?).getD 0
      let grad (r n : Nat) : Nat :=
        let y : FVal := if 1 ≤ (x r).nlab ∧ (x r).lid.head? = some (vid0 + n) then .fin true 1 0 else .fin false 0 0
        f32r ((sumExact false [f32v (f32r ((f32v (exp2Diff (z r n) (x r).m)).div (f32v (x r).s))), y]).mul
          (f32v (leNat (s.teamRead t (dl + 4 * r) 4))))
      (∀ r ∈ recs, (x r).m ≠ negInf ∧ ∀ n, n < nv → f32v (z r n) ≠ .nan ∧ z r n ≠ posInf ∧ f32v (grad r n) ≠ .nan) →
      ∃ u, goes u ∧ u.tileOps = s.tileOps.del id ∧ u.mem = s.mem ∧ u.spad = s.spad ∧ u.teams = s.teams ∧
        (∀ r j, r < 96 → j < 64 → u.tileElem t dh r j = if r ∈ recs ∧ c0 + j < d then
          kStep (s.tileElem t dh r j) ((List.range nv).map fun n => (f32v (grad r n), ((c.w[n]?.getD [])[c0 + j]?).getD .nan)) 0x7F 0x7F % 2 ^ 32
          else s.tileElem t dh r j) ∧
        (∀ n j, n < 96 → j < 64 → u.tileElem t dw n j = if n < nv ∧ c0 + j < d then
          kStep (s.tileElem t dw n j) (recs.map fun r => (f32v (grad r n), ((c.h r)[c0 + j]?).getD .nan)) 0x7F 0x7F % 2 ^ 32
          else s.tileElem t dw n j)) ∧
    -- VOCR
    (∀ dst chunks, o.kind = .vocr dst chunks → s.stk.migrating = false → s.stk.held = [] →
      (∀ x ∈ chunks, x.1 = false → s.lateRefusal (s.worldOf t) x.2 true = none) →
      let image (x : VocRec) : List Byte :=
        let b := x.bytes ++ (x.list.drop 32 ++ List.replicate ((x.k - 32) - (x.list.length - 32)) Cand.empty).flatMap Cand.bytes
        b ++ List.replicate ((512 + 8 * (x.k - 32) + 15) / 16 * 16 - b.length) 0
      let piece (n : Nat) := ((recs.flatMap fun r => image (v.vocRec t k r)).drop (16 * n)).take 16
      goes (((List.range chunks.length).zip chunks).foldl (fun u p =>
        if p.2.1 then { u with spad := u.spad.writeN p.2.2 (piece p.1) } else u.performWrite none false p.2.2 (piece p.1)) v)))

/-! ### The fabric -/

/-- R119, R121, R125, R296, R300, R305, R306: PUT, PUTSIG and GET that pass their checks are recorded as outstanding, with one message for each
piece of their byte range; a PUT reads its source after the group's earlier operations on this device, and PUTSIG sends its signal after all
its pieces. Where the spec is silent it states the model's choice: log entry 34. -/
def Obligations.PutAndGet : Prop :=
  ∀ (s : State) (r : GRef) (t : Team) (g : Group) (f : FmtBR), s.current = some (r, t, g) →
    let fs : Bool := f.w1.fs = 1
    let a := g.s f.a.toNat
    let b := g.s f.b.toNat
    let d := g.s f.d.toNat
    let n := (g.s f.c.toNat).toNat % 2 ^ 32
    let core := t.coreN
    let carries (s' : State) (id : Nat) (kind : Nat → Nat → MsgKind) (at_ : DWord) (src : Nat → Nat → Option (DWord × Nat)) (cut : Nat)
        (after : List Nat) : Prop :=
      ∀ p ∈ fabPieces a.toNat n cut, ∃ q m, s'.msgs.get? q = some m ∧ m.op = some id ∧ m.owner = some r ∧ m.inbound = false ∧
        m.kind = kind p.1 p.2 ∧ m.src = src p.1 p.2 ∧ m.va = (at_ + BitVec.ofNat 64 p.1).toNat ∧ m.after = after
    s.fabHeld r t g fs n [a, b] = false →
    (∀ us, firstFault (s.bytesBad core [a, b] n ++ [chk (s.isFar core b) (fabFault .tier b), s.fabricBad t [a]]) = none →
      bothChecks (s.rangeCheck t r.grp b n { write := false }) (s.rangeCheck t r.grp a n { write := true }) = .ok us →
      ∃ s' id o, Completes (.put f) s r t f.len s' (g.raiseFlag fs) ∧ s'.ops.get? id = some o ∧ o.owner = r ∧ o.kind = .fabric ∧
        o.flag = g.flagOf fs ∧ sameMemory s s' ∧
        carries s' id (fun _ _ => .put []) a (fun x k => some (b + BitVec.ofNat 64 x, k)) (s.pieceCut core a) (s.outstandingHere r)) ∧
    (∀ us, firstFault [s.formBad core a, s.formBad core b, s.formBad core d,
        chk (s.kindOf a = 2) (fabFault .pageProt a), chk (s.kindOf b = 2) (fabFault .pageProt b),
        chk (regionOf d ≠ some 1) (fabFault .pageProt d),
        chk (a.toNat % 4 ≠ 0 || n % 4 ≠ 0) (fabFault .align a), chk (b.toNat % 4 ≠ 0) (fabFault .align b),
        chk (d.toNat % 8 ≠ 0) (fabFault .align d), chk (s.isFar core b) (fabFault .tier b), s.fabricBad t [a, d],
        chk (s.rankOf core d ≠ s.rankOf core a) (fabFault .illAddr d)] = none →
      bothChecks (bothChecks (s.rangeCheck t r.grp b n { write := false }) (s.rangeCheck t r.grp a n { write := true }))
        (if s.isFar core d then .ok [] else s.checkAll t r.grp 0 8 { write := true, atom := true } [(0xFF, (d.toNat : Int))]) = .ok us →
      ∃ s' id o q m, Completes (.putsig f) s r t f.len s' (g.raiseFlag fs) ∧ s'.ops.get? id = some o ∧ o.owner = r ∧ o.kind = .fabric ∧
        sameMemory s s' ∧
        carries s' id (fun _ _ => .put []) a (fun x k => some (b + BitVec.ofNat 64 x, k)) (s.pieceCut core a) (s.outstandingHere r) ∧
        s'.msgs.get? q = some m ∧ m.kind = .signal f.w2.imm.toNat ∧ m.va = d.toNat ∧ m.op = some id ∧
        m.after.length = (fabPieces a.toNat n (s.pieceCut core a)).length) ∧
    (∀ us, firstFault (s.bytesBad core [a, b] n ++ [chk (s.isFar core a) (fabFault .tier a), s.fabricBad t [b]]) = none →
      bothChecks (s.rangeCheck t r.grp b n { write := false }) (s.rangeCheck t r.grp a n { write := true }) = .ok us →
      ∃ s' id o, Completes (.get f) s r t f.len s' (g.raiseFlag fs) ∧ s'.ops.get? id = some o ∧ o.owner = r ∧ o.kind = .fabric ∧
        o.need.length = (fabPieces a.toNat n (s.pieceCut core b)).length ∧ sameMemory s s' ∧
        carries s' id (fun x k => .get k (a + BitVec.ofNat 64 x)) b (fun _ _ => none) (s.pieceCut core b) (s.outstanding r))

/-- R116, R305, R309: SEAL and UNSEAL wait for their release; then the entry stands, or is gone, and the instruction completes. R305, R307,
R308: RADD on the own rank goes to the home of its unit, or acts on a scratchpad at once; SIGREAD reads the counter at its home; SIGWAIT
waits until its counter satisfies the condition, and then completes with an acquire. Where the spec is silent it states the model's choice:
log entry 35. -/
def Obligations.SealResults : Prop :=
  ((∀ (s : State) (r : GRef) (t : Team) (g : Group) (f : FmtBR), s.current = some (r, t, g) →
     let fs : Bool := f.w1.fs = 1
     let a := g.s f.a.toNat
     let n := (g.s f.b.toNat).toNat
     let v := (g.s f.c.toNat).toNat
     let off := (a.extractLsb' 0 40).toNat
     let others := (s.fab.seals.map fun x => (x.start, x.bytes)) ++ s.pendingSeals
     s.formBad t.coreN a = none → regionOf a = some 0 → s.isFar t.coreN a = false → s.fabStalled r g fs = false →
     (∀ us, a.toNat % 2 ^ 16 = 0 → n % 2 ^ 16 = 0 → 0 < n → n ≤ 2 ^ 30 → v < 2 ^ 32 →
       s.checkAll t r.grp 0 4 { write := false } ((List.range (n / 2 ^ 16)).map fun i => (0xFF, ((a.toNat + i * 2 ^ 16 : Nat) : Int))) = .ok us →
       (∀ x ∈ others, overlaps off n x.1 x.2 = false) → others.length < 256 → (∀ top, s.fab.topVersion = some top → top < v) →
       ∃ s' id o, Completes (.seal f) s r t f.len s' (g.raiseFlag fs) ∧ s'.ops.get? id = some o ∧ o.owner = r ∧
         o.kind = .seal off n v false false ∧ o.need = s.outstanding r ∧ s'.fab.topVersion = some v ∧ sameMemory s s') ∧
     ((∃ x ∈ s.fab.seals, x.start = off) → off ∉ s.pendingUnseals →
       ∃ s' id o, Completes (.unseal f) s r t f.len s' (g.raiseFlag fs) ∧ s'.ops.get? id = some o ∧ o.owner = r ∧
         o.kind = .seal off 0 0 true false ∧ o.need = s.outstanding r ∧ sameMemory s s') ∧
     ((∀ x ∈ s.fab.seals, x.start ≠ off) → Faults (.unseal f) s r t f.len { code := .sealed, detail := 3, addr := a })) ∧
   (∀ (s : State) (id : Nat) (o : Op) (t : Team) start n v ending b, s.ops.get? id = some o → o.kind = .seal start n v ending b →
     s.team? o.owner.team = some t → s.allDone o.need = true →
     let pages := s.sealPages t.ctx start n
     (ending = true → exec (.sealInstalled id) s =
       .next ({ s with fab := { s.fab with seals := s.fab.seals.filter (·.start ≠ start) } }.retireOp id)) ∧
     (ending = false → let u : State := s.flushPartials fun p => pages.contains (p.addr / 2 ^ 16);
       u.fab = s.fab ∧ exec (.sealInstalled id) s =
         .next ({ u with fab := { u.fab with seals := u.fab.seals ++ [Seal.mk start n v pages] } }.retireOp id)))) ∧
  ((∀ (s : State) (r : GRef) (t : Team) (g : Group) (f : FmtBR), s.current = some (r, t, g) →
     let fs : Bool := f.w1.fs = 1
     let a := g.s f.a.toNat
     let b := g.s f.b.toNat
     let n := accBytes f
     let core := t.coreN
     s.fabStalled r g fs = false → s.isFar core a = false →
     (∀ u, firstFault [s.formBad core a, chk (regionOf a = some 1 && n ≠ 8) (fabFault .pageProt a), chk (a.toNat % n ≠ 0) (fabFault .align a),
         s.fabricBad t [a]] = none → s.checkAll t r.grp 0 n { write := true, atom := true } [(0xFF, (a.toNat : Int))] = .ok [u] →
       s.memStalled r g fs false n [u] = false → ∃ s' id o, Completes (.radd f) s r t f.len s' (g.raiseFlag fs) ∧ s'.ops.get? id = some o ∧
         o.owner = r ∧ s'.mem = s.mem ∧
         (∀ x, u.unit = .spad x → s'.spad = s.spad.writeN x (leBytes n (atomOp 0 n (s.spad.num x n) (b.toNat % 2 ^ (8 * n)) 0))) ∧
         (∀ p reg va, u.unit = .phys p reg va → s'.spad = s.spad ∧ ∃ q k, s'.reqs.get? q = some k ∧ k.owner = some r ∧ k.addr = p.pa ∧
           k.kind = .atom 0 n b 0 63)) ∧
     (∀ u p reg va, firstFault [s.formBad core a, chk (regionOf a = some 1) (fabFault .pageProt a), chk (a.toNat % n ≠ 0) (fabFault .align a),
         s.fabricBad t [a]] = none → s.checkAll t r.grp 0 n { write := true, atom := true, seq := true } [(0xFF, (a.toNat : Int))] = .ok [u] →
       s.memStalled r g fs false n [u] = false → u.unit = .phys p reg va →
       ∃ s' id c, Completes (.raddSequenced f) s r t f.len s' (g.raiseFlag fs) ∧ s'.contribs.get? id = some c ∧ c.owner = some r ∧ c.unit = p.pa ∧
         c.value = b.extractLsb' 0 32 ∧ c.first = f.mod.getLsbD 0 ∧ c.last = f.mod.getLsbD 1 ∧ sameMemory s s') ∧
     (∀ us, firstFault (s.counterBad core a ++ [chk (s.isFar core a) (fabFault .tier a)]) = none →
       s.checkAll t r.grp 0 8 { write := false } [(0xFF, (a.toNat : Int))] = .ok us →
       ∃ s' id o met, (Completes (.sigwait f) s r t f.len s' (g.raiseFlag fs) ∨ exec (.sigwait f) s =
           .next ((s'.finish r t f.len (.done s' (g.raiseFlag fs))).updGroup r fun g => { g with eligible := true })) ∧
         s'.ops.get? id = some o ∧ o.owner = r ∧ o.kind = .sigwait a b (f.mod.getLsbD 0) f.d.toNat met ∧ sameMemory s s' ∧
         (met = true → f.d ≠ 63 → ∃ x, o.writes = [.s f.d.toNat (BitVec.ofNat 64 x)] ∧ sigMet (f.mod.getLsbD 0) x b.toNat = true)) ∧
     (∀ u p reg va, firstFault (s.counterBad core a ++ [s.fabricBad t [a]]) = none →
       s.checkAll t r.grp 0 8 { write := false } [(0xFF, (a.toNat : Int))] = .ok [u] → u.unit = .phys p reg va →
       ∃ s' id o q k, Completes (.sigread f) s r t f.len s' (g.raiseFlag fs) ∧ s'.ops.get? id = some o ∧ o.owner = r ∧ o.need = [q] ∧
         s'.reqs.get? q = some k ∧ k.addr = p.pa ∧ k.nc = true ∧ k.kind = .read [⟨p.pa, 8, false, f.d.toNat, 0xFF⟩] ∧ sameMemory s s')) ∧
   (∀ (s : State) (id : Nat) (o : Op) a v eq d, s.watchSignals.ops.get? id = some o → o.kind = .sigwait a v eq d true →
     exec (.sigwaitSatisfied id) s = .next ((s.watchSignals.acquire o.owner).retireOp id)))

/-- R211, R294, R296, R298, R305, R306: the answer to a message takes effect, a refused one is sent again after its delay and gives up after 16;
an unacknowledged message is sent again and gives up after 64 ms; a message of another rank is executed once, or refused. Where the spec is
silent it states the model's choice: log entries 39, 89, 98. -/
def Obligations.MessageResults : Prop :=
  (∀ (s : State) (id : Nat) (m : Msg), s.msgs.get? id = some m → m.inbound = false →
    (m.token = 0 → m.loc = false → ∀ data st, m.reply = some (data, st) →
      let u := s.windowBack id m false
      let n : Msg := { m with inWindow := false }
      u.ref = s.ref ∧ u.teams = s.teams ∧ sameMemory s u ∧
      (st = 0 → exec (.messageAck id) s = .next (u.msgDone id n data)) ∧
      (∀ c, 0 < st → st < 0x100 → faultOfNat st = some c →
        exec (.messageAck id) s = .next (u.msgFail id n c (if c = .sealed then 0 else m.lane) (BitVec.ofNat 64 m.va))) ∧
      (0x100 ≤ st → m.resends < 16 → exec (.messageAck id) s =
        .next { u with msgs := u.msgs.put id { n with state := .refused (s.ref + retryCycles (st % 256)), reply := none } }) ∧
      (0x100 ≤ st → 16 ≤ m.resends → exec (.messageAck id) s =
        .next (u.msgFail id n .remoteNack (if st < 0x200 then 0 else 2) (BitVec.ofNat 64 m.va)))) ∧
    (∀ at_ p, m.state = .refused at_ → at_ ≤ s.ref → s.linkFor m = some p →
      exec (.remoteResend id) s = .next (s.sendOn id { m with resends := m.resends + 1 } p) ∧
      ∃ m', (s.sendOn id { m with resends := m.resends + 1 } p).msgs.get? id = some m' ∧ m'.state = .sent ∧ m'.port = p ∧
        m'.resends = m.resends + 1 ∧ m'.kind = m.kind ∧ m'.firstSent = m.firstSent) ∧
    (m.state = .sent → m.reply = none → ∃ u e, exec (.retransmitTimeout id) s = .next u ∧
      u.msgs.get? id = some { m with lastSent := s.ref, entropy := e } ∧ u.teams = s.teams ∧ sameMemory s u) ∧
    (m.state = .sent → m.reply = none → m.firstSent + 121600000 ≤ s.ref →
      exec (.ackLimit id) s = .next (s.msgFail id m .remoteNack 1 (BitVec.ofNat 64 m.va)))) ∧
  (∀ (s : State) (id op n : Nat) (m : Msg), s.msgs = [(id, m)] → m.op = some op → m.inbound = false → m.state = .queued →
    m.kind = .signal n → s.allDone m.after = true → m.token = 0 →
    (m.loc = false → exec (.signalIncrement op) s = .next (s.leave id m)) ∧
    (∀ p reg va, m.loc = true → s.isLost p.pa = false → s.stk.migrating = false →
      s.ownUnit m 8 { write := true, atom := true } (BitVec.ofNat 64 m.va) = .ok (.phys p reg va) →
      ∃ u, exec (.signalIncrement op) s = .next u ∧ u.msgs = [] ∧ (s.partials = [] → s.wordOwner = [] → s.l1 = [] →
        u.mem = s.mem.writeN p.pa (leBytes 8 ((s.mem.num p.pa 8 + n % 2 ^ 64) % 2 ^ 64))))) ∧
  (∀ (s : State) (id : Nat) (m : Msg) (c : Chart) (x : Ctx), s.msgs.get? id = some m → s.fab.chart = some c → m.inbound = true → m.state = .sent →
    ((m.rank, m.seq) ∈ s.fab.seen → exec (.fabricMessageArrival id) s = .next { s with msgs := s.msgs.del id }) ∧
    ((m.rank, m.seq) ∉ s.fab.seen → s.ctx? c.jobCtx = some x → x.state = .live → x.pending = none →
      (∀ f, s.inUnits c m.region (msgWrites m).1 (msgWrites m).2 (msgUnits m) = .error (.code f) →
        exec (.fabricMessageArrival id) s = .next (s.answer id m [] f.code.toNat)) ∧
      (∀ ps, s.inUnits c m.region (msgWrites m).1 (msgWrites m).2 (msgUnits m) = .ok ps → s.stk.migrating = false → s.stk.held = [] →
        exec (.fabricMessageArrival id) s = .next (s.inExec id m c.jobCtx x.world ps)) ∧
      (∀ ps y, s.inUnits c m.region (msgWrites m).1 (msgWrites m).2 (msgUnits m) = .ok ps → (msgWrites m).1 = true →
        (∀ x, m.kind ≠ .contrib x) → y ∈ ps → s.frameMoving y.1.pa = true → ∃ u, exec (.fabricMessageArrival id) s = .next u ∧ u.msgs = s.msgs ∧
          u.fab = s.fab ∧ sameMemory s u ∧ ∀ y ∈ ps, s.frameMoving y.1.pa = true → (id, y.1.pa) ∈ u.stk.held)))

/-- R295, R297, R301 to R303, R441: credits, ports and the rank chart. A LOAD and an ENDINV set BUSY, one written meanwhile is refused; the end
of a LOAD installs the new chart, or refuses it with its ERRCODE; that of an ENDINV drops the cached endpoint entries. Where the spec is
silent it states the model's choice: log entry 32. -/
def Obligations.PortsAndChart : Prop :=
  (∀ (s : State) n, n < 36 → s.msgs = [] → ∃ u, exec (.fabricCreditReturn n) s = .next u ∧
    u.fab.ports = listUpd s.fab.ports n (fun p => { p with credit := p.credit + 1 }) ∧ u.msgs = [] ∧ u.teams = s.teams) ∧
  (∀ (s : State) n (v : DWord), s.linkUp = true → v.getLsbD 2 = true → exec (.portRetrain n v) s = .next (s.updPort n fun p => p.write v (s.portBusy n)) ∧
    ∀ p : Port, v.getLsbD 0 = true → (p.write v (s.portBusy n)).state = 1) ∧
  (∀ (s : State) n up fast ver lanes (p : Port), s.fab.ports[n]? = some p → p.state = 1 →
    ∃ q : Port, exec (.portTrainingDone n up fast ver lanes) s = .next (s.updPort n fun _ => q) ∧
      (up = true → 3 ≤ laneCount (lanes &&& p.laneen) → (36 ≤ n ∨ ver = 1 ∨ ver = 2) →
        q.state = (if p.drain then 3 else 2) ∧ q.lanes = lanes &&& p.laneen) ∧
      ((up = false ∨ laneCount (lanes &&& p.laneen) < 3) → q.state = 4 ∧ q.lanes = 0)) ∧
  (∀ (s : State) n lane (p : Port), s.fab.ports[n]? = some p → p.lanes.getLsbD lane = true →
    ∃ q : Port, exec (.portLaneFailure n lane) s = .next (s.updPort n fun _ => q) ∧ q.lanes = p.lanes &&& ~~~(1#4 <<< lane) ∧
      (laneCount q.lanes < 3 → q.state = 4) ∧ (3 ≤ laneCount q.lanes → q.state = p.state)) ∧
  (∀ (s : State) (v : DWord), s.linkUp = true →
    (s.fab.rchBusy = false → (v.getLsbD 0 = true → exec (.rchctlLoad v) s = .next { s with fab := { s.fab with rchLoad := true } }) ∧
      (v.getLsbD 1 = true → exec (.rchctlEndinv v) s = .next { s with fab := { s.fab with rchInv := true } })) ∧
    (s.fab.rchBusy = true → let u : State := { s with fab := { s.fab with rchErrFlag := true } };
      (v.getLsbD 0 = true → exec (.rchctlLoad v) s = .next u) ∧ (v.getLsbD 1 = true → exec (.rchctlEndinv v) s = .next u))) ∧
  (∀ s : State, s.fab.rchLoad = true → s.fab.rchInv = false → s.stk.ready = true → (s.planAct .rchDone).2 = none ∧
    let u := (s.planAct .rchDone).1
    u.fab.rchBusy = false ∧ u.fab.seals = s.fab.seals ∧ u.teams = s.teams ∧ sameMemory s u ∧
    (∀ c, s.readChart = .ok c → u.fab.chart = some c ∧ u.fab.rchErr = 0 ∧ u.fab.rchErrFlag = false) ∧
    (∀ code, s.readChart = .error code → u.fab.chart = s.fab.chart ∧ u.fab.rchErr = code ∧ u.fab.rchErrFlag = true)) ∧
  (∀ (s : State) (c : Chart), s.fab.rchLoad = false → s.fab.rchInv = true → s.fab.chart = some c →
    let u := (s.planAct .rchDone).1
    u.fab.rchBusy = false ∧ u.fab.chart = some { c with cached := [] } ∧ sameMemory s u)

/-- R314, R315, R441: the pilots. DRAIN takes a running pilot out of service; LOAD reads its firmware, which is verified before it may run; RUN
puts a verified pilot into service. GO in a command slot issues the command, and a command that is done leaves its slot with status 2. R305,
R312, R316, R318 to R320: COLL opens a collective and COLLWAIT waits for the current one on its id; a collective starts on the running
pilots that hold its plan, and completes when the last plan returns 0, with its source read and its result placed, or with the aborted
status. An all-reduce whose participants form the single ring in index order sums block k of its elements from ring position k upward. Where
the spec is silent it states the model's choice: log entries 36, 37, 38, 91. -/
def Obligations.PilotResults : Prop :=
  ((∀ (s : State) (n : Nat) (v : DWord) (p : Pilot), s.fab.pilots[n]? = some p → s.linkUp = true →
     (v.getLsbD 2 = true → p.state = 3 → ∃ u, exec (.pilotDrain n v) s = .next u ∧ (u.pilot n).state = 4 ∧ (u.pilot n).drain = true ∧ sameMemory s u) ∧
     (v.getLsbD 1 = true → v.getLsbD 2 = false → (p.state = 0 ∨ p.state = 5) → ∃ u, exec (.pilotLoad n v) s = .next u ∧ (u.pilot n).state = 1 ∧
       (u.pilot n).verified = false ∧ sameMemory s u) ∧
     (v.getLsbD 0 = true → v.getLsbD 1 = false → v.getLsbD 2 = false → p.state = 0 → p.verified = true →
       ∃ u, exec (.pilotRun n v) s = .next u ∧ (u.pilot n).state = 3 ∧ (u.pilot n).run = true ∧ sameMemory s u) ∧
     (p.state = 4 → (∀ x ∈ s.fab.colls, n ∉ x.2.pilots) → ∃ u, exec (.pilotDrained n) s = .next u ∧ (u.pilot n).state = 0) ∧
     (p.state = 1 → ∃ u, exec (.pilotVerifyDone n) s = .next u ∧ (u.pilot n).state = 2) ∧
     (p.state = 2 → ∃ u, exec (.pilotVerifyDone n) s = .next u ∧ (u.pilot n).state = (if s.imageGood p then 0 else 5) ∧
       (u.pilot n).verified = s.imageGood p)) ∧
   (∀ (s : State) (n slot k : Nat) (c : Coll), slot < 64 → (∀ x ∈ s.fab.pilotCmds, ¬ (x.2.pilot = n ∧ x.2.slot = slot)) →
     s.collOn n slot = some (k, c) → ((s.pilot n).state = 3 ∨ (s.pilot n).state = 4) → s.cmdField n slot 0x34 4 = 1 →
     ∃ u key x, exec (.pilotCommand n slot) s = .next u ∧ u.fab.pilotCmds.get? key = some x ∧ x.pilot = n ∧ x.slot = slot ∧ x.coll = k ∧
       x.sent = false ∧ sameMemory s u) ∧
   (∀ (s : State) (n slot key : Nat) (x : PilotCmd), slot < 64 → s.fab.pilotCmds = [(key, x)] → x.pilot = n → x.slot = slot → x.sent = true →
     s.allDone x.ids = true → x.wait = none → x.result = none →
     exec (.pilotCommand n slot) s = .next ({ s with fab := { s.fab with pilotCmds := [] } }.setCmdField n slot 0x30 4 2))) ∧
  ((∀ (s : State) (r : GRef) (t : Team) (g : Group) (f : FmtBR) us, s.current = some (r, t, g) →
     let fs : Bool := f.w1.fs = 1
     let a := g.s f.a.toNat
     let id := f.w2.imm.toNat % 16
     s.fabStalled r g fs = false →
     (s.formBad t.coreN a = none → a.toNat % 128 = 0 → s.isFar t.coreN a = false →
       s.checkAll t r.grp 0 4 { write := false } (rangeUnits a 128) = .ok us → s.openColl t.ctx id = false →
       (let d := CollDesc.parse (s.peek t a 128); s.collHolds r s.nextId (s.bufferPieces t d.src d.srcBytes) = false) →
       ∃ s' n o key c, Completes (.coll f) s r t f.len s' (g.raiseFlag fs) ∧ s'.ops.get? n = some o ∧ o.owner = r ∧ o.kind = .coll key ∧
         o.need = s.outstanding r ∧ s'.fab.colls.get? key = some c ∧ c.ctx = t.ctx ∧ c.id = id ∧ c.addr = a ∧ c.started = false ∧
         c.status = none ∧ sameMemory s s') ∧
     (∃ s' n o, Completes (.collwait f) s r t f.len s' (g.raiseFlag fs) ∧ s'.ops.get? n = some o ∧ o.owner = r ∧
       o.kind = .collwait ((s.lastColl t.ctx id).map (·.1)) f.d.toNat ∧ sameMemory s s')) ∧
   (∀ (s : State) (k : Nat) (c : Coll), s.fab.colls.get? k = some c →
     (let ps := s.running.filter fun n => ((s.pilot n).plans[(CollDesc.parse c.desc).slot]?.join).isSome;
       c.started = false → c.desc ≠ [] → c.status = none → ps ≠ [] → ∃ u c', exec (.planStart k) s = .next u ∧
         u.fab.colls.get? k = some c' ∧ c'.started = true ∧ c'.pilots = ps ∧ c'.args.length = 5 ∧ c'.descAt.map (·.1) = ps ∧ sameMemory s u) ∧
     (∀ n, c.started = true → c.status = none → n ∈ c.pilots →
       (∃ u c', exec (.planFault k n) s = .next u ∧ u.fab.colls.get? k = some c' ∧ c'.pilots = [] ∧
         (∃ x, c'.status = some x ∧ x.extractLsb' 0 8 = 0x51) ∧ sameMemory s u) ∧
       ((∀ x ∈ s.fab.pilotCmds, ¬ (x.2.coll = k ∧ x.2.pilot = n)) → c.pilots.filter (· ≠ n) ≠ [] →
         exec (.planReturn k n 0) s = .next (s.updColl k fun c => { c with pilots := c.pilots.filter (· ≠ n) })) ∧
       ((∀ x ∈ s.fab.pilotCmds, ¬ (x.2.coll = k ∧ x.2.pilot = n)) → (∀ m ∈ c.pilots, m = n) → s.collDone c = true →
         exec (.planReturn k n 0) s =
           .next ((s.updColl k fun c => { c with pilots := [], status := some 0 }).collSignal k c)) ∧
       (∀ x, x ≠ 0 → (s.shipped c = true ∨ 2 ≤ (CollDesc.parse c.desc).ty) → ∃ u c' st, exec (.planReturn k n x) s = .next u ∧ u.fab.colls.get? k = some c' ∧
         c'.status = some st ∧ st.extractLsb' 0 8 = 0x51 ∧ c'.pilots = [] ∧ sameMemory s u))) ∧
   (∀ (d : CollDesc) (srcs : List (List Nat)) (x : Nat), x < d.n → 0 < d.parts → d.ty = 0 → d.red = 0 →
     let b := (d.n + d.parts - 1) / d.parts
     allReduce d [indexRing d.parts] srcs x = (List.range (d.parts - 1)).foldl
       (fun acc j => f32add acc (elemOf srcs ((x / b + 1 + j) % d.parts) x)) (elemOf srcs (x / b) x)))

/-! ### Completion, the active set and tasks -/

/-- R78, R79, R103: at its completion point an instruction writes its registers, its flag's count drops, and it is gone; an acquiring one
empties the core's L1 of copies. R66, R78: register writes of a completed instruction go to exactly their lanes and registers. -/
def Obligations.CompletionPoint : Prop :=
  (∀ (s : State) (id : Nat) (o : Op) (t : Team) (g : Group), s.ops.get? id = some o → s.team? o.owner.team = some t →
     s.group? o.owner = some g → s.ctxLive t.ctx = true → (o.kind = .plain ∨ o.kind = .load ∨ o.kind = .matrix) → s.opDone id o = true →
     ∃ u h, exec (.longLatencyCompletion id) s = .next u ∧ u.ops = s.ops.del id ∧ u.group? o.owner = some h ∧
       h.vreg = (g.applyAll o.writes).vreg ∧ h.preg = (g.applyAll o.writes).preg ∧ h.sreg = (g.applyAll o.writes).sreg ∧ h.pc = g.pc ∧
       (∀ n, o.flag = some n → h.flag = (g.setFlag n (g.flagCount n - 1)).flag) ∧ (o.flag = none → h.flag = g.flag) ∧ sameMemory s u ∧
       (o.acq = true → ∀ k x, (k, L1Word.v x) ∈ u.l1 → k / 2 ^ 40 ≠ t.coreN) ∧ (∀ q, q ≠ o.owner → u.group? q = s.group? q)) ∧
  (∀ (g : Group) (ws : List RegWrite) (k l : Nat), k < 64 → l < 96 →
     let h := g.applyAll ws
     ((∀ x, RegWrite.v k l x ∉ ws) → (h.v k).lane l = (g.v k).lane l) ∧
     (∀ x, (∀ w ∈ ws, (∃ y, w = .v k l y) → w = .v k l x) → RegWrite.v k l x ∈ ws → (h.v k).lane l = x) ∧
     ((∀ x, RegWrite.s k x ∉ ws) → k < 60 → h.s k = g.s k) ∧ ((∀ m, RegWrite.p k m ∉ ws) → h.p k = g.p k) ∧
     h.flag = g.flag ∧ h.cvm = g.cvm ∧ h.pc = g.pc ∧ h.trapvec = g.trapvec ∧ h.cfg = g.cfg)

/-- R130, R132, R155: a ready pending group is brought in where there is room; a transfer that is done lets its group issue; the trap slot goes
to the group that has waited longest. Where the spec is silent it states the model's choice: log entry 68. -/
def Obligations.ActiveSet : Prop :=
  (∀ (s : State) (core p : Nat) x, (s.part core p).swap = none → s.incoming core p none = some x →
    exec (.swap core p) s = .next (s.startSwap core p x.1 none)) ∧
  (∀ (s : State) (core p : Nat) x, (s.part core p).swap = some x → x.done ≤ s.ref → exec (.swapTransferDone core p) s =
    .next ((s.putPart core p { s.part core p with swap := none, order := (s.part core p).order + 1 }).updGroup x.incoming fun g =>
      { g with entered := (s.part core p).order, eligible := false })) ∧
  (∀ (s : State) (core p : Nat) x y, (s.part core p).swap = none → s.displaced core p = some y →
    oldest ((s.onPart core p).filter fun x => s.pendingReady core p x && x.2.2.readySince + 2048 ≤ s.ref) = some x →
    s.fileHas core p (some y.1) x = true → y.2.2.clause = none →
    exec (.promotion core p) s = .next (s.startSwap core p x.1 (some y.1))) ∧
  (∀ (s : State) (core p : Nat) (r : GRef) rest (g : Group), (s.part core p).trapOwner = none → (s.part core p).trapQueue = r :: rest →
    s.group? r = some g → g.place = .active → ∃ u h, exec (.trapSlotGrant core p) s = .next u ∧ u.group? r = some h ∧ h.place = .trapSlot ∧
      (u.part core p).trapOwner = some r ∧ (u.part core p).trapQueue = rest) ∧
  (∀ (s : State) (core p : Nat) (inc out : GRef) (g h : Group), inc ≠ out → s.group? inc = some g → s.group? out = some h →
    let u := s.startSwap core p inc (some out)
    (u.part core p).swap = some ⟨inc, some out, s.ref + 96⟩ ∧ u.group? inc = some { g with place := .active } ∧
      u.group? out = some { h with place := .pending })

/-- R16, R367 to R371: the task instructions are long-latency: each is recorded as outstanding, QSPAWN and GLAUNCH after what their group has
issued, QTAKE and QSTEAL, as acquires, after its accesses to their block and its releases; a block that is not aligned or not in team
memory, a queue that the context does not hold, a launch by another group than group 0 and one nested too deep fault. R363, R374 to R376: a
core whose home queue is enabled takes its task from there, after every lower core that would take one in the same cycle; a Loading task
that can go on does; a task whose groups have retired with a successor fixed gives way to it, once nothing of it is outstanding and its
children have retired, or ends its context with TASKQ where the successor's effective shape exceeds its own. Where the spec is silent it
states the model's choice: log entries 50, 52. -/
def Obligations.TaskInstructions : Prop :=
  (∀ (s : State) (r : GRef) (t : Team) (g : Group) (f : FmtBR), s.current = some (r, t, g) →
     let fs : Bool := f.w1.fs = 1
     let a := g.s f.a.toNat
     let off := a.toNat
     let q := (g.s f.b.toNat).toNat
     let after (i : Instr) (kind : OpKind) (need : List Nat) (acq : Bool) : Prop := g.flagFull fs = false →
       ∃ s' id o, Completes i s r t f.len s' (g.raiseFlag fs) ∧ s'.ops.get? id = some o ∧ o.owner = r ∧ o.kind = kind ∧ o.need = need ∧
         o.acq = acq ∧ o.flag = g.flagOf fs ∧ sameMemory s s'
     let queued (i : Instr) (kind : OpKind) : Prop := after i kind (s.outstanding r) false
     let block := t.coreN * 2 ^ 21 + t.base + off
     let before : List Nat := ((s.reqs.filter fun x => x.2.owner = some r && (x.2.rel || (x.2.atSpad &&
         overlaps x.2.range.1 x.2.range.2 block 64))).map (·.1)) ++ (s.contribs.filter fun x => x.2.owner = some r && x.2.rel).map (·.1)
     (off % 64 = 0 → off + 64 ≤ t.shape.mem →
       queued (.qspawn f) (.qspawn [off]) ∧
       (∀ c, q < 64 → s.ctx? t.ctx = some c → c.tqMask.getLsbD q = true →
         after (.qtake f) (.qtake q off f.d.toNat false) before true ∧ after (.qsteal f) (.qtake q off f.d.toNat true) before true) ∧
       (let bad (n : Nat) : FaultInfo := { code := .taskq, detail := n * 256 + 2, addr := t.window off, bytes := s.teamRead t off 64 };
         (64 ≤ q → Faults (.qtake f) s r t f.len (bad 0xFF) ∧ Faults (.qsteal f) s r t f.len (bad 0xFF)) ∧
         (∀ c, q < 64 → s.ctx? t.ctx = some c → c.tqMask.getLsbD q = false →
           Faults (.qtake f) s r t f.len (bad q) ∧ Faults (.qsteal f) s r t f.len (bad q))) ∧
       (r.grp = 0 → t.depth < 10 → queued (.glaunch f) (.glaunch off f.d.toNat)) ∧
       (r.grp ≠ 0 → Faults (.glaunch f) s r t f.len { code := .priv }) ∧
       (r.grp = 0 → 10 ≤ t.depth → Faults (.glaunch f) s r t f.len { code := .nestDepth })) ∧
     (off % 64 ≠ 0 → ∀ i ∈ ([.qspawn f, .qtake f, .qsteal f, .glaunch f] : List Instr),
       Faults i s r t f.len { code := .align, detail := 0xFF, addr := BitVec.ofNat 64 off }) ∧
     (let lanes := (g.p (f.c.toNat % 8)).lanes
       let offs := lanes.map fun l => ((g.v f.a.toNat).lane l).toNat;
       (lanes = [] → Completes (.qspawnV f) s r t f.len s g) ∧
       (lanes ≠ [] → (∀ x ∈ offs, x % 64 = 0 ∧ x + 64 ≤ t.shape.mem) → queued (.qspawnV f) (.qspawn offs))) ∧
     (g.flagFull fs = false → ∃ s' id o grids bad, Completes (.gjoin f) s r t f.len s' (g.raiseFlag fs) ∧ s'.ops.get? id = some o ∧ o.owner = r ∧
       o.acq = true ∧ o.kind = .gjoin grids bad ∧ sameMemory s s' ∧ (a = BitVec.allOnes 64 → grids = t.children ∧ bad = false) ∧
       (a ≠ BitVec.allOnes 64 → (∀ k ∈ t.children, ∀ c, s.grids.get? k = some c → c.index ≠ some a.toNat) → grids = [] ∧
         bad = !t.joined.contains a.toNat))) ∧
  ((∀ (s : State) (core : Nat) (site : Site) h ctx c u, s.loadingFor site = none → s.te.home.get? core = some h → h.en = true → site.core = core →
     s.dispFrom ≤ core → (∀ n, s.dispFrom ≤ n → n < core → s.takes n = false) →
     s.queueCtx h.home = some (ctx, c) → s.ctxRuns ctx = true → (s.taskQ h.home).bound = true → (s.taskQ h.home).count ≠ 0 →
     s.tryDesc ctx h.home core site false = .act u →
     exec (.dispatch core site) s = .next { u with te := { u.te with dispAt := u.ref, dispNext := core + 1 } }) ∧
   (∀ (s : State) (core k : Nat) (site : Site) (t : Team), s.loadingFor site = some (k, t) →
     exec (.dispatch core site) s = .next (s.loadMore k t site)) ∧
   (∀ (s : State) (k : Nat) (t : Team) a, s.team? k = some t → t.successor = some a → s.ctxLive t.ctx = true → t.core ≠ none →
     t.state = .succeeding → t.ioToken = 0 →
     (s.teamQuiet k t = true → t.children = [] →
       (∀ b u, s.readSuccessor k t a = .ok b u → exec (.succession k) s = .next (u.trySucceed k t a b)) ∧
       (∀ va, s.readSuccessor k t a = .missing va → exec (.succession k) s = .next (s.suspendSucc k 0 va)) ∧
       (∀ c, s.readSuccessor k t a = .fault c → exec (.succession k) s = .next (s.fatalTeam k c 0xFF a))) ∧
     ((s.teamQuiet k t = false ∨ t.children ≠ []) → (∀ x ∈ s.copies, x.2.team ≠ k) → exec (.succession k) s = .next s)) ∧
   (∀ (s : State) (k : Nat) (t : Team) a b x, s.taskHeader t.ctx b true = .ok x →
     let y := t.eff.getD t.shape
     (y.g < x.g ∨ y.v < x.v ∨ y.mem < x.mem ∨ x.tiles &&& ~~~y.tiles ≠ 0) → s.trySucceed k t a b = s.taskFault t.ctx 4 0xFF a b) ∧
   (∀ (s : State) (r : GRef) (t : Team), s.team? r.team = some t → t.state = .running →
     (∀ n g, t.groups[n]? = some g → n ≠ r.grp → g.retired = true) →
     ∃ u, (s.retireGroup r).team? r.team = some u ∧ u.state = (if t.successor.isSome then .succeeding else .joining) ∧ u.core = t.core))

/-! ### Faults, frames, commands and grids -/

/-- R157, R158, R206, R207, R210, R441: the driver's answer goes to everything that waits under its token; a translation is dropped and the
invalidation is done once the accesses under it are; the record of a fatal fault is posted in the context's ring and its resources are
freed. R157: the 128 bytes of a fault record. Where the spec is silent it states the model's choice: log entries 10, 24, 63. -/
def Obligations.PageAnswersAndEnds : Prop :=
  ((∀ (s : State) (v : DWord), (v.extractLsb' 16 16 = 0 → exec (.pfresp v) s = .next s) ∧
     (s.linkUp = true → v.extractLsb' 16 16 ≠ 0 → v.getLsbD 0 = false → s.grids = [] → s.te.cmds = [] → s.copies = [] → s.msgs = [] → s.fab.pilotCmds = [] →
       ∀ k t c, s.teams = [(k, t)] → s.ctx? t.ctx = some c → c.heldRec = none → t.ctx = (v.extractLsb' 32 32).toNat →
         t.token = (v.extractLsb' 16 16).toNat →
         ∃ u, exec (.pfresp v) s = .next u ∧ u.teams = [(k, { t with answered := true, token := 0 })] ∧ sameMemory s u)) ∧
   (∀ (s : State) (v : DWord), s.linkUp = true → v.getLsbD 0 = true → s.xlat.busy = false → v.extractLsb' 1 2 ≠ 3 →
     ∃ u, exec (.tlbInvalidate v) s = .next u ∧ u.xlat.busy = true ∧ u.xlat.ctx = (v.extractLsb' 32 32).toNat ∧
       u.xlat.scope = v.extractLsb' 1 2 ∧ u.tlb = s.tlb.filter (fun e => !u.xlat.names e) ∧ sameMemory s u) ∧
   (∀ (s : State) (v : DWord), s.linkUp = true → v.getLsbD 0 = true → (s.xlat.busy = true ∨ v.extractLsb' 1 2 = 3) →
     ∃ u, exec (.tlbInvalidate v) s = .next u ∧ u.xlat.err = true ∧ u.tlb = s.tlb) ∧
   (∀ s : State, s.xlat.busy = true → s.allDone s.xlat.waits = true →
     exec .tlbInvalidateDone s = .next { s with xlat := { s.xlat with busy := false, waits := [] } }) ∧
   (∀ (s : State) (k : Nat) (c : Ctx) (f : FaultRec) v, s.ctx? k = some c → c.pending = some f → c.prot = false → s.postRecord k c f = some v →
     (c.later = [] → exec (.contextEnd k) s = .next ((v.freeCtx k c).removeCtx k c)) ∧
     ∀ e rest, c.later = e :: rest → exec (.contextEnd k) s =
       .next (v.updCtx k fun c => { c with pending := some e, later := rest, heldRec := none })) ∧
   (∀ (s : State) (k : Nat) (c : Ctx) (f : FaultRec) v, s.ctx? k = some c → c.pending = some f → c.prot = true → s.postRecord k c f = some v → c.later = [] →
     exec (.contextEnd k) s = .next ((v.failCmds k).updCtx k fun c => { c with state := .ending, pending := none })) ∧
   (∀ (s : State) (core part k : Nat) (c : Ctx), s.ctx? k = some c → c.state = .live → c.pending = none →
     ∃ u x e, exec (.machineCheck core part (some k)) s = .next u ∧ u.ctx? k = some x ∧ x.pending = some e ∧ e.code = .machine ∧ e.kind = 3 ∧
       e.core = core) ∧
   (∀ (s : State) core part, exec (.machineCheck core part none) s = .next s)) ∧
  (∀ (f : FaultRec) (ctx seq world : Nat), f.detail.length ≤ 64 →
     let b := f.image ctx seq world
     b.length = 128 ∧ leNat (b.take 1) = f.code.code.toNat % 256 ∧ leNat ((b.drop 4).take 4) = ctx % 2 ^ 32 ∧
     leNat ((b.drop 8).take 4) = f.team % 2 ^ 32 ∧ leNat ((b.drop 0x10).take 8) = f.pc.toNat ∧ leNat ((b.drop 0x18).take 8) = f.info.toNat ∧
     leNat ((b.drop 0x20).take 8) = f.addr.toNat ∧ leNat ((b.drop 0x30).take 8) = seq % 2 ^ 64 ∧
     ∀ i, i < f.detail.length → b[0x40 + i]? = f.detail[i]?)

/-- R159, R160, R426, R441: HALT, RESUME and the end of a halt; the teardown of a protected context. R159, R160: BKPT is a NOP unless
breakpoints are enabled for its context, and in a context that is halting already; else it halts the context, unless the context is
protected and the device is not in debug mode. Where the spec is silent it states the model's choice: log entries 66, 78. -/
def Obligations.DebugAndTeardown : Prop :=
  ((∀ (s : State) (v : DWord) (c : Ctx), let k := (v.extractLsb' 32 32).toNat
     s.linkUp = true → s.ctx? k = some c → c.state = .live → (c.prot = true → s.sec.mode = 2) →
     (v.getLsbD 1 = true → c.halted = false → ∃ u x, exec (.debugHalt v) s = .next u ∧ u.dbg.halting = true ∧ u.ctx? k = some x ∧ x.halting = true ∧
       u.dbg.bken = v.getLsbD 3 ∧ u.dbg.ctx = k ∧ sameMemory s u) ∧
     (v.getLsbD 2 = true → ∃ u x, exec (.debugResume v) s = .next u ∧ u.ctx? k = some x ∧ x.halted = false ∧ u.dbg.bken = v.getLsbD 3 ∧
       u.dbg.ctx = k ∧ sameMemory s u)) ∧
   (∀ (s : State) (v : DWord), s.linkUp = true → s.ctx? (v.extractLsb' 32 32).toNat = none →
     (v.getLsbD 1 = true → ∃ u, exec (.debugHalt v) s = .next u ∧ u.dbg.refused = true ∧ u.ctxs = s.ctxs) ∧
     (v.getLsbD 2 = true → ∃ u, exec (.debugResume v) s = .next u ∧ u.dbg.refused = true ∧ u.ctxs = s.ctxs)) ∧
   (∀ (s : State) k c, s.haltedNow = some (k, c) → (∀ x ∈ (s.saveAll k).teams, ¬ (x.2.ctx = k ∧ x.2.core.isSome = true)) →
     ∃ u, exec .debugHaltComplete s = .next u ∧ u.dbg.haltDone = true ∧ u.mem = (s.saveAll k).mem ∧
       ∀ x, u.ctx? k = some x → x.halted = true ∧ x.halting = false) ∧
   (∀ (s : State) (k : Nat) (c : Ctx), s.ctx? k = some c → c.prot = true → c.state = .ending → s.sec.cmd = none → ∃ u, exec (.teardown k) s = .next u ∧
     (∀ x, u.ctx? k = some x → x.state = .scrubbing) ∧ (∀ x ∈ u.teams, x.2.ctx ≠ k) ∧ (∀ x ∈ u.sec.codeSeals, x.ctx ≠ k) ∧
     (∀ e ∈ u.tlb, e.ctx ≠ k))) ∧
  (∀ (s : State) (r : GRef) (t : Team) (g : Group) (f : FmtBI), s.current = some (r, t, g) →
     let on : Bool := s.dbg.bken && s.dbg.ctx = t.ctx
     (on = false → Completes (.bkpt f) s r t 1 s g) ∧
     (∀ c, s.ctx? t.ctx = some c → c.halting = true → Completes (.bkpt f) s r t 1 s g) ∧
     (∀ c, on = true → s.ctx? t.ctx = some c → c.halting = false → (c.state ≠ .live ∨ c.prot = true ∧ s.sec.mode ≠ 2) →
       Completes (.bkpt f) s r t 1 { s with dbg := { s.dbg with refused := true } } g) ∧
     (∀ c, on = true → s.ctx? t.ctx = some c → c.halting = false → c.state = .live → (c.prot = true → s.sec.mode = 2) →
       ∃ s' x, Completes (.bkpt f) s r t 1 s' g ∧ s'.dbg.halting = true ∧ s'.dbg.bkhit = true ∧ s'.dbg.bktag = f.imm11 ∧
         s'.ctx? t.ctx = some x ∧ x.halting = true ∧ s'.mem = s.mem))

/-- R208 to R210, R226 to R231, R376 to R378: a stopped team whose frame can be written is saved into it: it is on no core, and waits for its
pages or for room; a saved team returns to a core of its cluster that has room, and its groups have again the pc, the registers, the
predicates and the flags that the frame holds; what a group's record holds is what the group had; a pre-empted team is stopped and then
saved; a held page request goes out once the ring has room. Where the spec is silent it states the model's choice: log entries 43, 48, 49,
94. -/
def Obligations.TeamSwitching : Prop :=
  (∀ (s : State) (k : Nat) (t : Team) (c : Ctx), s.team? k = some t → s.ctx? t.ctx = some c → c.state = .live → c.pending = none →
    let body := s.frameBody k t
    let frame := c.frameAt t.frameSlot
    let pages := (joinPages t.missing (s.copyPages k)).take 32
    let saves (i : Instr) : Prop := ∀ ps es, c.prot = false → s.locks = [] → t.bars = [] → s.memWf = true → s.partials = [] →
      s.wordOwner = [] → s.l1 = [] → s.xlateRange none t.ctx (s.ctxWorld t.ctx) frame .write (272 + body.length) = .ok (ps, es) →
      ps.Nodup → (∀ p ∈ ps, s.isLost p = false) →
      ∃ u t', exec i s = .next u ∧ u.team? k = some t' ∧ t'.core = none ∧ t'.stopping = none ∧ t'.saves = t.saves + 1 ∧ t'.missing = pages ∧
        (pages = [] → t'.state = .saved ∧ t'.token = 0) ∧ (pages ≠ [] → t'.state = .suspended ∧ t'.token ≠ 0 ∧ t'.answered = false) ∧
        (∀ j p, j < body.length → ps[256 + j]? = some p → u.mem.read p = body[j]?.getD 0) ∧ (∀ p, p ∉ ps → u.mem.read p = s.mem.read p)
    (t.state = .running → t.stopping = some .page → t.ioToken = 0 → s.canSave k t = true → saves (.teamSuspend k)) ∧
    (t.state = .running → t.ioToken = 0 → t.stopping = none → s.preempts k = true →
      exec (.preemptSave k) s = .next (s.updTeam k fun t => { t with stopping := some .preempt })) ∧
    (t.state = .running → t.ioToken = 0 → t.stopping = some .preempt → s.canSave k t = true → saves (.preemptSave k)) ∧
    (∀ site f b, let parked := (s.parkList k).length
      c.prot = false → s.waitsReturn t = true → s.mayReturn k t site.core = true →
      (∀ u ∈ s.teams, ¬ (s.waitsReturn u.2 = true ∧ s.mayReturn u.1 u.2 site.core = true ∧ u.2.order < t.order)) →
      s.fits t.shape t.grid (some t.cluster) site = true → s.engRead t.ctx frame (t.shape.frameBytes parked) .read = .ok f →
      s.checkFrame c t parked f = .ok b →
      ∃ u t', exec (.teamRestore k site) s = .next u ∧ u.team? k = some t' ∧ t'.core = some site.core ∧ t'.missing = [] ∧ t'.token = 0 ∧
        t'.state = (if t.succ then .succeeding else .running) ∧
        ∀ i g, i < t.shape.g → t.groups[i]? = some g → ∃ h, t'.groups[i]? = some h ∧
          let num (off n : Nat) := bytesNum b (1024 * i + off) n
          let vec (r l : Nat) := bytesNum b (1024 * t.shape.g + 384 * t.shape.v * i + 384 * r + 4 * l) 4
          h.pc = BitVec.ofNat 64 (num 0 8) ∧ (∀ r, r < 60 → h.s r = BitVec.ofNat 64 (num (8 + 8 * r) 8)) ∧
          (∀ r, 60 ≤ r → r < 63 → h.s r = ((BitVec.ofNat 64 (num (8 + 8 * r) 8)).extractLsb' 0 32 &&& ~~~(g.exitedPart r)).zeroExtend 64) ∧
          (∀ q, 1 ≤ q → q < 8 → h.p q = BitVec.ofNat 96 (num (0x208 + 12 * q) 12)) ∧
          (∀ n, n < 12 → h.flagCount n = num (0x3DC + n) 1 % 64) ∧
          (∀ r l, r < t.shape.v → r < 64 → l < 96 → (h.v r).lane l = BitVec.ofNat 32 (vec r l)) ∧
          h.cvm = BitVec.ofNat 64 (num 0x3A8 8) ∧ h.srseed = BitVec.ofNat 64 (num 0x3B0 8) ∧ h.trapvec = BitVec.ofNat 64 (num 0x3B8 8) ∧
          h.trappc = BitVec.ofNat 64 (num 0x3C0 8) ∧ h.clause = none)) ∧
  (∀ g : Group, g.divTop.length ≤ 16 →
    let b := g.record
    b.length = 1024 ∧ bytesNum b 0 8 = g.pc.toNat ∧ (∀ r, r < 64 → bytesNum b (8 + 8 * r) 8 = (g.s r).toNat) ∧
    (∀ q, q < 8 → bytesNum b (0x208 + 12 * q) 12 = (g.p q).toNat) ∧ (∀ n, n < 12 → bytesNum b (0x3DC + n) 1 = g.flagCount n % 256) ∧
    bytesNum b 0x3A8 8 = g.cvm.toNat ∧ bytesNum b 0x3B0 8 = g.srseed.toNat ∧ bytesNum b 0x3B8 8 = g.trapvec.toNat ∧
    bytesNum b 0x3C0 8 = g.trappc.toNat ∧
    ∀ v r l, r < v → l < 96 → bytesNum (g.vectors v) (384 * r + 4 * l) 4 = ((g.v r).lane l).toNat) ∧
  (∀ s : State, (s.xlat.queue = [] → exec .pageRequestPost s = .next s) ∧
    ∀ q rest, s.xlat.queue = q :: rest →
      let x := s.xlat
      let size := 64 * 2 ^ (x.prqBase.toNat % 16)
      (size ≤ (x.tail - x.head).toNat → exec .pageRequestPost s = .next s) ∧
      ((x.tail - x.head).toNat < size → exec .pageRequestPost s = .next
        { s with comp := s.comp.writeN (x.prqBase.toNat / 4096 * 4096 + 32 * (x.tail.toNat % size)) (q.bytes x.seq),
                 xlat := { x with queue := rest, tail := x.tail + 1, seq := x.seq + 1 } }))

/-- R344 to R349, R351, R352, R358, R361, R363, R441: the command processor. A line is taken when its SEQ comes; a command starts in its queue's
order; a malformed one completes with status 1; each good one has its effect and completes with status 0, a LAUNCH when its grid has
retired. R347: the completion record of a command: its SEQ, status and detail, at the address that its line gives, in companion memory.
Where the spec is silent it states the model's choice: log entry 46. -/
def Obligations.CommandResults : Prop :=
  ((∀ (s : State) (q : Nat) (v : DWord), s.linkUp = true → q < 256 →
     exec (.cqbaseWrite q v) s = .next { s with te := { s.te with cq := s.te.cq.put q (((s.te.cq.get? q).getD cmdQ0).write v.toNat) } }) ∧
   (∀ (s : State) (q : Nat) x, s.linkUp = true → s.te.cq.get? q = some x → s.inService = true → x.en = true →
     let line := s.comp.readN (x.addr + 128 * (x.next % x.lines)) 128;
     bytesNum line 0x78 8 = x.next + 1 → ∃ u id c, exec (.cqLineTake q) s = .next u ∧ u.te.cq.get? q = some { x with next := x.next + 1 } ∧
       u.te.cmds.get? id = some c ∧ c.bytes = line ∧ c.queue = q ∧ c.line = x.next ∧ c.started = false ∧ sameMemory s u) ∧
   (∀ (s : State) (k : Nat) (c : Cmd), s.te.cmds.get? k = some c → s.mayStart k c = true →
     let op := c.f 0 1
     let ctx := c.f 4 4
     (op = 0 → c.bad [] = false → exec (.cmdNop k) s = .next (s.complete k 0 0)) ∧
     (op = 0 → c.bad [] = true → exec (.cmdNop k) s = .next (s.complete k 1 0)) ∧ (6 < op → exec (.cmdNop k) s = .next (s.complete k 1 0)) ∧
     (op = 2 → (newCtx c).prot = false → c.bad [(2, 2), (8, 0x3E)] = false → ctxRangesOk s c = true → s.sec.hold = false →
       s.worldScrubs (c.f 2 1) = false → s.worldProt (c.f 2 1) = false →
       exec (.ctxcreate k) s = .next ({ s with ctxs := s.ctxs.put ctx (newCtx c) }.complete k 0 0)) ∧
     (op = 3 → c.bad [] = false → (s.cmdCtx c).isSome = true → exec (.ctxdestroy k) s = .next (((s.startCmd k).cancelOps ctx).updCtx ctx
       fun x => { x with state := .ending, destroy := some k })) ∧
     (op = 4 → c.bad [(2, 1), (8, 2), (0x10, 16)] = false → c.f 2 1 = 0 → c.f 8 2 < 4096 → (s.cmdCtx c).isSome = true →
       s.te.handles.get? (c.f 8 2) = none → ∃ h : Handle, h.ctx = ctx ∧ h.writer = none ∧ h.readers = [] ∧
         exec (.handle k) s = .next ({ s with te := { s.te with handles := s.te.handles.put (c.f 8 2) h } }.complete k 0 0)) ∧
     (∀ x, op = 5 → c.bad [(2, 2), (8, 8)] = false → c.f 2 1 < 64 → 6 ≤ c.f 3 1 → c.f 3 1 ≤ 20 → c.f 8 8 % 4096 = 0 → c.f 8 8 < 2 ^ 56 →
       s.cmdCtx c = some x → x.tqMask.getLsbD (c.f 2 1) = true → (s.taskQ (c.f 2 1)).bound = false → ∃ q : TaskQ, q.bound = true ∧ q.head = 0 ∧
         q.tail = 0 ∧ exec (.tqbind k) s = .next ((s.putTaskQ (c.f 2 1) q).complete k 0 0)) ∧
     (op = 6 → c.bad [(2, 1), (8, 8), (0x10, 4)] = false → c.f 2 1 < 64 → c.f 8 8 % 64 = 0 → c.f 8 8 < 2 ^ 56 → 1 ≤ c.f 0x10 4 →
       c.f 0x10 4 ≤ 2 ^ 20 → exec (.tqpush k) s = .next (s.tqpush k c)) ∧
     (op = 1 → c.bad [(2, 2), (8, 0x15), (0x1E, 2), (0x20, 8), (0x30, 64)] = false → launchBad c = false → (s.cmdCtx c).isSome = true →
       s.handlesBad ctx c.handles = false → s.handlesReady c.handles = true →
       ∃ u id g, exec (.launch k) s = .next u ∧ u.grids.get? id = some g ∧ g.ctx = ctx ∧ g.entry = BitVec.ofNat 64 (c.f 8 8) ∧
         g.arg = BitVec.ofNat 64 (c.f 0x10 8) ∧ g.n = c.f 0x18 4 ∧ g.next = 0 ∧ g.cmd = some k ∧ g.shape = none ∧ sameMemory s u))) ∧
  (∀ (s : State) (k status detail : Nat) (c : Cmd), s.te.cmds.get? k = some c →
     let u := s.complete k status detail
     u.te.cmds = s.te.cmds.del k ∧ u.mem = s.mem ∧ u.teams = s.teams ∧
     (bitAt (c.f 1 1) 1 = true → c.f 0x70 8 % 16 = 0 → s.comp.wf = true →
       u.comp.num (c.f 0x70 8) 8 = c.f 0x78 8 % 2 ^ 64 ∧ u.comp.num (c.f 0x70 8 + 8) 1 = status % 256 ∧
       u.comp.num (c.f 0x70 8 + 9) 1 = detail % 256 ∧ u.comp.num (c.f 0x70 8 + 10) 6 = 0) ∧
     (bitAt (c.f 1 1) 1 = false → u.comp = s.comp))

/-- R15, R17, R18, R356, R359, R360, R366, R372, R449: grids. The header is read and checked and the grid takes its index; a launch that no
admitted cluster holds waits while clusters are untested, and is then refused with status 5; teams are placed while there is room; a task's
hamper is copied before it runs; a joining team frees its core once its operations have completed and is gone once its children are, and a
grid retires once its teams and children have, with the partials of its context combined into memory. Where the spec is silent it states the
model's choice: log entries 41, 44. -/
def Obligations.GridResults : Prop :=
  (∀ (s : State) (k : Nat) (g : Grid) x i, s.grids.get? k = some g → g.shape = none → g.token = 0 → g.failed = false → s.ctxLive g.ctx = true →
    g.index = some i → s.readHeader g.ctx g.entry false (g.width ≠ 0) { kib := g.memKiB } = .ok x → x.holdable = true →
    x.frameBytes 18 ≤ ((s.ctx? g.ctx).map (·.slotBytes)).getD 0 → s.hst.cladm ≠ 0 →
    exec (.gridStart k) s =
      .next ((s.passHeader g.ctx g.entry).updGrid k fun g => { g with shape := some x, index := some i, waitFrom := s.ref })) ∧
  (∀ (s : State) (k : Nat) (g : Grid) x, s.grids.get? k = some g → g.shape = none → g.token = 0 → g.failed = false → s.ctxLive g.ctx = true →
    s.readHeader g.ctx g.entry false (g.width ≠ 0) { kib := g.memKiB } = .ok x → x.frameBytes 18 ≤ ((s.ctx? g.ctx).map (·.slotBytes)).getD 0 →
    g.index ≠ none → (x.holdable = false ∨ s.hst.cladm = 0) →
    (s.hst.cladm ||| s.hst.clfail ≠ BitVec.allOnes 16 → exec (.gridStart k) s = .next s) ∧
    (s.hst.cladm ||| s.hst.clfail = BitVec.allOnes 16 → ∀ n, g.cmd = some n →
      exec (.gridStart k) s = .next ({ s with grids := s.grids.del k }.complete n 5 0))) ∧
  (∀ (s : State) (k : Nat) (g : Grid) x sites u, s.grids.get? k = some g → g.shape = some x → g.next < g.n → s.ctxRuns g.ctx = true →
    sites.length = g.blockTeams → (∀ a ∈ sites, ∀ b ∈ sites, clusterOf a.core = clusterOf b.core) →
    (∀ a ∈ sites, s.returnsFirst a.core g.priority = false) → s.placeTeams k x sites = some u → exec (.teamPlace k sites) s = .next u) ∧
  (∀ (s : State) (k : Nat) (t : Team), s.team? k = some t → t.state = .loading → t.core ≠ none → (∀ h ∈ t.hamper, h.bytes = 0) →
    (∀ x ∈ s.copies, x.2.team ≠ k) → exec (.hamperCopy k) s = .next (s.updTeam k fun t => { t with state := .running, hamper := [] })) ∧
  (∀ (s : State) (k : Nat) (t : Team), s.team? k = some t → s.ctxLive t.ctx = true →
    (t.state = .joining → t.core = none → t.children = [] → exec (.teamRetire k) s = .next (s.endTeam k t)) ∧
    (t.state = .joining → t.core ≠ none → s.teamQuiet k t = true →
      exec (.teamRetire k) s = .next (if t.children = [] then (s.freeTeam k t).endTeam k t else s.freeTeam k t)) ∧
    (t.state ≠ .joining → exec (.teamRetire k) s = .next s)) ∧
  (∀ (s : State) (k c : Nat) (g : Grid), s.grids.get? k = some g → g.shape ≠ none → g.next = g.n → g.live = 0 → g.children = [] →
    s.ctxLive g.ctx = true → g.cmd = some c → let bars : Tbl Barrier := s.bars.filter fun x => x.2.grid ≠ some k;
    let u : State := s.flushPartials fun p => p.ctx = g.ctx;
    (∀ p ∈ u.partials, p.ctx = g.ctx → p.bytes = 0) ∧ u.grids = s.grids ∧ u.bars = s.bars ∧
    exec (.gridRetire k) s = .next (({ u with grids := s.grids.del k, bars := bars }.tellParent k g).complete c 0 0)) ∧
  (∀ (s : State) (k : Nat) (g : Grid) (c : Ctx), s.grids.get? k = some g → g.parent ≠ none → g.shape ≠ none → g.next = 0 →
    s.ctx? g.ctx = some c → c.lookout ≤ s.ref - g.waitFrom →
    exec (.childPlacementTimeout k) s = .next (s.taskFault g.ctx 6 0xFF g.blockAt g.block))

/-! ### Memory, security and the host's side -/

/-- R381 to R386, R441, R447: the mailbox commands of a stack, the patrol, training, and the removal of lost lines and fenced frames. R392 to
R397, R403, R441: the retirement of a stack. GO is refused or begins; the cache is flushed first; each frame goes from OLD through DRAIN and
MOVING to NEW, and no byte of memory changes its value on the way. Where the spec is silent it states the model's choice: log entries 56,
57, 59. -/
def Obligations.StackResults : Prop :=
  ((∀ (s : State) (n : Nat) (x : Stack), s.stk.stackTab[n]? = some x → x.busy = true →
     let pa := (x.runArg.extractLsb' 7 41).toNat * 128;
     let stack (u : State) (f : Stack → Prop) : Prop := ∃ y, u.stk.stackTab[n]? = some y ∧ f y
     (x.cmd = 1 → ∃ u, exec (.telemetry n) s = .next u ∧ u.mem = s.mem ∧ stack u fun y => y.done = true ∧ y.busy = false ∧ y.result = 0 ∧
       y.resp.extractLsb' 16 32 = x.corrected) ∧
     (x.cmd = 2 → x.serves = true → exec (.scrub n) s = .next (s.updStack n fun y => { y.answer 0 0 with passes := y.passes + 1 })) ∧
     (x.cmd = 3 → x.serves = true → pa < s.stk.memcap → s.stackOf pa = n → ∃ u, exec (.repair n) s = .next u ∧ u.mem = s.mem ∧
       stack u fun y => y.done = true ∧ y.result = (if x.sparesLeft n = 0 then 3 else 0) ∧
         y.repaired = (if x.sparesLeft n = 0 then x.repaired else x.repaired ++ [pa])) ∧
     (x.cmd = 3 → x.serves = true → (s.stk.memcap ≤ pa ∨ s.stackOf pa ≠ n) → ∃ u, exec (.repair n) s = .next u ∧ stack u fun y => y.result = 4) ∧
     (x.cmd = 4 → x.serves = false → ∃ u, exec (.retrain n) s = .next u ∧ u.mem = s.mem ∧ stack u fun y => y.done = true ∧ y.result = 0 ∧ y.state = 1) ∧
     (x.cmd = 4 → x.serves = true → ∃ u, exec (.retrain n) s = .next u ∧ stack u fun y => y.result = 2)) ∧
   (∀ (s : State) (n : Nat) (x : Stack), s.stk.stackTab[n]? = some x →
     (x.serves = true → 0 < x.passes → exec (.patrolScrub n []) s = .next (s.updStack n fun y => { y with passes := y.passes - 1 })) ∧
     (x.serves = true → x.passes = 0 → x.patrolAt + dayCycles ≤ s.ref → exec (.patrolScrub n []) s =
       .next (s.updStack n fun y => { y with patrolAt := s.ref })) ∧
     (let late : Prop := s.stk.coldTrain = true ∧ s.stk.ready = false ∧ s.hst.stage = 2 ∧ s.stk.trainFrom + 3800000000 ≤ s.ref;
       (x.state = 1 → ¬ late → exec (.stackTrainingDone n) s = .next (s.updStack n fun x => { x with state := 2, patrolAt := s.ref })) ∧
       (x.state = 1 → late → exec (.stackTrainingDone n) s = .next (s.updStack n fun x => { x with state := 5 }) ∧
         exec (.stackTrainingTimeout n) s = .next (s.updStack n fun x => { x with state := 5 })))) ∧
   (∀ (s : State) (v : DWord), s.linkUp = true → s.stk.ready = false → exec (.llclr v) s = .next s ∧ exec (.frameclr v) s = .next s) ∧
   (∀ (s : State) (v : DWord), s.linkUp = true → s.stk.ready = true → s.sec.mode = 0 → s.mem.wf = true →
     (let line := (v.extractLsb' 7 41).toNat * 128;
       (∃ l ∈ s.stk.lost, l.line = line) → ∃ u, exec (.llclr v) s = .next u ∧ (∀ l ∈ u.stk.lost, l.line ≠ line) ∧
         (∀ a, line ≤ a → a < line + 128 → u.mem.read a = 0) ∧ ∀ a, (a < line ∨ line + 128 ≤ a) → u.mem.read a = s.mem.read a) ∧
     (let f := (v.extractLsb' 0 20).toNat;
       f ∈ s.stk.fenced → ∃ u, exec (.frameclr v) s = .next u ∧ f ∉ u.stk.fenced ∧
         (∀ a, f * 2 ^ 21 ≤ a → a < (f + 1) * 2 ^ 21 → u.mem.read a = 0) ∧
         ∀ a, (a < f * 2 ^ 21 ∨ (f + 1) * 2 ^ 21 ≤ a) → u.mem.read a = s.mem.read a)) ∧
   (∀ s : State, s.stk.ready = false → s.hst.stage = 2 → (∀ x ∈ s.stk.stackTab, x.state ≠ 0 ∧ x.state ≠ 1) → s.stk.coldTrain = true →
     6 ≤ (stacksOf s.stk.bringUp.active).length → s.hst.heldAcc = [] →
     ∃ u, exec .memoryReady s = .next u ∧ u.stk.ready = true ∧ u.hst.stage = 3 ∧ u.mem = s.mem)) ∧
  ((∀ (s : State) (v : DWord), let t := (v.extractLsb' 0 4).toNat;
     s.linkUp = true → v.getLsbD 4 = true → (s.stk.goErr t ≠ 0 → ∃ u, exec (.retirementGo v) s = .next u ∧ u.stk.retState = 5 ∧
       u.stk.retErr = BitVec.ofNat 4 (s.stk.goErr t) ∧ u.stk.memcap = s.stk.memcap ∧ u.mem = s.mem) ∧
     (s.stk.goErr t = 0 → ∃ u, exec (.retirementGo v) s = .next u ∧ u.stk.leaving = t ∧ u.stk.memcap = s.stk.memcap - 2 ^ 36 ∧
       (s.stk.cache ≠ 0 → u.stk.retState = 2 ∧ u.stk.flushing = true ∧ u.stk.migrating = s.stk.migrating) ∧
       (s.stk.cache = 0 → u.stk.retState = 3 ∧ u.stk.migrating = true ∧ u.stk.mphase = s.stk.mphase + 1))) ∧
   (∀ s : State, s.stk.flushing = true → ∃ u, exec .cacheFlush s = .next u ∧ u.stk.flushing = false ∧ u.stk.lines = [] ∧ u.stk.migrating = true ∧
     u.stk.retState = 3 ∧ u.mem = s.mem) ∧
   (∀ (s : State) f, s.stk.migrating = true → f < s.stk.total → f = s.stk.mig.length → s.stk.moving < 64 → ∃ u,
     exec (.frameMigrationSelect f) s = .next u ∧ u.stk.mig.get? f = some .drain ∧ (∀ p ∈ u.partials, overlaps p.addr p.bytes (f * 2 ^ 21) (2 ^ 21) = false) ∧
     (s.partials = [] → u.mem = s.mem)) ∧
   (∀ (s : State) f, s.stk.migrating = true → s.stk.mig.get? f = some .drain → (∀ p ∈ s.partials, p.addr / 2 ^ 21 ≠ f) →
     (∀ c ∈ s.contribs, c.2.held = true → c.2.unit / 2 ^ 21 ≠ f) →
     ∃ u, exec (.frameDrainEnd f) s = .next u ∧ u.stk.mig.get? f = some .moving ∧ u.mem = s.mem) ∧
   (∀ (s : State) f, s.stk.migrating = true → s.stk.mig.get? f = some .moving → s.hst.heldAcc = [] →
     ∃ u, exec (.frameCommit f) s = .next u ∧ u.mem = s.mem ∧ u.stk.mig.get? f = some .new ∧
       ∀ q ∈ u.reqs, q.2.addr / 2 ^ 21 = f → q.2.stalled = false))

/-- R405, R407, R408, R414, R417 to R420, R426, R427, R431, R432, R434, R436, R438: the security commands, which are judged when they commit,
the scrubs, which write unit after unit, and the errors of keys and of the network. Where the spec is silent it states the model's choice:
log entries 62, 65. -/
def Obligations.SecurityResults : Prop :=
  (∀ s : State, let f := s.secArg 0
    let w := s.secArg 1;
    let done (u : State) (n : Nat) : Prop := u.sec.cmd = none ∧ u.sec.job = none ∧ u.sec.done = true ∧ u.sec.result = n
    (∀ v : DWord, s.linkUp = true → s.sec.cmd = none → s.sec.job = none →
      let a (i : Nat) : Nat := (s.sec.args[i]?.getD 0).toNat
      let commits (n verdict : Nat) : Prop := ∃ u, exec (.registerWrite 0x70040 v) s = .next u ∧ u.sec.cmd = some n ∧ u.sec.runArgs = s.sec.args ∧
        u.sec.verdict = verdict ∧ u.sec.judged = s.liveProt (a 0) ∧ u.mem = s.mem
      (v.toNat % 256 = 1 → (a 1 = 0 ∨ 16 ≤ a 1 ∨ s.frameBad (a 0) = true) → commits 1 1) ∧
      (v.toNat % 256 = 1 → 1 ≤ a 1 → a 1 < 16 → s.frameBad (a 0) = false →
        ((s.sec.hold = true ∨ s.frameScrubs (a 0) = true ∨ s.worldScrubs (a 1) = true) → commits 1 2) ∧
        (s.sec.hold = false → s.frameScrubs (a 0) = false → s.worldScrubs (a 1) = false → commits 1 0)) ∧
      (v.toNat % 256 = 2 → s.frameBad (a 0) = true → commits 2 1) ∧
      (v.toNat % 256 = 2 → s.frameBad (a 0) = false → commits 2 (if s.frameScrubs (a 0) then 2 else 0)) ∧
      ((v.toNat % 256 = 3 ∨ v.toNat % 256 = 6) → commits (v.toNat % 256) (if s.liveProt (a 0) = none then 6 else 0)) ∧
      ((v.toNat % 256 = 4 ∨ v.toNat % 256 = 5) → commits (v.toNat % 256) 0) ∧
      ((v.toNat % 256 = 0 ∨ 7 ≤ v.toNat % 256) → exec (.registerWrite 0x70040 v) s = .next (s.secDone 1))) ∧
    (∀ p ∈ ([(1, .assign), (2, .unassign), (3, .attest), (6, .save)] : List (Nat × Instr)), s.secTake p.1 = true → s.sec.verdict ≠ 0 →
      exec p.2 s = .next (s.secDone s.sec.verdict)) ∧
    (s.secTake 1 = true → s.sec.verdict = 0 → s.stk.ready = true → ∃ u, exec .assign s = .next u ∧ done u 0 ∧
      (u.sec.owner.get? f = if w = 1 then (s.sec.owner.del f).get? f else some w) ∧ ∀ k x, (k, x) ∈ u.l1 → k % 2 ^ 40 * 4 / 2 ^ 21 ≠ f) ∧
    (s.secTake 2 = true → s.sec.verdict = 0 → s.stk.ready = true → s.sec.mode = 0 → s.mem.wf = true → ∃ u, exec .unassign s = .next u ∧
      done u 0 ∧ u.sec.owner = s.sec.owner.del f ∧ ∀ a, f * 2 ^ 21 ≤ a → a < (f + 1) * 2 ^ 21 → u.mem.read a = 0) ∧
    (∀ c p, s.secTake 3 = true → s.sec.verdict = 0 → s.sec.judged = some (c, p) → ∃ u, exec .attest s = .next u ∧ done u 0 ∧ u.mem = s.mem ∧
      u.comp = s.comp.writeN (s.secArg 2) (s.report f c p (s.comp.readN (s.secArg 1) 64)
        ++ padTo 132 ((Config.signature s.free (s.report f c p (s.comp.readN (s.secArg 1) 64))).take 132) ++ List.replicate 12 0)) ∧
    (s.secTake 4 = true → ∃ u, exec .identity s = .next u ∧ done u 0 ∧ u.comp = s.comp.writeN f identityPoint ∧ u.mem = s.mem) ∧
    (s.secTake 5 = true → ∃ u, exec .dbgunlock s = .next u ∧
      if s.tokenGood f (s.comp.readN f 272) = false then done u 8 ∧ u.sec.dbg = s.sec.dbg
      else if s.sec.mode = 0 then done u 4 ∧ u.sec.dbg = s.sec.dbg
      else u.sec.job = some .unlock ∧ u.sec.cmd = none ∧ u.sec.dbg = 1) ∧
    (s.sec.job = some .unlock → (∀ x ∈ s.ctxs, x.2.prot = false) → (∀ x ∈ s.sec.scrubs, x.reset = true) →
      ∃ u, exec .dbgUnlockComplete s = .next u ∧ done u 0 ∧ u.sec.dbg = 2) ∧
    (s.secTake 6 = true → s.sec.verdict = 0 → ∃ u, exec .save s = .next u ∧ u.sec.job = some (.save f) ∧ u.sec.cmd = none ∧ u.mem = s.mem ∧
      ∀ k t, (k, t) ∈ u.teams → t.ctx = f → t.state = .running → t.core ≠ none → t.stopping = some .security) ∧
    (∀ k, s.sec.job = some (.save k) → (s.liveProt k = none ∨ ∀ x ∈ s.teams, ¬ (x.2.ctx = k ∧ x.2.stopping = some .security)) →
      exec .save s = .next (s.secDone 0)) ∧
    (∀ k c, s.sec.job = some (.save k) → s.liveProt k = some c → (∃ x ∈ s.teams, x.2.ctx = k ∧ x.2.stopping = some .security) →
      exec .save s = .next s)) ∧
  (∀ (s : State) (v : DWord), s.linkUp = true → let n := (v.extractLsb' 8 2).toNat;
    (n < 2 ∨ n = 2 ∧ s.sec.dbg = 2 → exec (.secmodeWrite v) s = .next { s with sec := { s.sec with next := n } }) ∧
    (n = 3 ∨ n = 2 ∧ s.sec.dbg ≠ 2 → exec (.secmodeWrite v) s = .next s)) ∧
  (∀ (s : State) x rest, s.sec.scrubs = x :: rest →
    (s.sec.scrubbing = false → exec .scrubStart s = .next { s with sec := { s.sec with scrubbing := true } }) ∧
    (∀ r rs, s.sec.scrubbing = true → x.reset = false → x.ranges = r :: rs → s.stk.ready = true → x.at_ < r.units →
      (∃ u y, (s.planAct (.scrub 1)).1 = u ∧ u.sec.scrubs = y :: rest ∧ y.done = x.done + 1 ∧
        (x.at_ + 1 < r.units → y.ranges = r :: rs ∧ y.at_ = x.at_ + 1) ∧ (r.units ≤ x.at_ + 1 → y.ranges = rs ∧ y.at_ = 0) ∧
        (∀ core base n a, r = .spad core base n → core * 2 ^ 21 + base + 4096 * x.at_ ≤ a → a < core * 2 ^ 21 + base + min n (4096 * (x.at_ + 1)) →
          s.spad.wf = true → u.spad.read a = 0) ∧
        (∀ core phys a, r = .tiles core phys → s.tmem.wf = true →
          core * 393216 + phys[x.at_ / 6]?.getD 0 * 24576 + x.at_ % 6 * 4096 ≤ a →
          a < core * 393216 + phys[x.at_ / 6]?.getD 0 * 24576 + x.at_ % 6 * 4096 + 4096 → u.tmem.read a = 0) ∧
        (∀ f a, r = .frame f → s.sec.mode = 0 → s.mem.wf = true → f * 2 ^ 21 + 4096 * x.at_ ≤ a → a < f * 2 ^ 21 + 4096 * (x.at_ + 1) →
          u.mem.read a = 0)) ∧
      ∃ u y, exec .scrubRangeDone s = .next u ∧ u.sec.scrubs = y :: rest ∧ y.ranges = rs ∧ y.at_ = 0 ∧ y.done + x.at_ = x.done + r.units) ∧
    (s.sec.scrubbing = true → x.reset = false → x.ranges = [] → s.ctx? x.ctx = none → ∃ u, exec .scrubComplete s = .next u ∧ u.sec.scrubs = rest ∧
      u.sec.scrubbing = false ∧ ∀ f, ScrubRange.frame f ∈ x.all → s.sec.owner.wf = true → u.sec.owner.get? f = none) ∧
    (s.sec.scrubbing = true → x.reset = true → s.stk.ready = true → ∃ u, exec .resetScrub s = .next u ∧ u.mem = [] ∧ u.stk.lost = [] ∧
      u.stk.fenced = [] ∧ u.sec.scrubs = rest) ∧
    (s.sec.scrubbing = true → x.reset = true → s.stk.ready = true → x.done < x.total → ∃ y : Scrub, y.done = x.done + 1 ∧ y.total = x.total ∧
      (s.planAct (.scrub 1)).1.sec.scrubs = y :: rest)) ∧
  (∀ (s : State) slot, s.sec.mode = 0 → exec (.keyStoreError slot) s = .next (s.zeroKey slot)) ∧
  (∀ (s : State) slot k (c : Ctx), s.sec.mode ≠ 0 → s.ctxs = [(k, c)] → c.needsSlot slot = true → c.state = .live → c.pending = none →
    ∃ u x e, exec (.keyStoreError slot) s = .next u ∧ u.ctx? k = some x ∧ x.pending = some e ∧ e.code = .key ∧ u.sec.keys = s.sec.keys.del slot) ∧
  (∀ (s : State) src dst w msg, s.sec.mode ≠ 0 →
    let n := flowNumber s.sec.sends (src, dst, w)
    let u := (s.planAct (.netSend src dst w msg)).1
    let key := (s.sec.keys.get? (16 + w)).getD 0
    let iv := leBytes 12 (BitVec.ofNat 12 src ++ BitVec.ofNat 12 dst ++ BitVec.ofNat 4 w ++ 0#4 ++ BitVec.ofNat 64 n : BitVec 96).toNat
    let body := (Config.cipher key (iv ++ msg)).take msg.length
    u.sec.wire = s.sec.wire ++ [⟨src, dst, w, n, body, (Config.digest key (iv ++ body)).take 8⟩] ∧
    flowNumber u.sec.sends (src, dst, w) = (n + 1) % 2 ^ 64 ∧ sameMemory s u) ∧
  (∀ (s : State) src dst w (n : BitVec 64) ok, (s.sec.mode = 0 → exec (.networkMessageArrival src dst w n ok) s = .next s) ∧
    (s.sec.mode ≠ 0 → ok = true → n.toNat = s.flowNext (src, dst, w) → ∃ u, exec (.networkMessageArrival src dst w n ok) s = .next u ∧
      ((src, dst, w), (n.toNat + 1) % 2 ^ 64) ∈ u.sec.flows ∧ u.ctxs = s.ctxs) ∧
    (∀ k c, s.sec.mode ≠ 0 → (ok = false ∨ n.toNat ≠ s.flowNext (src, dst, w)) → s.ctxs = [(k, c)] → c.world = w → c.state = .live →
      c.pending = none → ∃ u x e, exec (.networkMessageArrival src dst w n ok) s = .next u ∧ u.ctx? k = some x ∧ x.pending = some e ∧
        e.code = .machine ∧ u.sec.flows = s.sec.flows))

/-- R441 to R452: resets, and what they keep, the load of firmware, the link, the clusters and their clocks. R409, R440 to R442: register
accesses of 8 aligned bytes, and accesses of the companion to device memory: one that is barred, or of another form, is refused and counted,
a write stores its bytes and a read answers them; over a link that is down nothing passes. Where the spec is silent it states the model's
choice: log entries 54, 60, 61, 64, 67. -/
def Obligations.HostResults : Prop :=
  ((∀ s : State, let all : BitVec 16 := BitVec.allOnes 16;
     let ends (u : State) : Prop := u.ctxs = [] ∧ u.teams = [] ∧ u.grids = [] ∧ u.ops = [] ∧ u.te.cmds = [] ∧ u.comp = s.comp ∧ u.hst.link = 0 ∧
       u.sec.version = s.sec.version ∧ (∀ (n : Nat) x, s.stk.stackTab[n]? = some x → ∃ y, u.stk.stackTab[n]? = some y ∧ y.repaired = x.repaired) ∧
       (∀ x ∈ s.sec.scrubs, x.reset = false → { x with ranges := x.all, done := 0, at_ := 0 } ∈ u.sec.scrubs)
     let cold (u : State) (cache : Nat) : Prop := ends u ∧ u.mem = [] ∧ u.hst.stage = 0 ∧ u.hst.prevCache = cache ∧ u.stk.memcap = 0 ∧ u.stk.lost = [] ∧
       u.sec.mode = 0 ∧ u.hst.refused = 0 ∧ ∀ k, u.sec.keys.get? k = none
     let warm (u : State) : Prop := ends u ∧ u.hst.stage = (if s.hst.stage = 7 then 7 else if s.hst.stage = 0 ∨ s.hst.stage = 1 then 0 else 2) ∧
       u.sec.mode = s.sec.next ∧ u.sec.next = s.sec.next ∧
       (s.sec.mode = 0 → s.sec.next = 0 → s.memWf = true → ∀ a, a < 2 ^ 40 → u.mem.read a = s.mem.read a) ∧
       (s.sec.next ≠ s.sec.mode → u.mem = [] ∧ u.stk.lost = [] ∧ u.stk.fenced = []) ∧
       (s.sec.next = s.sec.mode → u.stk.lost = s.stk.lost ∧ u.stk.fenced = s.stk.fenced) ∧
       (s.sec.next = s.sec.mode → s.sec.mode ≠ 0 → u.sec.hold = true ∧ ∃ x ∈ u.sec.scrubs, x.reset = true) ∧
       (∀ k, k < 46 → k ≠ 0 → k ≠ 1 → k ≠ 16 → k ≠ 17 → u.sec.keys.get? k = none) ∧ u.sec.fwmat = s.sec.fwmat ∧ u.sec.fwDigest = s.sec.fwDigest ∧
       u.stk.seed = s.stk.seed ∧ u.stk.cache = s.stk.cache ∧ u.stk.nextCache = s.stk.nextCache ∧ u.stk.active = s.stk.active ∧
       u.stk.memcap = s.stk.memcap ∧ u.stk.mphase = s.stk.mphase ∧ u.stk.stalls = s.stk.stalls ∧ u.stk.replays = s.stk.replays ∧ u.stk.ready = false ∧
       (∀ (n : Nat) x, s.stk.stackTab[n]? = some x → x.state = 4 ∨ x.state = 5 → ∃ y, u.stk.stackTab[n]? = some y ∧ y.state = x.state) ∧
       u.hst.refused = s.hst.refused ∧ u.hst.clfail = s.hst.retiredCl ∧
       (∀ (n : Nat) p, s.fab.ports[n]? = some p → ∃ q, u.fab.ports[n]? = some q ∧ q.cerr = p.cerr) ∧
       (∀ (n : Nat) p, s.fab.pilots[n]? = some p → ∃ q, u.fab.pilots[n]? = some q ∧ q.img = p.img ∧ q.state = p.state ∧ q.verified = p.verified ∧
         (p.mem.wf = true → ∀ a, a < 65536 → q.mem.read a = p.mem.read a))
     (∀ n mhz i, s.islands.get? n = some i → (i.state = 1 ∨ i.state = 2) → mhz ≠ 0 → ∃ u j, exec (.islandCap n mhz) s = .next u ∧
       u.islands.get? n = some j ∧ j.limit = min mhz.toNat 1900 ∧ j.mhz = min (if s.hst.stage = 4 then 1900 else 1200) mhz.toNat ∧
       j.state = (if j.mhz < 1900 then 2 else 1) ∧ u.mem = s.mem) ∧
     (∃ u, exec .powerOn s = .next u ∧ cold u 0) ∧
     (∀ v : DWord, s.linkUp = true → v.getLsbD 1 = true → ∃ u, exec (.rstctlCold v) s = .next u ∧ cold u s.stk.nextCache) ∧
     (∀ v : DWord, s.linkUp = true → v.getLsbD 0 = true → v.getLsbD 1 = false →
       ((s.hst.stage = 0 ∨ s.hst.stage = 1) → exec (.rstctlWarm v) s = .next s) ∧
       (s.hst.stage ≠ 0 → s.hst.stage ≠ 1 → ∃ u, exec (.rstctlWarm v) s = .next u ∧ warm u)) ∧
     (∃ u, exec .boardReset s = .next u ∧ warm u) ∧
     (∀ v : DWord, s.linkUp = true → v.getLsbD 0 = true → (s.hst.stage = 0 ∨ s.hst.stage = 7) → exec (.fwload v) s =
       .next { s with hst := { s.hst with stage := 1, cause := 0, loadAt := (v.extractLsb' 6 42).toNat * 64 } }) ∧
     (s.linkUp = true → s.hst.stage = 1 → ∃ u, exec .firmwareLoadDone s = .next u ∧ match s.checkLoad with
        | .error c => u = { s with hst := { s.hst with stage := 7, cause := c } }
        | .ok _ => u.hst.stage = 2 ∧ u.mem = s.mem ∧ u.sec.mode = bytesNum (s.comp.readN s.hst.loadAt 64) 0x18 1) ∧
     (∀ ver lanes : BitVec 8, (s.hst.link = 0 ∨ s.hst.link = 1) → (ver = 1 ∨ ver = 2) → 16 ≤ lanes.toNat → lanes.toNat ≤ 24 →
       exec (.linkTrainingDone ver lanes) s =
         .next { s with hst := { s.hst with ver := ver, lanes := lanes, link := if lanes.toNat = 24 then 2 else 3, chg := true } }) ∧
     ((s.hst.link = 2 ∨ s.hst.link = 3) → 16 < s.hst.lanes.toNat → ∃ u, exec .linkLaneFailure s = .next u ∧ u.hst.lanes = s.hst.lanes - 1 ∧
       u.hst.link = 3) ∧
     ((s.hst.link = 2 ∨ s.hst.link = 3) → s.hst.lanes.toNat ≤ 16 → ∃ u, exec .linkLaneFailure s = .next u ∧ u.hst.lanes = 0 ∧ u.hst.link = 1) ∧
     (∀ cl, cl < 16 → s.hst.testing cl = true → (∃ u, exec (.clusterSelfTest cl true) s = .next u ∧ u.hst.cladm.getLsbD cl = true ∧
       u.hst.clfail.getLsbD cl = false ∧ u.mem = s.mem) ∧ ∃ u, exec (.clusterSelfTest cl false) s = .next u ∧ u.hst.clfail.getLsbD cl = true ∧
         u.hst.cladm = s.hst.cladm) ∧
     ((s.hst.stage = 2 ∨ s.hst.stage = 3) → exec .mxcalSet s = .next { s with mxcal := true }) ∧
     (s.hst.stage = 3 → s.mxcal = true → s.hst.cladm ||| s.hst.clfail = all → ∃ u, exec .fullService s = .next u ∧ u.hst.stage = 4 ∧ u.mem = s.mem ∧
       u.teams = s.teams) ∧
     (∀ v : DWord, let cl := (v.extractLsb' 0 4).toNat;
       (s.linkUp = true → v.getLsbD 4 = true → s.hst.cladm.getLsbD cl = true → s.hst.cladm &&& ~~~(1#16 <<< cl) ≠ 0 → s.hst.retiring = none → exec (.clretGo v) s =
         .next { s with hst := { s.hst with cladm := s.hst.cladm &&& ~~~(1#16 <<< cl), retiring := some cl } }) ∧
       (s.linkUp = true → v.getLsbD 5 = true → s.hst.retiredCl.getLsbD cl = true → s.hst.retiring = none → exec (.clretReadmit v) s =
         .next { s with hst := { s.hst with retesting := s.hst.retesting ||| (1#16 <<< cl) } })))) ∧
  ((∀ (s : State) off (v : DWord), s.linkUp = true → (off % 8 = 0 → off < 2 ^ 20 → exec (.registerWrite off v) s = .next (s.writeReg off v)) ∧
     ((off % 8 ≠ 0 ∨ 2 ^ 20 ≤ off) → exec (.registerWrite off v) s = .next s)) ∧
   (∀ (s : State) (a : CompAccess) off (v : DWord), s.hst.link ≠ 2 → s.hst.link ≠ 3 → exec (.companionAccess a) s = .next s ∧
     exec (.registerWrite off v) s = .next s) ∧
   (∀ (s : State) (a : CompAccess), (s.hst.link = 2 ∨ s.hst.link = 3) →
     (a.reg = true → (a.addr % 8 ≠ 0 ∨ (if a.write then a.data.length else a.bytes) ≠ 8) → ∃ u, exec (.companionAccess a) s = .next u ∧ sameMemory s u ∧
       u.hst.refused = min (s.hst.refused + 1) (2 ^ 32 - 1) ∧ u.hst.errWrite = a.write ∧ u.ctxs = s.ctxs) ∧
     (a.reg = true → a.addr % 8 = 0 → a.write = true → a.data.length = 8 → exec (.companionAccess a) s =
       .next (s.writeReg a.addr (BitVec.ofNat 64 (leNat a.data)))) ∧
     (a.reg = true → a.addr % 8 = 0 → a.write = false → a.bytes = 8 → ∃ u, exec (.companionAccess a) s = .next u ∧
       u.hst.answers = s.hst.answers ++ [some (leBytes 8 (s.readReg a.addr).toNat)] ∧ sameMemory s u) ∧
     (a.reg = false → s.stk.ready = false → ∃ u, exec (.companionAccess a) s = .next u ∧ u.hst.heldAcc = s.hst.heldAcc ++ [a] ∧ sameMemory s u) ∧
     (a.reg = false → s.stk.ready = true → s.stk.migrating = false → a.write = true →
       (∀ pa ∈ linesIn a.addr a.data.length, s.companionBarred true pa = false) → s.partials = [] → s.wordOwner = [] →
       ∃ u, exec (.companionAccess a) s = .next u ∧ u.mem = s.mem.writeN a.addr a.data) ∧
     (a.reg = false → s.stk.ready = true → s.stk.migrating = false → a.write = false →
       (∀ pa ∈ linesIn a.addr a.bytes, s.companionBarred false pa = false) → s.partials = [] → s.wordOwner = [] →
       ∃ u, exec (.companionAccess a) s = .next u ∧ u.mem = s.mem ∧ u.hst.answers = s.hst.answers ++ [some (s.mem.readN a.addr a.bytes)]) ∧
     (∀ pa, a.reg = false → s.stk.ready = true → s.stk.migrating = false → pa ∈ linesIn a.addr (if a.write then a.data.length else a.bytes) →
       s.companionBarred a.write pa = true → ∃ u, exec (.companionAccess a) s = .next u ∧ sameMemory s u ∧
         u.hst.refused = min (s.hst.refused + 1) (2 ^ 32 - 1))))

/-! ### The machine as a whole -/

/-- R63 to R65, R75, R76, R81, R131, R151, R188, R252, R264, R364 with log entry 5: a step is the turn of the schedule that is due (after the
work that needs no turn), and the instruction of that turn: of the turns of one cycle the head of the schedule, unless its event has a place
in an order that the spec fixes within a cycle, where the turn that no other of the cycle comes before goes. A group with an open clause
runs the instruction that its clause's words decode to; at a clause boundary it runs the CLAUSE header at its PC. With no turn left, the
partition of the group at hand issues, if that group is ready, and the group that R131 picks there goes; else the group at hand looks at
what holds it again. The rest of the step is the clocks. Where the spec is silent it states the model's choice: log entries 5, 11. -/
def Obligations.StepRunsDecoded : Prop :=
  (∀ (s u : State) i, s.plan = (u, some i) → step s = exec i u) ∧
  (∀ s u : State, s.plan = (u, none) → step s = .next u) ∧
  (∀ (s : State) x rest, let v : State := { s.background with late := false }; v.sched = x :: rest →
    ∃ a left, (v.tick x.dt).nextTurn x rest = (a, left) ∧ s.plan = ({ v.tick x.dt with sched := left }).planAct a ∧
      (∃ n : Nat, (({ x with dt := 0 } :: rest.takeWhile (·.dt = 0))[n]?).map (·.act) = some a ∧
        left = ({ x with dt := 0 } :: rest).eraseIdx n ∧
        ∀ k, (v.tick x.dt).turnKey a = some k → ∀ y ∈ rest.takeWhile (·.dt = 0), ∀ k', (v.tick x.dt).turnKey y.act = some k' →
          k'.before k = false) ∧
      ((v.tick x.dt).turnKey x.act = none → a = x.act ∧ left = rest)) ∧
  (∀ (s : State) r, let v : State := { s.background with late := false }; v.sched = [] → v.cur = some r →
    (∀ t g, (v.tick 1).team? r.team = some t → (v.tick 1).group? r = some g →
      ((v.tick 1).ready t r.grp g = true → s.plan = (v.tick 1).planAct (.issue t.coreN (t.partOf r.grp) false)) ∧
      ((v.tick 1).ready t r.grp g = false → s.plan = (v.tick 1).planAct (.retry r))) ∧
    ((v.tick 1).group? r = none → s.plan = (v.tick 1, none))) ∧
  (∀ (s : State) core p late,
    (s.pick core p = none → s.planAct (.issue core p late) = (s, none)) ∧
    (∀ r t g, s.pick core p = some (r, t, g) → s.planAct (.issue core p late) =
      { (s.putPart core p { s.part core p with last := t.slot * 32 + r.grp }) with late := late }.groupNext r)) ∧
  (∀ (s : State) i, s.planAct (.event i) = (s, some i)) ∧
  (∀ (s : State) r t g c i rest, s.team? r.team = some t → t.groups[r.grp]? = some g → g.retired = false → g.clause = some c →
    decodeRaw (c.words.drop c.off) = .ok (i, rest) → s.groupNext r = ({ s with cur := some r }, some i)) ∧
  (∀ (s : State) r t g w es, s.team? r.team = some t → t.groups[r.grp]? = some g → g.retired = false → g.clause = none → g.mask ≠ 0 →
    rpc (s.stack t r.grp g) ≠ some g.pc → t.stopping = none → s.fetchWord t g.pc.toNat = .ok (w, es) → isHeader w = true →
    ∃ u, s.groupNext r = (u, some (.clause (FmtBC.unpack w))) ∧ u.cur = some r ∧ u.group? r = some g.landed ∧ sameMemory s u)

/-- R64, R65, R68, R72, R84: words written out from the layouts decode to the instructions they stand for. -/
def Obligations.DecodeWords : Prop :=
  -- v5 := v6 + v7 under predicate 3 inverted: SB 0, PN 1, PG 3, B 7, A 6, D 5, OP 0x30, LEN 00
  decode [0b0_1_011_000111_000110_000101_0110000_00#32] =
    .ok (.vadd ⟨0, 1, 3, 7, 6, 5, .base⟩, []) ∧
  -- JMP with OFF23 = -2
  decode [0b11111111111111111111110_0000011_00#32] = .ok (.jmp (-2), []) ∧
  -- CLAUSE of 8, SETB none, SETA 2, waiting on flag 11
  decode [0b111_1111_0010_100000000000_0000001_00#32] = .ok (.clause ⟨7, 15, 2, 0x800⟩, []) ∧
  -- SADD with a literal
  decode [0b0_0_000_000000_000010_000001_0010000_01#32, 0x89ABCDEF#32, 0x01234567#32] =
    .ok (.sadd ⟨0, 0, 0, 0, 2, 1, .baseLit 0x0123456789ABCDEF⟩, []) ∧
  -- qsteal s4, s2, s3, the example of R367
  decode [0x006109FA#32, 0x00000440#32, 0#32] =
    .ok (.qsteal ⟨0, 0, 0, 3, 2, 4, .ext { Word1.zero with sub := 17 } Word2.zero⟩, []) ∧
  -- SUB 5 of the predicate operations is not assigned: ILL_OP, reported in word 1
  decode [0b0_0_000_000000_000000_000000_0101000_10#32, 0b000101_000000#32, 0#32] = .error (.bad .illOp 1) ∧
  -- opcode 0x27 is not assigned
  decode [0b0100111_00#32] = .error (.bad .illOp 0)

/-- R64, R65, R68, R72, R84, R85: for every instruction that has words and passes the checks on its words, decoding its words gives it back,
with every field at every value, whatever words follow. -/
def Obligations.DecodeEncode : Prop :=
  ∀ i rest, encode i ≠ [] → wellFormed i = true → decode (encode i ++ rest) = .ok (i, rest)

/-- R64, R65, R68, R72, R84, R85: what the decoder reads from words, the encoder writes as those words: no two words stand for one instruction,
and the decoder drops no bit. -/
def Obligations.EncodeDecode : Prop :=
  ∀ ws i rest, decodeRaw ws = .ok (i, rest) → encode i ++ rest = ws

/-- R64: LEN, bits [1:0] of the first word, fixes how many words an instruction has and their order, lowest address first; bits [8:2] hold OP; a
CLAUSE header has LEN 00. -/
def Obligations.InstructionLength : Prop :=
  ∀ (w : Word) ws i rest, decodeRaw (w :: ws) = .ok (i, rest) →
    let len := w.extractLsb' 0 2
    ws.length = rest.length + (if len = 0 then 0 else if len = 3 then 4 else 2) ∧ opOf i = (w.extractLsb' 2 7).toNat ∧
    (∀ f, i = .clause f → len = 0) ∧
    (∀ op al f, brRow i = some (op, al, f) →
      (len = 0 → f.tail = .base ∧ ws = rest) ∧
      (len = 1 → ∃ lo hi, ws = lo :: hi :: rest ∧ f.tail = .baseLit (hi ++ lo)) ∧
      (len = 2 → ∃ a b, ws = a :: b :: rest ∧ f.tail = .ext (Word1.unpack a) (Word2.unpack b)) ∧
      (len = 3 → ∃ a b lo hi, ws = a :: b :: lo :: hi :: rest ∧ f.tail = .extLit (Word1.unpack a) (Word2.unpack b) (hi ++ lo)))

/-- R2, R26, R33, log entry 2: every step keeps every byte memory in its canonical form: addresses strictly rising, no entry equal to what an
unlisted address reads as. Where the spec is silent it states the model's choice: log entry 2. -/
def Obligations.MemoryInvariant : Prop :=
  ∀ s u : State, s.memWf = true → step s = .next u → u.memWf = true

/-- R160, R207, R399, R405, R409, R443, R444: what a cold reset leaves, where the spec gives a value: stage 0, the link down, no firmware, no
context, team, grid or lock, no interrupt cause, debug bits clear, empty queues, MEMSTAT not ready and NEXTCACHE 0. The state after reset
has its memories in canonical form and nothing listed in them. Where the spec is silent it states the model's choice: log entries 2, 3. -/
def Obligations.ResetValues : Prop :=
  (let s := State.reset;
   s.hst.stage = 0 ∧ s.hst.cause = 0 ∧ s.hst.link = 0 ∧ s.hst.refused = 0 ∧ s.ctxs = [] ∧ s.teams = [] ∧ s.grids = [] ∧ s.locks = [] ∧
   s.bars = [] ∧ s.ops = [] ∧ s.dbg.bken = false ∧ s.dbg.halting = false ∧ s.sec.dbg = 0 ∧ s.stk.ready = false ∧ s.stk.nextCache = 0 ∧
   s.ref = 0 ∧ s.fab.ports.length = 40 ∧ s.fab.pilots.length = 40 ∧ s.xlat.head = 0 ∧ s.xlat.tail = 0 ∧ s.xlat.busy = false) ∧
  (State.reset.memWf = true ∧ ∀ a, State.reset.mem.read a = 0)

/-- R405, R406, R409, R410, R440: an instruction of a program writes nothing of the security controller (mode, firewall matrix, owners of
frames, keys), of the host link and reset registers, of the translation registers, of the companion's memory, or of the clocks: only events
and the companion do. Nor does it change the turns that the schedule has left. -/
def Obligations.ProgramsAreConfined : Prop :=
  ∀ i (s u : State), encode i ≠ [] → exec i s = .next u →
    u.sec = s.sec ∧ u.hst = s.hst ∧ u.xlat = s.xlat ∧ u.comp = s.comp ∧ u.islands = s.islands ∧ u.ref = s.ref ∧ u.sched = s.sched

/-- R410: no instruction and no event but the end of a firmware load and a cold reset (which leaves stage 0) changes the firewall matrix. -/
def Obligations.FirewallStands : Prop :=
  ∀ i (s u : State), i ≠ .firmwareLoadDone → exec i s = .next u → u.sec.fwmat = s.sec.fwmat ∨ u.hst.stage = 0

/-! ### Where every form completes -/

/-- R66, R74, R79, R88, R113, R150, R170, R173, R188, R196, R223, R234, R254: the instructions of a program complete. A vector instruction
writes the selected lanes of v[D], or p[D], or s[D], at once; an SFU instruction, with room on its flag, is recorded as outstanding. An
access whose checks pass, and that nothing holds, is recorded as outstanding on its flag, and its group goes on. A fence completes with
nothing to wait for, a barrier instruction for a member, a lock instruction where the lock admits it, a ring instruction on a slot in its
state, and a copy with a place in the queue. SRD completes for every register of R88, SWR for a writable one with a legal value. R264, R272,
R275, R276, R280, R305, R316, R326, R345, R362, R364: the instructions of the tensor unit, the vocabulary unit, the fabric and the task
engine, whose checks pass and that nothing holds, are recorded as outstanding, and their groups go on. -/
def Obligations.FormsComplete : Prop :=
  (∀ (s : State) (r : GRef) (t : Team) (g : Group) (f : FmtBR), s.current = some (r, t, g) →
     let m := g.sel f
     let d := f.d.toNat
     let fs : Bool := f.w1.fs = 1
     let n := accBytes f
     let a := g.s f.a.toNat
     let x : Int := a.toNat + f.off24
     let acq : Bool := f.w1.acq = 1
     let after := if f.w1.rel = 1 then s.outstanding r else []
     let issued (i : Instr) (len : Nat) (fs : Bool) : Prop := ∃ s', Completes i s r t len s' (g.raiseFlag fs)
     (∀ i ∈ ([.vfadd f, .vfsub f, .vfmul f, .vfma f, .vfdot2 f, .vfmin f, .vfmax f, .vfclass f, .vfrnd f, .vfscale f, .vshuf f, .vbcast f, .vrot f,
         .vscan f, .vexpand f, .ateval f] : List Instr), ∃ y, Completes i s r t f.len s (g.setV d m y)) ∧
     (∃ c, Completes (.vfcmp f) s r t f.len s (g.setP d c)) ∧ (∃ y, Completes (.vred f) s r t f.len s (g.setS d y)) ∧
     (∃ k y, Completes (.vcompact f) s r t f.len s (g.setV d k y)) ∧
     (∃ y p, Completes (.vmatch f) s r t f.len s ((g.setV d m y).setP f.c.toNat p)) ∧
     (∀ i ∈ ([.vfcvt f, .vicvt f, .vfpack f] : List Instr), ∃ g', Completes i s r t f.len s g' ∧ g'.sreg = g.sreg ∧ g'.preg = g.preg) ∧
     (g.flagFull fs = false → ∀ i ∈ ([.vfrcp f, .vfrsq f, .vfsqrt f, .vfexp2 f, .vflog2 f, .vfsin f, .vfcos f, .vftanh f] : List Instr),
       (m.lanes = [] → Completes i s r t f.len s g) ∧ (m.lanes ≠ [] → issued i f.len fs)) ∧
     (∀ p : FmtPair, isSfu p.y.op.toNat = false → ∃ g', Completes (.pair p) s r t 3 s g') ∧
     (g.waiting = false → m ≠ 0 → a.toNat % 16 = 0 → a.toNat + tableBytes ≤ t.shape.mem → s.engineHeld r = false → ∃ s' g' u,
       Stays (.atload f) s r t f.len s' g' ∧ g'.waiting = true ∧ s'.team? r.team = some u ∧ u.atq = t.atq ++ [⟨r.grp, a.toNat⟩]) ∧
     -- loads, stores, atomics and reductions
     (∀ u us, let all := u :: us
       let lanes := m.lanes.map fun l => (l, laneX f g l)
       (s.checkAll t r.grp f.mod.toNat n { write := false } lanes = .ok all → s.memStalled r g fs acq n all = false → issued (.ld f) f.len fs) ∧
       (s.checkAll t r.grp f.mod.toNat n { write := true } lanes = .ok all → s.memStalled r g fs false n all = false → issued (.st f) f.len fs) ∧
       (s.checkOne t r.grp f.mod.toNat n { write := false } x = .ok all → s.memStalled r g fs acq n all = false → issued (.ldsExt f) f.len fs) ∧
       (s.checkOne t r.grp f.mod.toNat n { write := true } x = .ok all → s.memStalled r g fs false n all = false → issued (.stsExt f) f.len fs) ∧
       (s.checkOne t r.grp 0 n { write := true, atom := true } x = .ok all → s.memStalled r g fs acq n [u] = false → issued (.atom f) f.len fs) ∧
       (s.checkOne t r.grp 0 n { write := true, red := true } x = .ok all → s.memStalled r g fs false n [u] = false → issued (.red f) f.len fs) ∧
       (s.checkOne t r.grp 0 4 { write := true, red := true, seq := true } x = .ok all → s.memStalled r g fs false 4 [u] = false →
         s.allDone after = true → issued (.redFadd f) f.len fs) ∧
       (∀ k : FmtBI, let y : Int := (g.s k.a.toNat).toNat + k.imm11.toInt
         (s.checkOne t r.grp 0 8 { write := false } y = .ok all → s.memStalled r g false false 8 all = false → issued (.lds k) 1 false) ∧
         (s.checkOne t r.grp 0 8 { write := true } y = .ok all → s.memStalled r g false false 8 all = false → issued (.sts k) 1 false))) ∧
     (∀ va reg, g.flagFull fs = false → s.where_ t.coreN (BitVec.ofInt 64 x) 1 = .ok (.virt va reg) → ∃ s', Completes (.pref f) s r t f.len s' g) ∧
     -- fences and barriers
     (s.loadsOut r = false → Completes (.fenceAcq f) s r t f.len (s.acquireCore t.coreN) g.acquired) ∧
     (s.copiesOut r = false → Completes (.fenceCopy f) s r t f.len (s.acquireCore t.coreN) g.acquired) ∧
     (s.outstanding r = [] → Completes (.fenceRel f) s r t f.len s g ∧ Completes (.fenceAr f) s r t f.len (s.acquireCore t.coreN) g.acquired) ∧
     (s.farOut r = false → Completes (.fenceTier f) s r t f.len s g) ∧
     -- special registers
     (∀ k : FmtBS, let x := g.s k.r.toNat
       (srKnown k.num.toNat = true → ∃ g', Completes (.srd k) s r t 1 s g' ∧ g'.preg = g.preg) ∧
       ((k.num.toNat = 0x11 ∨ k.num.toNat = 0x10 ∧ cvmOk x = true ∨ k.num.toNat = 0x24 ∧ cfgOk x = true ∨
           (k.num.toNat = 0x20 ∨ k.num.toNat = 0x22) ∧ codeAddrOk x = true) →
         ∃ g', Completes (.swr k) s r t 1 s g' ∧ g'.sreg = g.sreg ∧ g'.vreg = g.vreg ∧ g'.preg = g.preg)) ∧
     (∀ k b q, t.bars.get? f.w2.imm.toNat = some k → s.bars.get? k = some b →
       (g.waiting = false → b.member? r = some q → b.inert = false →
         (q.inPhase = false → Completes (.barArrive f) s r t f.len (s.putBar k (b.arrive r q (s.outstanding r) s.ref)) g) ∧
         Completes (.barDrop f) s r t f.len (s.putBar k (b.drop r q (s.outstanding r) s.ref)) g ∧ ∃ y, Completes (.barQuery f) s r t f.len s (g.setS d y)) ∧
       (g.waiting = true → b.waiters.any (·.1 = r) = false → ∀ i ∈ ([.barWait f, .barSync f] : List Instr),
         Completes i s r t f.len (s.acquireCore t.coreN) g.acquired)) ∧
     -- locks, rings and copies
     (∀ k l, t.locks.get? f.w2.imm.toNat = some k → s.locks.get? k = some l → g.flagFull fs = false →
       (l.has r = false → issued (.lockAcq f) f.len fs) ∧
       (l.has r = false → ∃ s' g', Completes (.lockTry f) s r t f.len s' g' ∧ g'.flag = (g.raiseFlag fs).flag) ∧
       (l.holder = some r → l.pushing = false → issued (.lockRel f) f.len fs)) ∧
     (∀ y, t.rings.get? f.w2.imm.toNat = some y → (∀ q ∈ t.relq, ¬ (q.grp = r.grp ∧ q.ring = f.w2.imm.toNat)) →
       let slot := a.toNat % 16
       (∀ k z, y.claim .cs = some (k, z) → ∃ s' g', Completes (.ringReserve f) s r t f.len s' g') ∧
       (slot < y.slots → y.at slot = .cs → (∀ q ∈ t.relq, ¬ (q.ring = f.w2.imm.toNat ∧ q.slot = slot)) → ∃ s', Completes (.ringCommit f) s r t f.len s' g) ∧
       (slot < y.slots → y.at slot = .l → (∀ q ∈ t.relq, ¬ (q.ring = f.w2.imm.toNat ∧ q.slot = slot)) → ∃ s', Completes (.ringFree f) s r t f.len s' g) ∧
       (slot < y.slots → y.at slot = .l → y.phaseOf slot = bitAt a.toNat 8 → ∃ s' g', Completes (.ringWait f) s r t f.len s' g') ∧
       ∃ z, Completes (.ringQuery f) s r t f.len s (g.setS d z)) ∧
     (∀ y, t.logs.get? f.w2.imm.toNat = some y → (y.rd < y.wr → Completes (.ringLogwait f) s r t f.len s g) ∧
       ∃ s' g', Completes (.ringLogpop f) s r t f.len s' g') ∧
     (g.flagFull fs = false → a.toNat % 64 = 0 → (g.s f.b.toNat).toNat % 4 = 0 → a.toNat + 64 ≤ t.shape.mem → (s.copyQueue r.team).length < 16 →
       ∀ i ∈ ([.tcopy f, .tcopyMc f, .tcopyCh f, .gthr f] : List Instr), ∃ s', Completes i s r t f.len s' ((g.srAdvance 1).raiseFlag fs)) ∧
     (g.flagFull fs = false → s.quiesceOut r.team = false → issued (.cquiesce f) f.len fs ∧
       (f.mod.getLsbD 1 = false → s.entryUsed t r.team 1 (f.w2.imm.toNat % 16) = false → (g.s f.b.toNat).toNat < 256 → issued (.cquiesceSet f) f.len fs))) ∧
  (∀ (s : State) (r : GRef) (t : Team) (g : Group) (f : FmtBR), s.current = some (r, t, g) →
     let d := f.d.toNat
     let fs : Bool := f.w1.fs = 1
     let n := accBytes f
     let a := g.s f.a.toNat
     let b := g.s f.b.toNat
     let len := (g.s f.c.toNat).toNat % 2 ^ 32
     let core := t.coreN
     let free (ks : List Nat) : Prop := g.flagFull fs = false ∧ ∀ k ∈ ks, s.windowUsed r.team k < 8
     let goes (i : Instr) : Prop := ∃ s', Completes i s r t f.len s' (g.raiseFlag fs)
     -- the tensor and vocabulary units
     (∀ x, s.mmaCheck t g f = .ok x → g.flagFull fs = false → s.engineHeld r = false → s.windowUsed r.team d + g.beats.length ≤ 8 →
       (g.beats = [] → Completes (.mma f) s r t f.len s g) ∧ (g.beats ≠ [] → goes (.mma f))) ∧
     (t.hasTile d = true → free [d] → goes (.mzero f)) ∧
     (∀ k, s.mloadCheck t g f = .ok k → s.engineHeld r = false → free [d] → goes (.mload f)) ∧
     (∀ ring : Option Nat, ∀ x, s.drainCheck t g f ring = .ok x → s.engineHeld r = false → free [d] → (s.drainQueue r.team).length < 4 →
       (ring = none → ∃ s', Completes (.mdrain f) s r t f.len s' ((g.srAdvance 1).raiseFlag fs)) ∧
       (∀ y z, ring = some (f.w2.imm.toNat % 16) → t.rings.get? (f.w2.imm.toNat % 16) = some y → y.claim .ce = some z →
         ∃ s', Completes (.mdrainRing f) s r t f.len s' ((g.srAdvance 1).raiseFlag fs))) ∧
     (a.toNat % 128 = 0 → a.toNat + 128 ≤ t.shape.mem → s.engineHeld r = false → tepBad (s.teamRead t a.toNat 128) = none →
       ∃ s', Completes (.epibind f) s r t f.len s' g) ∧
     (g.flagFull fs = false → goes (.msync f)) ∧
     (∀ x, vociCheck s t g f = .ok x → s.engineHeld r = false → free [d] → goes (.voci f)) ∧
     (firstFault (stateTile t d ++ [alignTo 16 4 a.toNat, chk (224 < b.toNat || 32 + b.toNat < (t.vocOf d).t) (mxFault .mmaShape 4 8),
         if b.toNat = 0 then none else teamRange t 4 a.toNat (8 * b.toNat * (t.vocOf d).ntok)]) = none →
       s.engineHeld r = false → free [d] → goes (.vociSpill f)) ∧
     (∀ x k, vocfCheck s t g f = .ok x → heapNeed (t.vocOf d) f.vocNv d 1 = .ok k → s.engineHeld r = false → free [d] → goes (.vocf f)) ∧
     (∀ ks x, vocbCheck s t g f = .ok (ks, x) → s.engineHeld r = false → free ks → goes (.vocb f)) ∧
     (∀ x k, vocmCheck s t g f = .ok x → heapNeed (t.vocOf d) (t.vocOf d).k d 3 = .ok k → s.engineHeld r = false → free [d] → goes (.vocm f)) ∧
     (∀ x, vocrCheck s t g f = .ok x → s.engineHeld r = false → free [d] → goes (.vocr f)) ∧
     -- the fabric
     (s.fabStalled r g fs = false →
       (s.fabHeld r t g fs len [a, b] = false → ∀ us vs, s.rangeCheck t r.grp b len { write := false } = .ok us → s.rangeCheck t r.grp a len { write := true } = .ok vs →
         (firstFault (s.bytesBad core [a, b] len ++ [chk (s.isFar core b) (fabFault .tier b), s.fabricBad t [a]]) = none → goes (.put f)) ∧
         (firstFault (s.bytesBad core [a, b] len ++ [chk (s.isFar core a) (fabFault .tier a), s.fabricBad t [b]]) = none → goes (.get f)) ∧
         ∀ ws, let q := g.s d
           (if s.isFar core q then .ok [] else s.checkAll t r.grp 0 8 { write := true, atom := true } [(0xFF, (q.toNat : Int))]) = .ok ws →
           firstFault [s.formBad core a, s.formBad core b, s.formBad core q, chk (s.kindOf a = 2) (fabFault .pageProt a),
             chk (s.kindOf b = 2) (fabFault .pageProt b), chk (regionOf q ≠ some 1) (fabFault .pageProt q),
             chk (a.toNat % 4 ≠ 0 || len % 4 ≠ 0) (fabFault .align a), chk (b.toNat % 4 ≠ 0) (fabFault .align b),
             chk (q.toNat % 8 ≠ 0) (fabFault .align q), chk (s.isFar core b) (fabFault .tier b), s.fabricBad t [a, q],
             chk (s.rankOf core q ≠ s.rankOf core a) (fabFault .illAddr q)] = none → goes (.putsig f)) ∧
       (∀ seq us, (if s.isFar core a then .ok [] else
           s.checkAll t r.grp 0 n { write := true, atom := true, seq := seq } [(0xFF, (a.toNat : Int))]) = .ok us →
         firstFault [s.formBad core a, chk ((decide (regionOf a = some 1)) && (seq || n ≠ 8)) (fabFault .pageProt a),
           chk (a.toNat % n ≠ 0) (fabFault .align a), s.fabricBad t [a]] = none → s.memStalled r g fs false n us = false →
         goes (if seq then .raddSequenced f else .radd f)) ∧
       (∀ us, s.checkAll t r.grp 0 8 { write := false } [(0xFF, (a.toNat : Int))] = .ok us →
         (firstFault (s.counterBad core a ++ [chk (s.isFar core a) (fabFault .tier a)]) = none → s.isFar core a = false →
           ∃ s' s'', exec (.sigwait f) s = .next s'' ∧ (s'' = s.finish r t f.len (.done s' (g.raiseFlag fs)) ∨
             s'' = (s.finish r t f.len (.done s' (g.raiseFlag fs))).updGroup r fun g => { g with eligible := true })) ∧
         (firstFault (s.counterBad core a ++ [s.fabricBad t [a]]) = none → s.isFar core a = false → goes (.sigread f))) ∧
       (∀ us, s.checkAll t r.grp 0 4 { write := false } (rangeUnits a 128) = .ok us → s.openColl t.ctx (f.w2.imm.toNat % 16) = false →
         (let d := CollDesc.parse (s.peek t a 128)
          s.collHolds r s.nextId (s.bufferPieces t d.src d.srcBytes) = false) →
         firstFault [s.formBad core a, chk (a.toNat % 128 ≠ 0) (fabFault .align a), chk (s.isFar core a) (fabFault .tier a)] = none →
         goes (.coll f)) ∧
       goes (.collwait f) ∧
       (let v := (g.s f.c.toNat).toNat
        let others := (s.fab.seals.map fun x => (x.start, x.bytes)) ++ s.pendingSeals
        ∀ us, s.formBad core a = none → regionOf a = some 0 → s.isFar core a = false → a.toNat % 2 ^ 16 = 0 → b.toNat % 2 ^ 16 = 0 →
         b.toNat ≠ 0 → b.toNat ≤ 2 ^ 30 → v < 2 ^ 32 →
         s.checkAll t r.grp 0 4 { write := false } ((List.range (b.toNat / 2 ^ 16)).map fun i => (0xFF, ((a.toNat + i * 2 ^ 16 : Nat) : Int))) = .ok us →
         (∀ x ∈ others, overlaps (regionOff a) b.toNat x.1 x.2 = false) → others.length < 256 → (∀ x, s.fab.topVersion = some x → x < v) →
         goes (.seal f)) ∧
       (s.formBad core a = none → regionOf a = some 0 → s.isFar core a = false → (∃ x ∈ s.fab.seals, x.start = regionOff a) →
         regionOff a ∉ s.pendingUnseals → goes (.unseal f))) ∧
     -- the task engine
     (g.flagFull fs = false →
       (firstFault (blockBad t a.toNat 0xFF) = none → goes (.qspawn f) ∧
         (r.grp = 0 → t.depth < 10 → goes (.glaunch f)) ∧
         ∀ c, s.ctx? t.ctx = some c → b.toNat < 64 → c.tqMask.getLsbD b.toNat = true → goes (.qsteal f) ∧ goes (.qtake f)) ∧
       (let ls := (g.p (f.c.toNat % 8)).lanes
        (ls = [] → Completes (.qspawnV f) s r t f.len s g) ∧
        (ls ≠ [] → (∀ l ∈ ls, ∀ x ∈ blockBad t ((g.v f.a.toNat).lane l).toNat l, x = none) → goes (.qspawnV f))) ∧
       goes (.gjoin f)))

/-- R79, R112, R150, R188, R224, R232, R237, R264, R280, R309, R346, R358: the events of the table take place where their conditions hold. The
statement says with which effect for each event that it gives a next state or a property of one. Of the events in the lists that say only
that exec answers a next state (copies and tokens that move on, signals, seals, pilots' commands and plans, commands, grids, LLCLR,
FRAMECLR, MEMORY_READY, training, the security controller's events, firmware loads, link lanes) it claims no more than that: an event whose
condition does not hold changes nothing, and their effects have statements of their own. A register write acts while the link is up. Where
the spec is silent it states the model's choice: log entries 12, 24, 84, 89, 91, 98. -/
def Obligations.EventsComplete : Prop :=
  ∀ (s : State) (k n : Nat) (v : DWord) (r : GRef),
    let moves (i : Instr) (P : State → Prop) : Prop := ∃ s', exec i s = .next s' ∧ P s'
    -- groups and their synchronisation
    (∀ g, s.group? r = some g → (g.sleepUntil = some k → k ≤ s.ref → moves (.sleepExpiry r) fun s' => (s'.group? r).all fun h => h.sleepUntil = none)) ∧
    (∀ t x rest, s.team? k = some t → t.unit = .idle → t.atq = x :: rest → s.bankUsed k (1 - t.cur) = false → t.core.isSome = true →
      moves (.tableWriteStart k) fun s' => s'.mem = s.mem ∧ s'.spad = s.spad) ∧
    (∀ t grp target img g, s.team? k = some t → t.unit = .writing grp target img → tableBad img = false → s.group? ⟨k, grp⟩ = some g →
      ∃ (s' : State) (t' : Team), exec (.tableSwitch k) s = .next (s'.finish ⟨k, grp⟩ t' 3 (.done s' g)) ∧ s'.mem = s.mem ∧ t'.unit = .idle ∧ t'.cur = target) ∧
    (∀ b p, s.bars.get? k = some b → b.open_.find? (fun p => s.allDone p.ids) = some p →
      moves (.barrierPhaseComplete k) fun s' => (s'.bars.get? k).any fun c => c.open_ = b.open_.filter (· ≠ p)) ∧
    (∀ g, s.group? r = some g → g.waiting = true → g.waitFrom + 256 ≤ s.ref →
      ((s.bars.any fun x => x.2.waiters.any (·.1 = r)) = true →
        exec (.barrierSwapEligible r) s = .next (s.updGroup r fun g => { g with eligible := true })) ∧
      (∀ f, g.instr = some (.mdrain f) ∨ g.instr = some (.mdrainRing f) →
        exec (.mdrainSwapEligible r) s = .next (s.updGroup r fun g => { g with eligible := true }))) ∧
    (∀ b c, s.bars.get? k = some b → s.ctx? b.ctx = some c → s.lookoutRuns b = true → c.lookout ≤ b.lookout →
      ∃ e, exec (.lookout k) s = .next (s.fatalCtx b.ctx e) ∧ e.code = .barTimeout) ∧
    (∀ l w rest, (s.unlockDone k).locks.get? k = some l → l.holder = none → l.queue = w :: rest →
      exec (.lockGrant k) s = .next ((s.unlockDone k).grantLock k { l with queue := rest } w.who)) ∧
    (∀ o t, s.ops.get? k = some o → s.team? o.owner.team = some t → s.ctxLive t.ctx = true →
      exec (.longLatencyCompletion k) s = .next (s.completeOp k o t)) ∧
    ((s.part k n).swap = none → (∀ x, s.incoming k n none = some x → exec (.swap k n) s = .next (s.startSwap k n x.1 none)) ∧
      (∀ y x, s.displaced k n = some y →
        oldest ((s.onPart k n).filter fun x => s.pendingReady k n x && x.2.2.readySince + 2048 ≤ s.ref) = some x →
        s.fileHas k n (some y.1) x = true → (y.2.2.clause = none ∨ s.ready y.2.1 y.1.grp y.2.2 = false) →
        exec (.promotion k n) s = .next (s.startSwap k n x.1 (some y.1)))) ∧
    (∀ x, (s.part k n).swap = some x → x.done ≤ s.ref → moves (.swapTransferDone k n) fun s' => (s'.part k n).swap = none) ∧
    exec (.trapSlotGrant k n) s = .next (s.grantTrap k n) ∧
    -- copies, matrix passes, drains
    (∀ t c id, (t.core.isSome = true ∧ c.team = k) → s.team? k = some t → (∀ x ∈ s.copies, ¬ (x.2.team = k ∧ x.2.desc = none)) →
      (s.cancelCopies k t).copyNext k t = some (id, c) → (s.cancelCopies k t).executing t.coreN < 16 →
      (s.cancelCopies k t).copyTurn t.coreN = some k → ∀ b, c.desc = some b →
      exec (.copyStart k) s = .next ((s.cancelCopies k t).startCopy id c t b)) ∧
    (∀ c t b, s.copies.get? k = some c → s.team? c.team = some t → c.desc = some b → c.committed = true → c.parked = false → t.core.isSome = true →
      exec (.logbookRecordWrite k) s = .next (s.copyRecord k c t (CopyDesc.parse b))) ∧
    (∀ c x data b, (s.copyRun k 1).copies.get? k = some c → c.data = some data → c.desc = some b →
      (c.recv.find? fun y => y.core = n && !y.committed) = some x → c.sub = 1 → c.parked = false →
      exec (.multicastDelivery k n) s = .next ((s.copyRun k 1).deliverTo k (CopyDesc.parse b) x data .l)) ∧
    (∃ s', exec (.chainForward k) s = .next s') ∧ (∃ s', exec (.copyComplete k) s = .next s') ∧
    (∀ c t from_, s.copyHead k = some (n, c) → s.team? k = some t → c.blockedFrom = some from_ → from_ + 4096 ≤ s.ref → t.tokenAt ≤ from_ →
      moves (.soundingTokenSend k) fun s' => s'.mem = s.mem ∧ s'.spad = s.spad) ∧
    (∀ x y, s.tokens.get? k = some x → x.left[n]? = some y → moves (.soundingTokenPass k n) fun _ => True) ∧
    (∀ p, s.passes.get? k = some p → p.closed = false → (4 ≤ p.members.length ∨ p.since + 8 ≤ s.ref) →
      exec (.passClose k) s = .next (s.closePass k)) ∧
    (∀ p, s.passes.get? k = some p → p.closed = true → p.started = none →
      (∀ q ∈ s.passes, ¬ (q.2.core = p.core ∧ q.2.closed = true ∧ q.2.started = none ∧ q.2.order < p.order)) →
      s.arraysUsed p.core + p.members.length ≤ 4 → moves (.passStart k) fun s' => s'.tmem = s.tmem) ∧
    (∀ o t u, s.tileOps.get? k = some o → s.team? o.team = some t → s.tileMayGo k o = true → t.core.isSome = true →
      s.holdWrites k o.memWrites = (false, u) → exec (.tileOpTakeEffect k) s = .next ({ u with tileOps := u.tileOps.del k }.tileEffect t o)) ∧
    (∀ t d, s.team? k = some t → t.core.isSome = true → s.tepNext t.coreN = some k → s.drainReady k = some (n, d) →
      (∀ x ∈ s.drains, x.2.started = true → ∀ u, s.team? x.2.team = some u → u.core ≠ t.core) →
      moves (.drainStart k) fun s' => (s'.drains.get? n).any (·.started) ∧ s'.mem = s.mem ∧ s'.spad = s.spad) ∧
    (∃ s', exec (.drainComplete k) s = .next s') ∧
    -- contexts, debug, pages
    (∀ c f, s.ctx? k = some c → c.pending = some f → s.postRecord k c f = none → exec (.contextEnd k) s = .next (s.holdRecord k c f)) ∧
    exec (.machineCheck n r.grp (some k)) s = .next (s.machineCheck k n) ∧
    (s.linkUp = true → v.getLsbD 1 = true → exec (.debugHalt v) s = .next ((s.writeDbgctl v).haltReq v)) ∧
    (s.linkUp = true → v.getLsbD 2 = true → exec (.debugResume v) s = .next ((s.writeDbgctl v).resumeReq v)) ∧
    (∀ c, s.haltedNow = some (k, c) → ((s.saveAll k).teams.any fun x => x.2.ctx = k && x.2.core.isSome) = false →
      moves .debugHaltComplete fun s' => s'.dbg.haltDone = true) ∧
    (∀ t c, s.team? k = some t → s.ctx? t.ctx = some c → c.state = .live → c.pending = none → t.state = .running → t.stopping = some .page →
      t.ioToken = 0 → s.canSave k t = true → exec (.teamSuspend k) s = .next (s.saveTeam k .page)) ∧
    exec .pageRequestPost s = .next s.postPage ∧
    (s.linkUp = true → bitsOf v.toNat 31 16 ≠ 0 → moves (.pfresp v) fun _ => True) ∧
    (∀ t site, s.team? k = some t → s.waitsReturn t = true → s.mayReturn k t site.core = true → s.fits t.shape t.grid (some t.cluster) site = true →
      (∀ x ∈ s.teams, ¬ (s.waitsReturn x.2 = true ∧ s.mayReturn x.1 x.2 site.core = true ∧ x.2.order < t.order)) →
      exec (.teamRestore k site) s = .next (s.restoreTeam k t site)) ∧
    (s.linkUp = true → v.getLsbD 0 = true → s.xlat.busy = false → bitsOf v.toNat 2 1 ≠ 3 → moves (.tlbInvalidate v) fun s' => s'.xlat.busy = true) ∧
    (s.xlat.busy = true → s.allDone s.xlat.waits = true → moves .tlbInvalidateDone fun s' => s'.xlat.busy = false) ∧
    -- homes, messages, the fabric
    (∀ q, s.reqs.get? k = some q → s.allDone q.after = true → s.reqFirst k q = true → q.atSpad = true →
      exec (.homeRequestArrival k) s = .next (s.performReq k q)) ∧
    (∀ c, s.contribs.get? k = some c → s.lateRefusal c.world c.unit true = none → s.frameMoving c.unit = false →
      s.frameDrains c.unit = false → s.replayed c.unit c.phase = false → c.held = false → c.waits = false →
      (s.eligible c = true → exec (.contributionArrival k) s = .next ((s.applyContrib k c).drainStream c.ctx c.unit s.contribs.length)) ∧
      (s.eligible c = false → s.reorderUsed (s.sliceOf c.unit) < 4096 →
        exec (.contributionArrival k) s = .next { s with contribs := s.contribs.put k { c with held := true, since := s.ref } })) ∧
    (∀ c, s.contribs.get? k = some c → c.waits = true → s.eligible c = true →
      exec (.reorderEntryFree k) s = .next { s with contribs := s.contribs.put k { c with waits := false, phase := s.routePhase c.unit } }) ∧
    (∀ x c, s.ctx? k = some x → s.contribs.find? (fun (_, c) => c.ctx = k && c.unit = n && (c.held || c.waits) && !s.eligible c) = some c →
      c.2.since + x.lookout ≤ s.ref → ∃ (s' : State) (e : FaultRec), exec (.redStall k n) s = .next (s'.fatalCtx k e) ∧ e.code = .redStall) ∧
    (∀ m at_ p, s.msgs.get? k = some m → m.state = .refused at_ → at_ ≤ s.ref → s.linkFor m = some p →
      exec (.remoteResend k) s = .next (s.sendOn k { m with resends := m.resends + 1 } p)) ∧
    (∀ m c, s.msgs.get? k = some m → s.fab.chart = some c → m.inbound = true → m.state = .sent → (m.rank, m.seq) ∈ s.fab.seen →
      exec (.fabricMessageArrival k) s = .next { s with msgs := s.msgs.del k }) ∧
    (∀ m d, s.msgs.get? k = some m → m.inbound = false → m.token = 0 → m.loc = false → m.reply = some (d, 0) →
      ∃ (s' : State) (m' : Msg), exec (.messageAck k) s = .next (s'.msgDone k m' d)) ∧
    (∀ m, s.msgs.get? k = some m → m.inbound = false → m.state = .sent → m.reply = none →
      moves (.retransmitTimeout k) (fun s' => (s'.msgs.get? k).any fun x => x.lastSent = s.ref) ∧
      (m.firstSent + ackLimitCycles ≤ s.ref → exec (.ackLimit k) s = .next (s.msgFail k m .remoteNack 1 (BitVec.ofNat 64 m.va)))) ∧
    (∃ s', exec (.signalIncrement k) s = .next s') ∧ (∃ s', exec (.sigwaitSatisfied k) s = .next s') ∧ (∃ s', exec (.sealInstalled k) s = .next s') ∧
    (s.linkUp = true → v.getLsbD 0 = true → s.fab.rchBusy = false → moves (.rchctlLoad v) fun s' => s'.fab.rchLoad = true) ∧
    (s.linkUp = true → v.getLsbD 1 = true → s.fab.rchBusy = false → exec (.rchctlEndinv v) s = .next (s.markInv true)) ∧
    (s.linkUp = true → v.getLsbD 2 = true → exec (.portRetrain k v) s = .next (s.writePortctl k v) ∧ exec (.pilotDrain k v) s = .next (s.writePilotctl k v)) ∧
    (∀ p lanes ver, s.fab.ports[k]? = some p → p.state = 1 → ∃ f, exec (.portTrainingDone k true true ver lanes) s = .next (s.updPort k f)) ∧
    (∀ p, s.fab.ports[k]? = some p → p.lanes.getLsbD n = true → ∃ f, exec (.portLaneFailure k n) s = .next (s.updPort k f)) ∧
    (k < 36 → ∃ s' : State, exec (.fabricCreditReturn k) s = .next s'.pump) ∧
    ((s.pilot k).state = 4 → (∀ c ∈ s.fab.colls, k ∉ c.2.pilots) → ∃ f, exec (.pilotDrained k) s = .next (s.updPilot k f) ∧ ∀ p, (f p).state = 0) ∧
    (s.linkUp = true → v.getLsbD 1 = true → exec (.pilotLoad k v) s = .next (s.writePilotctl k v)) ∧
    (s.linkUp = true → v.getLsbD 0 = true → exec (.pilotRun k v) s = .next (s.writePilotctl k v)) ∧
    ((s.pilot k).state = 1 → ∃ f, exec (.pilotVerifyDone k) s = .next (s.updPilot k f) ∧ ∀ p, (f p).state = 2) ∧
    (∃ s', exec (.pilotCommand k n) s = .next s') ∧
    (∀ c, s.fab.colls.get? k = some c → c.started = true → c.status = none → n ∈ c.pilots →
      exec (.planFault k n) s = .next (s.abortColl k 0 (s.ownPart c))) ∧
    (∃ s', exec (.planStart k) s = .next s') ∧ (∃ s', exec (.planReturn k n v) s = .next s') ∧
    -- the task engine
    (s.linkUp = true → k < 256 → moves (.cqbaseWrite k v) fun s' => s'.te.cq.get? k = some (((s.te.cq.get? k).getD cmdQ0).write v.toNat)) ∧
    (∀ x, s.linkUp = true → s.te.cq.get? k = some x → s.inService = true → x.en = true →
      bytesNum (s.comp.readN (x.addr + 128 * (x.next % x.lines)) 128) 0x78 8 = x.next + 1 →
      moves (.cqLineTake k) fun s' => s'.te.cq.get? k = some { x with next := x.next + 1 }) ∧
    (∀ c, s.te.cmds.get? k = some c → s.mayStart k c = true →
      (c.f 0 1 = 0 → c.bad [] = false → exec (.cmdNop k) s = .next (s.complete k 0 0)) ∧
      (c.f 0 1 = 3 → c.started = false → c.bad [] = true → exec (.ctxdestroy k) s = .next (s.complete k 1 0))) ∧
    (∀ i ∈ ([.launch k, .ctxcreate k, .handle k, .tqbind k, .tqpush k, .gridStart k, .gridRetire k, .hamperCopy k] : List Instr),
      ∃ s', exec i s = .next s') ∧
    (∀ g x y sites, s.grids.get? k = some g → g.shape = some x → g.next < g.n → s.ctxRuns g.ctx = true → sites.length = g.blockTeams →
      (∀ a ∈ sites, ∀ b ∈ sites, clusterOf a.core = clusterOf b.core) → (∀ a ∈ sites, s.returnsFirst a.core g.priority = false) →
      s.placeTeams k x sites = some y → exec (.teamPlace k sites) s = .next y) ∧
    (∀ site kt, s.loadingFor site = some kt → exec (.dispatch n site) s = .next (s.loadMore kt.1 kt.2 site)) ∧
    (∀ t, s.team? k = some t → s.ctxLive t.ctx = true →
      (t.state = .joining → t.core = none → t.children = [] → exec (.teamRetire k) s = .next (s.endTeam k t)) ∧
      (∀ a b s', t.successor = some a → t.state = .succeeding → t.core.isSome = true → t.ioToken = 0 → s.teamQuiet k t = true → t.children = [] →
        s.readSuccessor k t a = .ok b s' → exec (.succession k) s = .next (s'.trySucceed k t a b)) ∧
      (t.state = .running → t.ioToken = 0 → t.stopping = some .preempt → s.canSave k t = true →
        exec (.preemptSave k) s = .next (s.saveTeam k .preempt))) ∧
    (∀ g c, s.grids.get? k = some g → s.ctx? g.ctx = some c → g.parent.isSome = true → g.shape.isSome = true → g.next = 0 →
      c.lookout ≤ s.ref - g.waitFrom → exec (.childPlacementTimeout k) s = .next (s.taskFault g.ctx 6 0xFF g.blockAt g.block)) ∧
    -- the memory stacks
    (∀ x, (s.mailbox k 1 = some x → ∃ (s' : State) (f : Stack → Stack), exec (.telemetry k) s = .next (s'.updStack k f)) ∧
      (s.mailbox k 2 = some x → x.serves = true → ∃ f, exec (.scrub k) s = .next (s.updStack k f) ∧ ∀ y, (f y).passes = y.passes + 1) ∧
      (s.mailbox k 3 = some x → x.serves = false → exec (.repair k) s = .next (s.mailRefuse k 2)) ∧
      (s.mailbox k 4 = some x → x.serves = false → ∃ f, exec (.retrain k) s = .next (s.updStack k f) ∧ ∀ y, (f y).state = 1)) ∧
    (∀ x l, s.stk.stackTab[k]? = some x → x.serves = true → x.passes ≠ 0 → ∃ (s' : State) (f : Stack → Stack), exec (.patrolScrub k l) s = .next (s'.updStack k f)) ∧
    (∃ s', exec (.llclr v) s = .next s') ∧ (∃ s', exec (.frameclr v) s = .next s') ∧
    moves (.retirementGo v) (fun s' => s.linkUp = true → v.getLsbD 4 = false → s'.stk.retStack = BitVec.ofNat 4 (bitsOf v.toNat 3 0)) ∧
    (s.stk.flushing = true → ∃ s' : State, exec .cacheFlush s = .next s'.startMigration) ∧
    (s.stk.migrating = true → k < s.stk.total → k = s.stk.mig.length → s.stk.moving < 64 →
      exec (.frameMigrationSelect k) s = .next ((s.combinePartials (frameAddr k) frameSize).setMig k .drain)) ∧
    (s.stk.migrating = true → s.stk.mig.get? k = some .drain → s.partials = [] → s.contribs = [] →
      exec (.frameDrainEnd k) s = .next (s.setMig k .moving)) ∧
    (s.stk.migrating = true → s.stk.mig.get? k = some .moving → ∃ s' : State, exec (.frameCommit k) s = .next s'.runHeld) ∧
    (∃ s', exec .memoryReady s = .next s') ∧ (∃ s', exec (.stackTrainingTimeout k) s = .next s') ∧
    (∃ f, exec (.stackTrainingDone k) s = .next (s.updStack k f) ∧ ∀ x : Stack, x.state = 1 → (f x).state = if s.trainOver then 5 else 2) ∧
    -- the security processor, the host
    (∀ i ∈ ([.assign, .unassign, .attest, .identity, .dbgunlock, .dbgUnlockComplete, .save, .teardown k, .scrubStart, .scrubRangeDone, .scrubComplete,
        .resetScrub, .keyStoreError k, .firmwareLoadDone, .linkLaneFailure] : List Instr), ∃ s', exec i s = .next s') ∧
    (s.linkUp = true → bitsOf v.toNat 9 8 < 2 → moves (.secmodeWrite v) fun s' => s'.sec.next = bitsOf v.toNat 9 8) ∧
    (∀ w x, s.sec.mode = 0 → exec (.networkMessageArrival k n w v x) s = .next s) ∧
    exec .powerOn s = .next (s.coldReset 0) ∧ exec .boardReset s = .next s.warmReset ∧
    (s.linkUp = true → v.getLsbD 1 = true → exec (.rstctlCold v) s = .next (s.writeRstctl v)) ∧
    (s.linkUp = true → v.getLsbD 0 = true → exec (.rstctlWarm v) s = .next (s.writeRstctl v) ∧
      (s.hst.stage = 0 ∨ s.hst.stage = 7 → moves (.fwload v) fun s' => s'.hst.stage = 1)) ∧
    (s.hst.link = 0 ∨ s.hst.link = 1 → moves (.linkTrainingDone 2 24) fun s' => s'.hst.link = 2 ∧ s'.hst.lanes = 24) ∧
    (∀ acc, (s.hst.link = 2 ∨ s.hst.link = 3) → acc.reg = false → exec (.companionAccess acc) s = .next (s.arriveAccess acc)) ∧
    (s.hst.testing k = true → k < 16 → moves (.clusterSelfTest k false) fun s' => s'.hst.clfail.getLsbD k = true) ∧
    (s.hst.stage = 2 ∨ s.hst.stage = 3 → exec .mxcalSet s = .next { s with mxcal := true }) ∧
    (s.hst.stage = 3 → s.mxcal = true → s.hst.cladm ||| s.hst.clfail = BitVec.allOnes 16 → moves .fullService fun s' => s'.hst.stage = 4) ∧
    (s.linkUp = true → let cl := bitsOf v.toNat 3 0
     (v.getLsbD 4 = true → s.hst.cladm.getLsbD cl = true → s.hst.cladm &&& ~~~(1#16 <<< cl) ≠ 0 → s.hst.retiring = none →
       moves (.clretGo v) fun s' => s'.hst.retiring = some cl) ∧
     (v.getLsbD 5 = true → s.hst.retiredCl.getLsbD cl = true → s.hst.retiring = none →
       moves (.clretReadmit v) fun s' => s'.hst.retesting = s.hst.retesting ||| (1#16 <<< cl))) ∧
    (∀ mhz, ∃ f, exec (.islandCap k mhz) s = .next { s with islands := s.islands.upd k f }) ∧
    (s.linkUp = true → k % 8 = 0 → k < 2 ^ 20 → exec (.registerWrite k v) s = .next (s.writeReg k v))
end

