-- ==== Sys2Proof/Laws/State.lean ====
section
/-! SUPPORT. What the small updates of the state, of a team and of a group leave in each field. -/
namespace Sys2Proof.Machine
open Sys2Proof

/-! ### State.putTeam -/

@[simp] theorem State.putTeam_cur (s : State) (k : Nat) (t : Team) : (s.putTeam k t).cur = s.cur := rfl
@[simp] theorem State.putTeam_sched (s : State) (k : Nat) (t : Team) : (s.putTeam k t).sched = s.sched := rfl
@[simp] theorem State.putTeam_late (s : State) (k : Nat) (t : Team) : (s.putTeam k t).late = s.late := rfl
@[simp] theorem State.putTeam_free (s : State) (k : Nat) (t : Team) : (s.putTeam k t).free = s.free := rfl
@[simp] theorem State.putTeam_nextId (s : State) (k : Nat) (t : Team) : (s.putTeam k t).nextId = s.nextId := rfl
@[simp] theorem State.putTeam_ref (s : State) (k : Nat) (t : Team) : (s.putTeam k t).ref = s.ref := rfl
@[simp] theorem State.putTeam_islands (s : State) (k : Nat) (t : Team) : (s.putTeam k t).islands = s.islands := rfl
@[simp] theorem State.putTeam_mem (s : State) (k : Nat) (t : Team) : (s.putTeam k t).mem = s.mem := rfl
@[simp] theorem State.putTeam_spad (s : State) (k : Nat) (t : Team) : (s.putTeam k t).spad = s.spad := rfl
@[simp] theorem State.putTeam_tmem (s : State) (k : Nat) (t : Team) : (s.putTeam k t).tmem = s.tmem := rfl
@[simp] theorem State.putTeam_comp (s : State) (k : Nat) (t : Team) : (s.putTeam k t).comp = s.comp := rfl
@[simp] theorem State.putTeam_parts (s : State) (k : Nat) (t : Team) : (s.putTeam k t).parts = s.parts := rfl
@[simp] theorem State.putTeam_bars (s : State) (k : Nat) (t : Team) : (s.putTeam k t).bars = s.bars := rfl
@[simp] theorem State.putTeam_dbg (s : State) (k : Nat) (t : Team) : (s.putTeam k t).dbg = s.dbg := rfl
@[simp] theorem State.putTeam_ops (s : State) (k : Nat) (t : Team) : (s.putTeam k t).ops = s.ops := rfl
@[simp] theorem State.putTeam_reqs (s : State) (k : Nat) (t : Team) : (s.putTeam k t).reqs = s.reqs := rfl
@[simp] theorem State.putTeam_contribs (s : State) (k : Nat) (t : Team) : (s.putTeam k t).contribs = s.contribs := rfl
@[simp] theorem State.putTeam_streams (s : State) (k : Nat) (t : Team) : (s.putTeam k t).streams = s.streams := rfl
@[simp] theorem State.putTeam_l1 (s : State) (k : Nat) (t : Team) : (s.putTeam k t).l1 = s.l1 := rfl
@[simp] theorem State.putTeam_wordOwner (s : State) (k : Nat) (t : Team) : (s.putTeam k t).wordOwner = s.wordOwner := rfl
@[simp] theorem State.putTeam_partials (s : State) (k : Nat) (t : Team) : (s.putTeam k t).partials = s.partials := rfl
@[simp] theorem State.putTeam_tlb (s : State) (k : Nat) (t : Team) : (s.putTeam k t).tlb = s.tlb := rfl
@[simp] theorem State.putTeam_xlat (s : State) (k : Nat) (t : Team) : (s.putTeam k t).xlat = s.xlat := rfl
@[simp] theorem State.putTeam_locks (s : State) (k : Nat) (t : Team) : (s.putTeam k t).locks = s.locks := rfl
@[simp] theorem State.putTeam_ctxs (s : State) (k : Nat) (t : Team) : (s.putTeam k t).ctxs = s.ctxs := rfl
@[simp] theorem State.putTeam_grids (s : State) (k : Nat) (t : Team) : (s.putTeam k t).grids = s.grids := rfl
@[simp] theorem State.putTeam_msgs (s : State) (k : Nat) (t : Team) : (s.putTeam k t).msgs = s.msgs := rfl
@[simp] theorem State.putTeam_copies (s : State) (k : Nat) (t : Team) : (s.putTeam k t).copies = s.copies := rfl
@[simp] theorem State.putTeam_tokens (s : State) (k : Nat) (t : Team) : (s.putTeam k t).tokens = s.tokens := rfl
@[simp] theorem State.putTeam_tileOps (s : State) (k : Nat) (t : Team) : (s.putTeam k t).tileOps = s.tileOps := rfl
@[simp] theorem State.putTeam_passes (s : State) (k : Nat) (t : Team) : (s.putTeam k t).passes = s.passes := rfl
@[simp] theorem State.putTeam_drains (s : State) (k : Nat) (t : Team) : (s.putTeam k t).drains = s.drains := rfl
@[simp] theorem State.putTeam_tepLast (s : State) (k : Nat) (t : Team) : (s.putTeam k t).tepLast = s.tepLast := rfl
@[simp] theorem State.putTeam_copyLast (s : State) (k : Nat) (t : Team) : (s.putTeam k t).copyLast = s.copyLast := rfl
@[simp] theorem State.putTeam_mxcal (s : State) (k : Nat) (t : Team) : (s.putTeam k t).mxcal = s.mxcal := rfl
@[simp] theorem State.putTeam_te (s : State) (k : Nat) (t : Team) : (s.putTeam k t).te = s.te := rfl
@[simp] theorem State.putTeam_fab (s : State) (k : Nat) (t : Team) : (s.putTeam k t).fab = s.fab := rfl
@[simp] theorem State.putTeam_stk (s : State) (k : Nat) (t : Team) : (s.putTeam k t).stk = s.stk := rfl
@[simp] theorem State.putTeam_sec (s : State) (k : Nat) (t : Team) : (s.putTeam k t).sec = s.sec := rfl
@[simp] theorem State.putTeam_hst (s : State) (k : Nat) (t : Team) : (s.putTeam k t).hst = s.hst := rfl

/-! ### State.updTeam -/

@[simp] theorem State.updTeam_cur (s : State) (k : Nat) (f : Team → Team) : (s.updTeam k f).cur = s.cur := rfl
@[simp] theorem State.updTeam_sched (s : State) (k : Nat) (f : Team → Team) : (s.updTeam k f).sched = s.sched := rfl
@[simp] theorem State.updTeam_late (s : State) (k : Nat) (f : Team → Team) : (s.updTeam k f).late = s.late := rfl
@[simp] theorem State.updTeam_free (s : State) (k : Nat) (f : Team → Team) : (s.updTeam k f).free = s.free := rfl
@[simp] theorem State.updTeam_nextId (s : State) (k : Nat) (f : Team → Team) : (s.updTeam k f).nextId = s.nextId := rfl
@[simp] theorem State.updTeam_ref (s : State) (k : Nat) (f : Team → Team) : (s.updTeam k f).ref = s.ref := rfl
@[simp] theorem State.updTeam_islands (s : State) (k : Nat) (f : Team → Team) : (s.updTeam k f).islands = s.islands := rfl
@[simp] theorem State.updTeam_mem (s : State) (k : Nat) (f : Team → Team) : (s.updTeam k f).mem = s.mem := rfl
@[simp] theorem State.updTeam_spad (s : State) (k : Nat) (f : Team → Team) : (s.updTeam k f).spad = s.spad := rfl
@[simp] theorem State.updTeam_tmem (s : State) (k : Nat) (f : Team → Team) : (s.updTeam k f).tmem = s.tmem := rfl
@[simp] theorem State.updTeam_comp (s : State) (k : Nat) (f : Team → Team) : (s.updTeam k f).comp = s.comp := rfl
@[simp] theorem State.updTeam_parts (s : State) (k : Nat) (f : Team → Team) : (s.updTeam k f).parts = s.parts := rfl
@[simp] theorem State.updTeam_bars (s : State) (k : Nat) (f : Team → Team) : (s.updTeam k f).bars = s.bars := rfl
@[simp] theorem State.updTeam_dbg (s : State) (k : Nat) (f : Team → Team) : (s.updTeam k f).dbg = s.dbg := rfl
@[simp] theorem State.updTeam_ops (s : State) (k : Nat) (f : Team → Team) : (s.updTeam k f).ops = s.ops := rfl
@[simp] theorem State.updTeam_reqs (s : State) (k : Nat) (f : Team → Team) : (s.updTeam k f).reqs = s.reqs := rfl
@[simp] theorem State.updTeam_contribs (s : State) (k : Nat) (f : Team → Team) : (s.updTeam k f).contribs = s.contribs := rfl
@[simp] theorem State.updTeam_streams (s : State) (k : Nat) (f : Team → Team) : (s.updTeam k f).streams = s.streams := rfl
@[simp] theorem State.updTeam_l1 (s : State) (k : Nat) (f : Team → Team) : (s.updTeam k f).l1 = s.l1 := rfl
@[simp] theorem State.updTeam_wordOwner (s : State) (k : Nat) (f : Team → Team) : (s.updTeam k f).wordOwner = s.wordOwner := rfl
@[simp] theorem State.updTeam_partials (s : State) (k : Nat) (f : Team → Team) : (s.updTeam k f).partials = s.partials := rfl
@[simp] theorem State.updTeam_tlb (s : State) (k : Nat) (f : Team → Team) : (s.updTeam k f).tlb = s.tlb := rfl
@[simp] theorem State.updTeam_xlat (s : State) (k : Nat) (f : Team → Team) : (s.updTeam k f).xlat = s.xlat := rfl
@[simp] theorem State.updTeam_locks (s : State) (k : Nat) (f : Team → Team) : (s.updTeam k f).locks = s.locks := rfl
@[simp] theorem State.updTeam_ctxs (s : State) (k : Nat) (f : Team → Team) : (s.updTeam k f).ctxs = s.ctxs := rfl
@[simp] theorem State.updTeam_grids (s : State) (k : Nat) (f : Team → Team) : (s.updTeam k f).grids = s.grids := rfl
@[simp] theorem State.updTeam_msgs (s : State) (k : Nat) (f : Team → Team) : (s.updTeam k f).msgs = s.msgs := rfl
@[simp] theorem State.updTeam_copies (s : State) (k : Nat) (f : Team → Team) : (s.updTeam k f).copies = s.copies := rfl
@[simp] theorem State.updTeam_tokens (s : State) (k : Nat) (f : Team → Team) : (s.updTeam k f).tokens = s.tokens := rfl
@[simp] theorem State.updTeam_tileOps (s : State) (k : Nat) (f : Team → Team) : (s.updTeam k f).tileOps = s.tileOps := rfl
@[simp] theorem State.updTeam_passes (s : State) (k : Nat) (f : Team → Team) : (s.updTeam k f).passes = s.passes := rfl
@[simp] theorem State.updTeam_drains (s : State) (k : Nat) (f : Team → Team) : (s.updTeam k f).drains = s.drains := rfl
@[simp] theorem State.updTeam_tepLast (s : State) (k : Nat) (f : Team → Team) : (s.updTeam k f).tepLast = s.tepLast := rfl
@[simp] theorem State.updTeam_copyLast (s : State) (k : Nat) (f : Team → Team) : (s.updTeam k f).copyLast = s.copyLast := rfl
@[simp] theorem State.updTeam_mxcal (s : State) (k : Nat) (f : Team → Team) : (s.updTeam k f).mxcal = s.mxcal := rfl
@[simp] theorem State.updTeam_te (s : State) (k : Nat) (f : Team → Team) : (s.updTeam k f).te = s.te := rfl
@[simp] theorem State.updTeam_fab (s : State) (k : Nat) (f : Team → Team) : (s.updTeam k f).fab = s.fab := rfl
@[simp] theorem State.updTeam_stk (s : State) (k : Nat) (f : Team → Team) : (s.updTeam k f).stk = s.stk := rfl
@[simp] theorem State.updTeam_sec (s : State) (k : Nat) (f : Team → Team) : (s.updTeam k f).sec = s.sec := rfl
@[simp] theorem State.updTeam_hst (s : State) (k : Nat) (f : Team → Team) : (s.updTeam k f).hst = s.hst := rfl

/-! ### State.updGroup -/

@[simp] theorem State.updGroup_cur (s : State) (r : GRef) (f : Group → Group) : (s.updGroup r f).cur = s.cur := rfl
@[simp] theorem State.updGroup_sched (s : State) (r : GRef) (f : Group → Group) : (s.updGroup r f).sched = s.sched := rfl
@[simp] theorem State.updGroup_late (s : State) (r : GRef) (f : Group → Group) : (s.updGroup r f).late = s.late := rfl
@[simp] theorem State.updGroup_free (s : State) (r : GRef) (f : Group → Group) : (s.updGroup r f).free = s.free := rfl
@[simp] theorem State.updGroup_nextId (s : State) (r : GRef) (f : Group → Group) : (s.updGroup r f).nextId = s.nextId := rfl
@[simp] theorem State.updGroup_ref (s : State) (r : GRef) (f : Group → Group) : (s.updGroup r f).ref = s.ref := rfl
@[simp] theorem State.updGroup_islands (s : State) (r : GRef) (f : Group → Group) : (s.updGroup r f).islands = s.islands := rfl
@[simp] theorem State.updGroup_mem (s : State) (r : GRef) (f : Group → Group) : (s.updGroup r f).mem = s.mem := rfl
@[simp] theorem State.updGroup_spad (s : State) (r : GRef) (f : Group → Group) : (s.updGroup r f).spad = s.spad := rfl
@[simp] theorem State.updGroup_tmem (s : State) (r : GRef) (f : Group → Group) : (s.updGroup r f).tmem = s.tmem := rfl
@[simp] theorem State.updGroup_comp (s : State) (r : GRef) (f : Group → Group) : (s.updGroup r f).comp = s.comp := rfl
@[simp] theorem State.updGroup_parts (s : State) (r : GRef) (f : Group → Group) : (s.updGroup r f).parts = s.parts := rfl
@[simp] theorem State.updGroup_bars (s : State) (r : GRef) (f : Group → Group) : (s.updGroup r f).bars = s.bars := rfl
@[simp] theorem State.updGroup_dbg (s : State) (r : GRef) (f : Group → Group) : (s.updGroup r f).dbg = s.dbg := rfl
@[simp] theorem State.updGroup_ops (s : State) (r : GRef) (f : Group → Group) : (s.updGroup r f).ops = s.ops := rfl
@[simp] theorem State.updGroup_reqs (s : State) (r : GRef) (f : Group → Group) : (s.updGroup r f).reqs = s.reqs := rfl
@[simp] theorem State.updGroup_contribs (s : State) (r : GRef) (f : Group → Group) : (s.updGroup r f).contribs = s.contribs := rfl
@[simp] theorem State.updGroup_streams (s : State) (r : GRef) (f : Group → Group) : (s.updGroup r f).streams = s.streams := rfl
@[simp] theorem State.updGroup_l1 (s : State) (r : GRef) (f : Group → Group) : (s.updGroup r f).l1 = s.l1 := rfl
@[simp] theorem State.updGroup_wordOwner (s : State) (r : GRef) (f : Group → Group) : (s.updGroup r f).wordOwner = s.wordOwner := rfl
@[simp] theorem State.updGroup_partials (s : State) (r : GRef) (f : Group → Group) : (s.updGroup r f).partials = s.partials := rfl
@[simp] theorem State.updGroup_tlb (s : State) (r : GRef) (f : Group → Group) : (s.updGroup r f).tlb = s.tlb := rfl
@[simp] theorem State.updGroup_xlat (s : State) (r : GRef) (f : Group → Group) : (s.updGroup r f).xlat = s.xlat := rfl
@[simp] theorem State.updGroup_locks (s : State) (r : GRef) (f : Group → Group) : (s.updGroup r f).locks = s.locks := rfl
@[simp] theorem State.updGroup_ctxs (s : State) (r : GRef) (f : Group → Group) : (s.updGroup r f).ctxs = s.ctxs := rfl
@[simp] theorem State.updGroup_grids (s : State) (r : GRef) (f : Group → Group) : (s.updGroup r f).grids = s.grids := rfl
@[simp] theorem State.updGroup_msgs (s : State) (r : GRef) (f : Group → Group) : (s.updGroup r f).msgs = s.msgs := rfl
@[simp] theorem State.updGroup_copies (s : State) (r : GRef) (f : Group → Group) : (s.updGroup r f).copies = s.copies := rfl
@[simp] theorem State.updGroup_tokens (s : State) (r : GRef) (f : Group → Group) : (s.updGroup r f).tokens = s.tokens := rfl
@[simp] theorem State.updGroup_tileOps (s : State) (r : GRef) (f : Group → Group) : (s.updGroup r f).tileOps = s.tileOps := rfl
@[simp] theorem State.updGroup_passes (s : State) (r : GRef) (f : Group → Group) : (s.updGroup r f).passes = s.passes := rfl
@[simp] theorem State.updGroup_drains (s : State) (r : GRef) (f : Group → Group) : (s.updGroup r f).drains = s.drains := rfl
@[simp] theorem State.updGroup_tepLast (s : State) (r : GRef) (f : Group → Group) : (s.updGroup r f).tepLast = s.tepLast := rfl
@[simp] theorem State.updGroup_copyLast (s : State) (r : GRef) (f : Group → Group) : (s.updGroup r f).copyLast = s.copyLast := rfl
@[simp] theorem State.updGroup_mxcal (s : State) (r : GRef) (f : Group → Group) : (s.updGroup r f).mxcal = s.mxcal := rfl
@[simp] theorem State.updGroup_te (s : State) (r : GRef) (f : Group → Group) : (s.updGroup r f).te = s.te := rfl
@[simp] theorem State.updGroup_fab (s : State) (r : GRef) (f : Group → Group) : (s.updGroup r f).fab = s.fab := rfl
@[simp] theorem State.updGroup_stk (s : State) (r : GRef) (f : Group → Group) : (s.updGroup r f).stk = s.stk := rfl
@[simp] theorem State.updGroup_sec (s : State) (r : GRef) (f : Group → Group) : (s.updGroup r f).sec = s.sec := rfl
@[simp] theorem State.updGroup_hst (s : State) (r : GRef) (f : Group → Group) : (s.updGroup r f).hst = s.hst := rfl

/-! ### State.putGroup -/

@[simp] theorem State.putGroup_cur (s : State) (r : GRef) (g : Group) : (s.putGroup r g).cur = s.cur := rfl
@[simp] theorem State.putGroup_sched (s : State) (r : GRef) (g : Group) : (s.putGroup r g).sched = s.sched := rfl
@[simp] theorem State.putGroup_late (s : State) (r : GRef) (g : Group) : (s.putGroup r g).late = s.late := rfl
@[simp] theorem State.putGroup_free (s : State) (r : GRef) (g : Group) : (s.putGroup r g).free = s.free := rfl
@[simp] theorem State.putGroup_nextId (s : State) (r : GRef) (g : Group) : (s.putGroup r g).nextId = s.nextId := rfl
@[simp] theorem State.putGroup_ref (s : State) (r : GRef) (g : Group) : (s.putGroup r g).ref = s.ref := rfl
@[simp] theorem State.putGroup_islands (s : State) (r : GRef) (g : Group) : (s.putGroup r g).islands = s.islands := rfl
@[simp] theorem State.putGroup_mem (s : State) (r : GRef) (g : Group) : (s.putGroup r g).mem = s.mem := rfl
@[simp] theorem State.putGroup_spad (s : State) (r : GRef) (g : Group) : (s.putGroup r g).spad = s.spad := rfl
@[simp] theorem State.putGroup_tmem (s : State) (r : GRef) (g : Group) : (s.putGroup r g).tmem = s.tmem := rfl
@[simp] theorem State.putGroup_comp (s : State) (r : GRef) (g : Group) : (s.putGroup r g).comp = s.comp := rfl
@[simp] theorem State.putGroup_parts (s : State) (r : GRef) (g : Group) : (s.putGroup r g).parts = s.parts := rfl
@[simp] theorem State.putGroup_bars (s : State) (r : GRef) (g : Group) : (s.putGroup r g).bars = s.bars := rfl
@[simp] theorem State.putGroup_dbg (s : State) (r : GRef) (g : Group) : (s.putGroup r g).dbg = s.dbg := rfl
@[simp] theorem State.putGroup_ops (s : State) (r : GRef) (g : Group) : (s.putGroup r g).ops = s.ops := rfl
@[simp] theorem State.putGroup_reqs (s : State) (r : GRef) (g : Group) : (s.putGroup r g).reqs = s.reqs := rfl
@[simp] theorem State.putGroup_contribs (s : State) (r : GRef) (g : Group) : (s.putGroup r g).contribs = s.contribs := rfl
@[simp] theorem State.putGroup_streams (s : State) (r : GRef) (g : Group) : (s.putGroup r g).streams = s.streams := rfl
@[simp] theorem State.putGroup_l1 (s : State) (r : GRef) (g : Group) : (s.putGroup r g).l1 = s.l1 := rfl
@[simp] theorem State.putGroup_wordOwner (s : State) (r : GRef) (g : Group) : (s.putGroup r g).wordOwner = s.wordOwner := rfl
@[simp] theorem State.putGroup_partials (s : State) (r : GRef) (g : Group) : (s.putGroup r g).partials = s.partials := rfl
@[simp] theorem State.putGroup_tlb (s : State) (r : GRef) (g : Group) : (s.putGroup r g).tlb = s.tlb := rfl
@[simp] theorem State.putGroup_xlat (s : State) (r : GRef) (g : Group) : (s.putGroup r g).xlat = s.xlat := rfl
@[simp] theorem State.putGroup_locks (s : State) (r : GRef) (g : Group) : (s.putGroup r g).locks = s.locks := rfl
@[simp] theorem State.putGroup_ctxs (s : State) (r : GRef) (g : Group) : (s.putGroup r g).ctxs = s.ctxs := rfl
@[simp] theorem State.putGroup_grids (s : State) (r : GRef) (g : Group) : (s.putGroup r g).grids = s.grids := rfl
@[simp] theorem State.putGroup_msgs (s : State) (r : GRef) (g : Group) : (s.putGroup r g).msgs = s.msgs := rfl
@[simp] theorem State.putGroup_copies (s : State) (r : GRef) (g : Group) : (s.putGroup r g).copies = s.copies := rfl
@[simp] theorem State.putGroup_tokens (s : State) (r : GRef) (g : Group) : (s.putGroup r g).tokens = s.tokens := rfl
@[simp] theorem State.putGroup_tileOps (s : State) (r : GRef) (g : Group) : (s.putGroup r g).tileOps = s.tileOps := rfl
@[simp] theorem State.putGroup_passes (s : State) (r : GRef) (g : Group) : (s.putGroup r g).passes = s.passes := rfl
@[simp] theorem State.putGroup_drains (s : State) (r : GRef) (g : Group) : (s.putGroup r g).drains = s.drains := rfl
@[simp] theorem State.putGroup_tepLast (s : State) (r : GRef) (g : Group) : (s.putGroup r g).tepLast = s.tepLast := rfl
@[simp] theorem State.putGroup_copyLast (s : State) (r : GRef) (g : Group) : (s.putGroup r g).copyLast = s.copyLast := rfl
@[simp] theorem State.putGroup_mxcal (s : State) (r : GRef) (g : Group) : (s.putGroup r g).mxcal = s.mxcal := rfl
@[simp] theorem State.putGroup_te (s : State) (r : GRef) (g : Group) : (s.putGroup r g).te = s.te := rfl
@[simp] theorem State.putGroup_fab (s : State) (r : GRef) (g : Group) : (s.putGroup r g).fab = s.fab := rfl
@[simp] theorem State.putGroup_stk (s : State) (r : GRef) (g : Group) : (s.putGroup r g).stk = s.stk := rfl
@[simp] theorem State.putGroup_sec (s : State) (r : GRef) (g : Group) : (s.putGroup r g).sec = s.sec := rfl
@[simp] theorem State.putGroup_hst (s : State) (r : GRef) (g : Group) : (s.putGroup r g).hst = s.hst := rfl

/-! ### State.updCtx -/

@[simp] theorem State.updCtx_cur (s : State) (c : Nat) (f : Ctx → Ctx) : (s.updCtx c f).cur = s.cur := rfl
@[simp] theorem State.updCtx_sched (s : State) (c : Nat) (f : Ctx → Ctx) : (s.updCtx c f).sched = s.sched := rfl
@[simp] theorem State.updCtx_late (s : State) (c : Nat) (f : Ctx → Ctx) : (s.updCtx c f).late = s.late := rfl
@[simp] theorem State.updCtx_free (s : State) (c : Nat) (f : Ctx → Ctx) : (s.updCtx c f).free = s.free := rfl
@[simp] theorem State.updCtx_nextId (s : State) (c : Nat) (f : Ctx → Ctx) : (s.updCtx c f).nextId = s.nextId := rfl
@[simp] theorem State.updCtx_ref (s : State) (c : Nat) (f : Ctx → Ctx) : (s.updCtx c f).ref = s.ref := rfl
@[simp] theorem State.updCtx_islands (s : State) (c : Nat) (f : Ctx → Ctx) : (s.updCtx c f).islands = s.islands := rfl
@[simp] theorem State.updCtx_mem (s : State) (c : Nat) (f : Ctx → Ctx) : (s.updCtx c f).mem = s.mem := rfl
@[simp] theorem State.updCtx_spad (s : State) (c : Nat) (f : Ctx → Ctx) : (s.updCtx c f).spad = s.spad := rfl
@[simp] theorem State.updCtx_tmem (s : State) (c : Nat) (f : Ctx → Ctx) : (s.updCtx c f).tmem = s.tmem := rfl
@[simp] theorem State.updCtx_comp (s : State) (c : Nat) (f : Ctx → Ctx) : (s.updCtx c f).comp = s.comp := rfl
@[simp] theorem State.updCtx_parts (s : State) (c : Nat) (f : Ctx → Ctx) : (s.updCtx c f).parts = s.parts := rfl
@[simp] theorem State.updCtx_bars (s : State) (c : Nat) (f : Ctx → Ctx) : (s.updCtx c f).bars = s.bars := rfl
@[simp] theorem State.updCtx_dbg (s : State) (c : Nat) (f : Ctx → Ctx) : (s.updCtx c f).dbg = s.dbg := rfl
@[simp] theorem State.updCtx_ops (s : State) (c : Nat) (f : Ctx → Ctx) : (s.updCtx c f).ops = s.ops := rfl
@[simp] theorem State.updCtx_reqs (s : State) (c : Nat) (f : Ctx → Ctx) : (s.updCtx c f).reqs = s.reqs := rfl
@[simp] theorem State.updCtx_contribs (s : State) (c : Nat) (f : Ctx → Ctx) : (s.updCtx c f).contribs = s.contribs := rfl
@[simp] theorem State.updCtx_streams (s : State) (c : Nat) (f : Ctx → Ctx) : (s.updCtx c f).streams = s.streams := rfl
@[simp] theorem State.updCtx_l1 (s : State) (c : Nat) (f : Ctx → Ctx) : (s.updCtx c f).l1 = s.l1 := rfl
@[simp] theorem State.updCtx_wordOwner (s : State) (c : Nat) (f : Ctx → Ctx) : (s.updCtx c f).wordOwner = s.wordOwner := rfl
@[simp] theorem State.updCtx_partials (s : State) (c : Nat) (f : Ctx → Ctx) : (s.updCtx c f).partials = s.partials := rfl
@[simp] theorem State.updCtx_tlb (s : State) (c : Nat) (f : Ctx → Ctx) : (s.updCtx c f).tlb = s.tlb := rfl
@[simp] theorem State.updCtx_xlat (s : State) (c : Nat) (f : Ctx → Ctx) : (s.updCtx c f).xlat = s.xlat := rfl
@[simp] theorem State.updCtx_locks (s : State) (c : Nat) (f : Ctx → Ctx) : (s.updCtx c f).locks = s.locks := rfl
@[simp] theorem State.updCtx_teams (s : State) (c : Nat) (f : Ctx → Ctx) : (s.updCtx c f).teams = s.teams := rfl
@[simp] theorem State.updCtx_grids (s : State) (c : Nat) (f : Ctx → Ctx) : (s.updCtx c f).grids = s.grids := rfl
@[simp] theorem State.updCtx_msgs (s : State) (c : Nat) (f : Ctx → Ctx) : (s.updCtx c f).msgs = s.msgs := rfl
@[simp] theorem State.updCtx_copies (s : State) (c : Nat) (f : Ctx → Ctx) : (s.updCtx c f).copies = s.copies := rfl
@[simp] theorem State.updCtx_tokens (s : State) (c : Nat) (f : Ctx → Ctx) : (s.updCtx c f).tokens = s.tokens := rfl
@[simp] theorem State.updCtx_tileOps (s : State) (c : Nat) (f : Ctx → Ctx) : (s.updCtx c f).tileOps = s.tileOps := rfl
@[simp] theorem State.updCtx_passes (s : State) (c : Nat) (f : Ctx → Ctx) : (s.updCtx c f).passes = s.passes := rfl
@[simp] theorem State.updCtx_drains (s : State) (c : Nat) (f : Ctx → Ctx) : (s.updCtx c f).drains = s.drains := rfl
@[simp] theorem State.updCtx_tepLast (s : State) (c : Nat) (f : Ctx → Ctx) : (s.updCtx c f).tepLast = s.tepLast := rfl
@[simp] theorem State.updCtx_copyLast (s : State) (c : Nat) (f : Ctx → Ctx) : (s.updCtx c f).copyLast = s.copyLast := rfl
@[simp] theorem State.updCtx_mxcal (s : State) (c : Nat) (f : Ctx → Ctx) : (s.updCtx c f).mxcal = s.mxcal := rfl
@[simp] theorem State.updCtx_te (s : State) (c : Nat) (f : Ctx → Ctx) : (s.updCtx c f).te = s.te := rfl
@[simp] theorem State.updCtx_fab (s : State) (c : Nat) (f : Ctx → Ctx) : (s.updCtx c f).fab = s.fab := rfl
@[simp] theorem State.updCtx_stk (s : State) (c : Nat) (f : Ctx → Ctx) : (s.updCtx c f).stk = s.stk := rfl
@[simp] theorem State.updCtx_sec (s : State) (c : Nat) (f : Ctx → Ctx) : (s.updCtx c f).sec = s.sec := rfl
@[simp] theorem State.updCtx_hst (s : State) (c : Nat) (f : Ctx → Ctx) : (s.updCtx c f).hst = s.hst := rfl

/-! ### State.putPart -/

@[simp] theorem State.putPart_cur (s : State) (c p : Nat) (x : Part) : (s.putPart c p x).cur = s.cur := rfl
@[simp] theorem State.putPart_sched (s : State) (c p : Nat) (x : Part) : (s.putPart c p x).sched = s.sched := rfl
@[simp] theorem State.putPart_late (s : State) (c p : Nat) (x : Part) : (s.putPart c p x).late = s.late := rfl
@[simp] theorem State.putPart_free (s : State) (c p : Nat) (x : Part) : (s.putPart c p x).free = s.free := rfl
@[simp] theorem State.putPart_nextId (s : State) (c p : Nat) (x : Part) : (s.putPart c p x).nextId = s.nextId := rfl
@[simp] theorem State.putPart_ref (s : State) (c p : Nat) (x : Part) : (s.putPart c p x).ref = s.ref := rfl
@[simp] theorem State.putPart_islands (s : State) (c p : Nat) (x : Part) : (s.putPart c p x).islands = s.islands := rfl
@[simp] theorem State.putPart_mem (s : State) (c p : Nat) (x : Part) : (s.putPart c p x).mem = s.mem := rfl
@[simp] theorem State.putPart_spad (s : State) (c p : Nat) (x : Part) : (s.putPart c p x).spad = s.spad := rfl
@[simp] theorem State.putPart_tmem (s : State) (c p : Nat) (x : Part) : (s.putPart c p x).tmem = s.tmem := rfl
@[simp] theorem State.putPart_comp (s : State) (c p : Nat) (x : Part) : (s.putPart c p x).comp = s.comp := rfl
@[simp] theorem State.putPart_bars (s : State) (c p : Nat) (x : Part) : (s.putPart c p x).bars = s.bars := rfl
@[simp] theorem State.putPart_dbg (s : State) (c p : Nat) (x : Part) : (s.putPart c p x).dbg = s.dbg := rfl
@[simp] theorem State.putPart_ops (s : State) (c p : Nat) (x : Part) : (s.putPart c p x).ops = s.ops := rfl
@[simp] theorem State.putPart_reqs (s : State) (c p : Nat) (x : Part) : (s.putPart c p x).reqs = s.reqs := rfl
@[simp] theorem State.putPart_contribs (s : State) (c p : Nat) (x : Part) : (s.putPart c p x).contribs = s.contribs := rfl
@[simp] theorem State.putPart_streams (s : State) (c p : Nat) (x : Part) : (s.putPart c p x).streams = s.streams := rfl
@[simp] theorem State.putPart_l1 (s : State) (c p : Nat) (x : Part) : (s.putPart c p x).l1 = s.l1 := rfl
@[simp] theorem State.putPart_wordOwner (s : State) (c p : Nat) (x : Part) : (s.putPart c p x).wordOwner = s.wordOwner := rfl
@[simp] theorem State.putPart_partials (s : State) (c p : Nat) (x : Part) : (s.putPart c p x).partials = s.partials := rfl
@[simp] theorem State.putPart_tlb (s : State) (c p : Nat) (x : Part) : (s.putPart c p x).tlb = s.tlb := rfl
@[simp] theorem State.putPart_xlat (s : State) (c p : Nat) (x : Part) : (s.putPart c p x).xlat = s.xlat := rfl
@[simp] theorem State.putPart_locks (s : State) (c p : Nat) (x : Part) : (s.putPart c p x).locks = s.locks := rfl
@[simp] theorem State.putPart_ctxs (s : State) (c p : Nat) (x : Part) : (s.putPart c p x).ctxs = s.ctxs := rfl
@[simp] theorem State.putPart_teams (s : State) (c p : Nat) (x : Part) : (s.putPart c p x).teams = s.teams := rfl
@[simp] theorem State.putPart_grids (s : State) (c p : Nat) (x : Part) : (s.putPart c p x).grids = s.grids := rfl
@[simp] theorem State.putPart_msgs (s : State) (c p : Nat) (x : Part) : (s.putPart c p x).msgs = s.msgs := rfl
@[simp] theorem State.putPart_copies (s : State) (c p : Nat) (x : Part) : (s.putPart c p x).copies = s.copies := rfl
@[simp] theorem State.putPart_tokens (s : State) (c p : Nat) (x : Part) : (s.putPart c p x).tokens = s.tokens := rfl
@[simp] theorem State.putPart_tileOps (s : State) (c p : Nat) (x : Part) : (s.putPart c p x).tileOps = s.tileOps := rfl
@[simp] theorem State.putPart_passes (s : State) (c p : Nat) (x : Part) : (s.putPart c p x).passes = s.passes := rfl
@[simp] theorem State.putPart_drains (s : State) (c p : Nat) (x : Part) : (s.putPart c p x).drains = s.drains := rfl
@[simp] theorem State.putPart_tepLast (s : State) (c p : Nat) (x : Part) : (s.putPart c p x).tepLast = s.tepLast := rfl
@[simp] theorem State.putPart_copyLast (s : State) (c p : Nat) (x : Part) : (s.putPart c p x).copyLast = s.copyLast := rfl
@[simp] theorem State.putPart_mxcal (s : State) (c p : Nat) (x : Part) : (s.putPart c p x).mxcal = s.mxcal := rfl
@[simp] theorem State.putPart_te (s : State) (c p : Nat) (x : Part) : (s.putPart c p x).te = s.te := rfl
@[simp] theorem State.putPart_fab (s : State) (c p : Nat) (x : Part) : (s.putPart c p x).fab = s.fab := rfl
@[simp] theorem State.putPart_stk (s : State) (c p : Nat) (x : Part) : (s.putPart c p x).stk = s.stk := rfl
@[simp] theorem State.putPart_sec (s : State) (c p : Nat) (x : Part) : (s.putPart c p x).sec = s.sec := rfl
@[simp] theorem State.putPart_hst (s : State) (c p : Nat) (x : Part) : (s.putPart c p x).hst = s.hst := rfl

/-! ### State.addOp -/

@[simp] theorem State.addOp_cur (s : State) (n : Nat) (o : Op) : (s.addOp n o).cur = s.cur := rfl
@[simp] theorem State.addOp_sched (s : State) (n : Nat) (o : Op) : (s.addOp n o).sched = s.sched := rfl
@[simp] theorem State.addOp_late (s : State) (n : Nat) (o : Op) : (s.addOp n o).late = s.late := rfl
@[simp] theorem State.addOp_free (s : State) (n : Nat) (o : Op) : (s.addOp n o).free = s.free := rfl
@[simp] theorem State.addOp_nextId (s : State) (n : Nat) (o : Op) : (s.addOp n o).nextId = s.nextId := rfl
@[simp] theorem State.addOp_ref (s : State) (n : Nat) (o : Op) : (s.addOp n o).ref = s.ref := rfl
@[simp] theorem State.addOp_islands (s : State) (n : Nat) (o : Op) : (s.addOp n o).islands = s.islands := rfl
@[simp] theorem State.addOp_mem (s : State) (n : Nat) (o : Op) : (s.addOp n o).mem = s.mem := rfl
@[simp] theorem State.addOp_spad (s : State) (n : Nat) (o : Op) : (s.addOp n o).spad = s.spad := rfl
@[simp] theorem State.addOp_tmem (s : State) (n : Nat) (o : Op) : (s.addOp n o).tmem = s.tmem := rfl
@[simp] theorem State.addOp_comp (s : State) (n : Nat) (o : Op) : (s.addOp n o).comp = s.comp := rfl
@[simp] theorem State.addOp_parts (s : State) (n : Nat) (o : Op) : (s.addOp n o).parts = s.parts := rfl
@[simp] theorem State.addOp_bars (s : State) (n : Nat) (o : Op) : (s.addOp n o).bars = s.bars := rfl
@[simp] theorem State.addOp_dbg (s : State) (n : Nat) (o : Op) : (s.addOp n o).dbg = s.dbg := rfl
@[simp] theorem State.addOp_reqs (s : State) (n : Nat) (o : Op) : (s.addOp n o).reqs = s.reqs := rfl
@[simp] theorem State.addOp_contribs (s : State) (n : Nat) (o : Op) : (s.addOp n o).contribs = s.contribs := rfl
@[simp] theorem State.addOp_streams (s : State) (n : Nat) (o : Op) : (s.addOp n o).streams = s.streams := rfl
@[simp] theorem State.addOp_l1 (s : State) (n : Nat) (o : Op) : (s.addOp n o).l1 = s.l1 := rfl
@[simp] theorem State.addOp_wordOwner (s : State) (n : Nat) (o : Op) : (s.addOp n o).wordOwner = s.wordOwner := rfl
@[simp] theorem State.addOp_partials (s : State) (n : Nat) (o : Op) : (s.addOp n o).partials = s.partials := rfl
@[simp] theorem State.addOp_tlb (s : State) (n : Nat) (o : Op) : (s.addOp n o).tlb = s.tlb := rfl
@[simp] theorem State.addOp_xlat (s : State) (n : Nat) (o : Op) : (s.addOp n o).xlat = s.xlat := rfl
@[simp] theorem State.addOp_locks (s : State) (n : Nat) (o : Op) : (s.addOp n o).locks = s.locks := rfl
@[simp] theorem State.addOp_ctxs (s : State) (n : Nat) (o : Op) : (s.addOp n o).ctxs = s.ctxs := rfl
@[simp] theorem State.addOp_teams (s : State) (n : Nat) (o : Op) : (s.addOp n o).teams = s.teams := rfl
@[simp] theorem State.addOp_grids (s : State) (n : Nat) (o : Op) : (s.addOp n o).grids = s.grids := rfl
@[simp] theorem State.addOp_msgs (s : State) (n : Nat) (o : Op) : (s.addOp n o).msgs = s.msgs := rfl
@[simp] theorem State.addOp_copies (s : State) (n : Nat) (o : Op) : (s.addOp n o).copies = s.copies := rfl
@[simp] theorem State.addOp_tokens (s : State) (n : Nat) (o : Op) : (s.addOp n o).tokens = s.tokens := rfl
@[simp] theorem State.addOp_tileOps (s : State) (n : Nat) (o : Op) : (s.addOp n o).tileOps = s.tileOps := rfl
@[simp] theorem State.addOp_passes (s : State) (n : Nat) (o : Op) : (s.addOp n o).passes = s.passes := rfl
@[simp] theorem State.addOp_drains (s : State) (n : Nat) (o : Op) : (s.addOp n o).drains = s.drains := rfl
@[simp] theorem State.addOp_tepLast (s : State) (n : Nat) (o : Op) : (s.addOp n o).tepLast = s.tepLast := rfl
@[simp] theorem State.addOp_copyLast (s : State) (n : Nat) (o : Op) : (s.addOp n o).copyLast = s.copyLast := rfl
@[simp] theorem State.addOp_mxcal (s : State) (n : Nat) (o : Op) : (s.addOp n o).mxcal = s.mxcal := rfl
@[simp] theorem State.addOp_te (s : State) (n : Nat) (o : Op) : (s.addOp n o).te = s.te := rfl
@[simp] theorem State.addOp_fab (s : State) (n : Nat) (o : Op) : (s.addOp n o).fab = s.fab := rfl
@[simp] theorem State.addOp_stk (s : State) (n : Nat) (o : Op) : (s.addOp n o).stk = s.stk := rfl
@[simp] theorem State.addOp_sec (s : State) (n : Nat) (o : Op) : (s.addOp n o).sec = s.sec := rfl
@[simp] theorem State.addOp_hst (s : State) (n : Nat) (o : Op) : (s.addOp n o).hst = s.hst := rfl

/-! ### State.addTlb -/

@[simp] theorem State.addTlb_cur (s : State) (es : List Found) : (s.addTlb es).cur = s.cur := rfl
@[simp] theorem State.addTlb_sched (s : State) (es : List Found) : (s.addTlb es).sched = s.sched := rfl
@[simp] theorem State.addTlb_late (s : State) (es : List Found) : (s.addTlb es).late = s.late := rfl
@[simp] theorem State.addTlb_free (s : State) (es : List Found) : (s.addTlb es).free = s.free := rfl
@[simp] theorem State.addTlb_nextId (s : State) (es : List Found) : (s.addTlb es).nextId = s.nextId := rfl
@[simp] theorem State.addTlb_ref (s : State) (es : List Found) : (s.addTlb es).ref = s.ref := rfl
@[simp] theorem State.addTlb_islands (s : State) (es : List Found) : (s.addTlb es).islands = s.islands := rfl
@[simp] theorem State.addTlb_mem (s : State) (es : List Found) : (s.addTlb es).mem = s.mem := rfl
@[simp] theorem State.addTlb_spad (s : State) (es : List Found) : (s.addTlb es).spad = s.spad := rfl
@[simp] theorem State.addTlb_tmem (s : State) (es : List Found) : (s.addTlb es).tmem = s.tmem := rfl
@[simp] theorem State.addTlb_comp (s : State) (es : List Found) : (s.addTlb es).comp = s.comp := rfl
@[simp] theorem State.addTlb_parts (s : State) (es : List Found) : (s.addTlb es).parts = s.parts := rfl
@[simp] theorem State.addTlb_bars (s : State) (es : List Found) : (s.addTlb es).bars = s.bars := rfl
@[simp] theorem State.addTlb_dbg (s : State) (es : List Found) : (s.addTlb es).dbg = s.dbg := rfl
@[simp] theorem State.addTlb_ops (s : State) (es : List Found) : (s.addTlb es).ops = s.ops := rfl
@[simp] theorem State.addTlb_reqs (s : State) (es : List Found) : (s.addTlb es).reqs = s.reqs := rfl
@[simp] theorem State.addTlb_contribs (s : State) (es : List Found) : (s.addTlb es).contribs = s.contribs := rfl
@[simp] theorem State.addTlb_streams (s : State) (es : List Found) : (s.addTlb es).streams = s.streams := rfl
@[simp] theorem State.addTlb_l1 (s : State) (es : List Found) : (s.addTlb es).l1 = s.l1 := rfl
@[simp] theorem State.addTlb_wordOwner (s : State) (es : List Found) : (s.addTlb es).wordOwner = s.wordOwner := rfl
@[simp] theorem State.addTlb_partials (s : State) (es : List Found) : (s.addTlb es).partials = s.partials := rfl
@[simp] theorem State.addTlb_xlat (s : State) (es : List Found) : (s.addTlb es).xlat = s.xlat := rfl
@[simp] theorem State.addTlb_locks (s : State) (es : List Found) : (s.addTlb es).locks = s.locks := rfl
@[simp] theorem State.addTlb_ctxs (s : State) (es : List Found) : (s.addTlb es).ctxs = s.ctxs := rfl
@[simp] theorem State.addTlb_teams (s : State) (es : List Found) : (s.addTlb es).teams = s.teams := rfl
@[simp] theorem State.addTlb_grids (s : State) (es : List Found) : (s.addTlb es).grids = s.grids := rfl
@[simp] theorem State.addTlb_msgs (s : State) (es : List Found) : (s.addTlb es).msgs = s.msgs := rfl
@[simp] theorem State.addTlb_copies (s : State) (es : List Found) : (s.addTlb es).copies = s.copies := rfl
@[simp] theorem State.addTlb_tokens (s : State) (es : List Found) : (s.addTlb es).tokens = s.tokens := rfl
@[simp] theorem State.addTlb_tileOps (s : State) (es : List Found) : (s.addTlb es).tileOps = s.tileOps := rfl
@[simp] theorem State.addTlb_passes (s : State) (es : List Found) : (s.addTlb es).passes = s.passes := rfl
@[simp] theorem State.addTlb_drains (s : State) (es : List Found) : (s.addTlb es).drains = s.drains := rfl
@[simp] theorem State.addTlb_tepLast (s : State) (es : List Found) : (s.addTlb es).tepLast = s.tepLast := rfl
@[simp] theorem State.addTlb_copyLast (s : State) (es : List Found) : (s.addTlb es).copyLast = s.copyLast := rfl
@[simp] theorem State.addTlb_mxcal (s : State) (es : List Found) : (s.addTlb es).mxcal = s.mxcal := rfl
@[simp] theorem State.addTlb_te (s : State) (es : List Found) : (s.addTlb es).te = s.te := rfl
@[simp] theorem State.addTlb_fab (s : State) (es : List Found) : (s.addTlb es).fab = s.fab := rfl
@[simp] theorem State.addTlb_sec (s : State) (es : List Found) : (s.addTlb es).sec = s.sec := rfl
@[simp] theorem State.addTlb_hst (s : State) (es : List Found) : (s.addTlb es).hst = s.hst := rfl

/-! ### State.acquireCore -/

@[simp] theorem State.acquireCore_cur (s : State) (c : Nat) : (s.acquireCore c).cur = s.cur := rfl
@[simp] theorem State.acquireCore_sched (s : State) (c : Nat) : (s.acquireCore c).sched = s.sched := rfl
@[simp] theorem State.acquireCore_late (s : State) (c : Nat) : (s.acquireCore c).late = s.late := rfl
@[simp] theorem State.acquireCore_free (s : State) (c : Nat) : (s.acquireCore c).free = s.free := rfl
@[simp] theorem State.acquireCore_nextId (s : State) (c : Nat) : (s.acquireCore c).nextId = s.nextId := rfl
@[simp] theorem State.acquireCore_ref (s : State) (c : Nat) : (s.acquireCore c).ref = s.ref := rfl
@[simp] theorem State.acquireCore_islands (s : State) (c : Nat) : (s.acquireCore c).islands = s.islands := rfl
@[simp] theorem State.acquireCore_mem (s : State) (c : Nat) : (s.acquireCore c).mem = s.mem := rfl
@[simp] theorem State.acquireCore_spad (s : State) (c : Nat) : (s.acquireCore c).spad = s.spad := rfl
@[simp] theorem State.acquireCore_tmem (s : State) (c : Nat) : (s.acquireCore c).tmem = s.tmem := rfl
@[simp] theorem State.acquireCore_comp (s : State) (c : Nat) : (s.acquireCore c).comp = s.comp := rfl
@[simp] theorem State.acquireCore_parts (s : State) (c : Nat) : (s.acquireCore c).parts = s.parts := rfl
@[simp] theorem State.acquireCore_bars (s : State) (c : Nat) : (s.acquireCore c).bars = s.bars := rfl
@[simp] theorem State.acquireCore_dbg (s : State) (c : Nat) : (s.acquireCore c).dbg = s.dbg := rfl
@[simp] theorem State.acquireCore_ops (s : State) (c : Nat) : (s.acquireCore c).ops = s.ops := rfl
@[simp] theorem State.acquireCore_reqs (s : State) (c : Nat) : (s.acquireCore c).reqs = s.reqs := rfl
@[simp] theorem State.acquireCore_contribs (s : State) (c : Nat) : (s.acquireCore c).contribs = s.contribs := rfl
@[simp] theorem State.acquireCore_streams (s : State) (c : Nat) : (s.acquireCore c).streams = s.streams := rfl
@[simp] theorem State.acquireCore_wordOwner (s : State) (c : Nat) : (s.acquireCore c).wordOwner = s.wordOwner := rfl
@[simp] theorem State.acquireCore_partials (s : State) (c : Nat) : (s.acquireCore c).partials = s.partials := rfl
@[simp] theorem State.acquireCore_tlb (s : State) (c : Nat) : (s.acquireCore c).tlb = s.tlb := rfl
@[simp] theorem State.acquireCore_xlat (s : State) (c : Nat) : (s.acquireCore c).xlat = s.xlat := rfl
@[simp] theorem State.acquireCore_locks (s : State) (c : Nat) : (s.acquireCore c).locks = s.locks := rfl
@[simp] theorem State.acquireCore_ctxs (s : State) (c : Nat) : (s.acquireCore c).ctxs = s.ctxs := rfl
@[simp] theorem State.acquireCore_teams (s : State) (c : Nat) : (s.acquireCore c).teams = s.teams := rfl
@[simp] theorem State.acquireCore_grids (s : State) (c : Nat) : (s.acquireCore c).grids = s.grids := rfl
@[simp] theorem State.acquireCore_msgs (s : State) (c : Nat) : (s.acquireCore c).msgs = s.msgs := rfl
@[simp] theorem State.acquireCore_copies (s : State) (c : Nat) : (s.acquireCore c).copies = s.copies := rfl
@[simp] theorem State.acquireCore_tokens (s : State) (c : Nat) : (s.acquireCore c).tokens = s.tokens := rfl
@[simp] theorem State.acquireCore_tileOps (s : State) (c : Nat) : (s.acquireCore c).tileOps = s.tileOps := rfl
@[simp] theorem State.acquireCore_passes (s : State) (c : Nat) : (s.acquireCore c).passes = s.passes := rfl
@[simp] theorem State.acquireCore_drains (s : State) (c : Nat) : (s.acquireCore c).drains = s.drains := rfl
@[simp] theorem State.acquireCore_tepLast (s : State) (c : Nat) : (s.acquireCore c).tepLast = s.tepLast := rfl
@[simp] theorem State.acquireCore_copyLast (s : State) (c : Nat) : (s.acquireCore c).copyLast = s.copyLast := rfl
@[simp] theorem State.acquireCore_mxcal (s : State) (c : Nat) : (s.acquireCore c).mxcal = s.mxcal := rfl
@[simp] theorem State.acquireCore_te (s : State) (c : Nat) : (s.acquireCore c).te = s.te := rfl
@[simp] theorem State.acquireCore_fab (s : State) (c : Nat) : (s.acquireCore c).fab = s.fab := rfl
@[simp] theorem State.acquireCore_stk (s : State) (c : Nat) : (s.acquireCore c).stk = s.stk := rfl
@[simp] theorem State.acquireCore_sec (s : State) (c : Nat) : (s.acquireCore c).sec = s.sec := rfl
@[simp] theorem State.acquireCore_hst (s : State) (c : Nat) : (s.acquireCore c).hst = s.hst := rfl

/-! ### State.dropLocks -/

@[simp] theorem State.dropLocks_cur (s : State) (r : GRef) : (s.dropLocks r).cur = s.cur := rfl
@[simp] theorem State.dropLocks_sched (s : State) (r : GRef) : (s.dropLocks r).sched = s.sched := rfl
@[simp] theorem State.dropLocks_late (s : State) (r : GRef) : (s.dropLocks r).late = s.late := rfl
@[simp] theorem State.dropLocks_free (s : State) (r : GRef) : (s.dropLocks r).free = s.free := rfl
@[simp] theorem State.dropLocks_nextId (s : State) (r : GRef) : (s.dropLocks r).nextId = s.nextId := rfl
@[simp] theorem State.dropLocks_ref (s : State) (r : GRef) : (s.dropLocks r).ref = s.ref := rfl
@[simp] theorem State.dropLocks_islands (s : State) (r : GRef) : (s.dropLocks r).islands = s.islands := rfl
@[simp] theorem State.dropLocks_mem (s : State) (r : GRef) : (s.dropLocks r).mem = s.mem := rfl
@[simp] theorem State.dropLocks_spad (s : State) (r : GRef) : (s.dropLocks r).spad = s.spad := rfl
@[simp] theorem State.dropLocks_tmem (s : State) (r : GRef) : (s.dropLocks r).tmem = s.tmem := rfl
@[simp] theorem State.dropLocks_comp (s : State) (r : GRef) : (s.dropLocks r).comp = s.comp := rfl
@[simp] theorem State.dropLocks_parts (s : State) (r : GRef) : (s.dropLocks r).parts = s.parts := rfl
@[simp] theorem State.dropLocks_bars (s : State) (r : GRef) : (s.dropLocks r).bars = s.bars := rfl
@[simp] theorem State.dropLocks_dbg (s : State) (r : GRef) : (s.dropLocks r).dbg = s.dbg := rfl
@[simp] theorem State.dropLocks_ops (s : State) (r : GRef) : (s.dropLocks r).ops = s.ops := rfl
@[simp] theorem State.dropLocks_reqs (s : State) (r : GRef) : (s.dropLocks r).reqs = s.reqs := rfl
@[simp] theorem State.dropLocks_contribs (s : State) (r : GRef) : (s.dropLocks r).contribs = s.contribs := rfl
@[simp] theorem State.dropLocks_streams (s : State) (r : GRef) : (s.dropLocks r).streams = s.streams := rfl
@[simp] theorem State.dropLocks_l1 (s : State) (r : GRef) : (s.dropLocks r).l1 = s.l1 := rfl
@[simp] theorem State.dropLocks_wordOwner (s : State) (r : GRef) : (s.dropLocks r).wordOwner = s.wordOwner := rfl
@[simp] theorem State.dropLocks_partials (s : State) (r : GRef) : (s.dropLocks r).partials = s.partials := rfl
@[simp] theorem State.dropLocks_tlb (s : State) (r : GRef) : (s.dropLocks r).tlb = s.tlb := rfl
@[simp] theorem State.dropLocks_xlat (s : State) (r : GRef) : (s.dropLocks r).xlat = s.xlat := rfl
@[simp] theorem State.dropLocks_ctxs (s : State) (r : GRef) : (s.dropLocks r).ctxs = s.ctxs := rfl
@[simp] theorem State.dropLocks_teams (s : State) (r : GRef) : (s.dropLocks r).teams = s.teams := rfl
@[simp] theorem State.dropLocks_grids (s : State) (r : GRef) : (s.dropLocks r).grids = s.grids := rfl
@[simp] theorem State.dropLocks_msgs (s : State) (r : GRef) : (s.dropLocks r).msgs = s.msgs := rfl
@[simp] theorem State.dropLocks_copies (s : State) (r : GRef) : (s.dropLocks r).copies = s.copies := rfl
@[simp] theorem State.dropLocks_tokens (s : State) (r : GRef) : (s.dropLocks r).tokens = s.tokens := rfl
@[simp] theorem State.dropLocks_tileOps (s : State) (r : GRef) : (s.dropLocks r).tileOps = s.tileOps := rfl
@[simp] theorem State.dropLocks_passes (s : State) (r : GRef) : (s.dropLocks r).passes = s.passes := rfl
@[simp] theorem State.dropLocks_drains (s : State) (r : GRef) : (s.dropLocks r).drains = s.drains := rfl
@[simp] theorem State.dropLocks_tepLast (s : State) (r : GRef) : (s.dropLocks r).tepLast = s.tepLast := rfl
@[simp] theorem State.dropLocks_copyLast (s : State) (r : GRef) : (s.dropLocks r).copyLast = s.copyLast := rfl
@[simp] theorem State.dropLocks_mxcal (s : State) (r : GRef) : (s.dropLocks r).mxcal = s.mxcal := rfl
@[simp] theorem State.dropLocks_te (s : State) (r : GRef) : (s.dropLocks r).te = s.te := rfl
@[simp] theorem State.dropLocks_fab (s : State) (r : GRef) : (s.dropLocks r).fab = s.fab := rfl
@[simp] theorem State.dropLocks_stk (s : State) (r : GRef) : (s.dropLocks r).stk = s.stk := rfl
@[simp] theorem State.dropLocks_sec (s : State) (r : GRef) : (s.dropLocks r).sec = s.sec := rfl
@[simp] theorem State.dropLocks_hst (s : State) (r : GRef) : (s.dropLocks r).hst = s.hst := rfl

/-! ### State.leaveTrapSlot -/

@[simp] theorem State.leaveTrapSlot_cur (s : State) (c p : Nat) (r : GRef) : (s.leaveTrapSlot c p r).cur = s.cur := rfl
@[simp] theorem State.leaveTrapSlot_sched (s : State) (c p : Nat) (r : GRef) : (s.leaveTrapSlot c p r).sched = s.sched := rfl
@[simp] theorem State.leaveTrapSlot_late (s : State) (c p : Nat) (r : GRef) : (s.leaveTrapSlot c p r).late = s.late := rfl
@[simp] theorem State.leaveTrapSlot_free (s : State) (c p : Nat) (r : GRef) : (s.leaveTrapSlot c p r).free = s.free := rfl
@[simp] theorem State.leaveTrapSlot_nextId (s : State) (c p : Nat) (r : GRef) : (s.leaveTrapSlot c p r).nextId = s.nextId := rfl
@[simp] theorem State.leaveTrapSlot_ref (s : State) (c p : Nat) (r : GRef) : (s.leaveTrapSlot c p r).ref = s.ref := rfl
@[simp] theorem State.leaveTrapSlot_islands (s : State) (c p : Nat) (r : GRef) : (s.leaveTrapSlot c p r).islands = s.islands := rfl
@[simp] theorem State.leaveTrapSlot_mem (s : State) (c p : Nat) (r : GRef) : (s.leaveTrapSlot c p r).mem = s.mem := rfl
@[simp] theorem State.leaveTrapSlot_spad (s : State) (c p : Nat) (r : GRef) : (s.leaveTrapSlot c p r).spad = s.spad := rfl
@[simp] theorem State.leaveTrapSlot_tmem (s : State) (c p : Nat) (r : GRef) : (s.leaveTrapSlot c p r).tmem = s.tmem := rfl
@[simp] theorem State.leaveTrapSlot_comp (s : State) (c p : Nat) (r : GRef) : (s.leaveTrapSlot c p r).comp = s.comp := rfl
@[simp] theorem State.leaveTrapSlot_bars (s : State) (c p : Nat) (r : GRef) : (s.leaveTrapSlot c p r).bars = s.bars := rfl
@[simp] theorem State.leaveTrapSlot_dbg (s : State) (c p : Nat) (r : GRef) : (s.leaveTrapSlot c p r).dbg = s.dbg := rfl
@[simp] theorem State.leaveTrapSlot_ops (s : State) (c p : Nat) (r : GRef) : (s.leaveTrapSlot c p r).ops = s.ops := rfl
@[simp] theorem State.leaveTrapSlot_reqs (s : State) (c p : Nat) (r : GRef) : (s.leaveTrapSlot c p r).reqs = s.reqs := rfl
@[simp] theorem State.leaveTrapSlot_contribs (s : State) (c p : Nat) (r : GRef) : (s.leaveTrapSlot c p r).contribs = s.contribs := rfl
@[simp] theorem State.leaveTrapSlot_streams (s : State) (c p : Nat) (r : GRef) : (s.leaveTrapSlot c p r).streams = s.streams := rfl
@[simp] theorem State.leaveTrapSlot_l1 (s : State) (c p : Nat) (r : GRef) : (s.leaveTrapSlot c p r).l1 = s.l1 := rfl
@[simp] theorem State.leaveTrapSlot_wordOwner (s : State) (c p : Nat) (r : GRef) : (s.leaveTrapSlot c p r).wordOwner = s.wordOwner := rfl
@[simp] theorem State.leaveTrapSlot_partials (s : State) (c p : Nat) (r : GRef) : (s.leaveTrapSlot c p r).partials = s.partials := rfl
@[simp] theorem State.leaveTrapSlot_tlb (s : State) (c p : Nat) (r : GRef) : (s.leaveTrapSlot c p r).tlb = s.tlb := rfl
@[simp] theorem State.leaveTrapSlot_xlat (s : State) (c p : Nat) (r : GRef) : (s.leaveTrapSlot c p r).xlat = s.xlat := rfl
@[simp] theorem State.leaveTrapSlot_locks (s : State) (c p : Nat) (r : GRef) : (s.leaveTrapSlot c p r).locks = s.locks := rfl
@[simp] theorem State.leaveTrapSlot_ctxs (s : State) (c p : Nat) (r : GRef) : (s.leaveTrapSlot c p r).ctxs = s.ctxs := rfl
@[simp] theorem State.leaveTrapSlot_teams (s : State) (c p : Nat) (r : GRef) : (s.leaveTrapSlot c p r).teams = s.teams := rfl
@[simp] theorem State.leaveTrapSlot_grids (s : State) (c p : Nat) (r : GRef) : (s.leaveTrapSlot c p r).grids = s.grids := rfl
@[simp] theorem State.leaveTrapSlot_msgs (s : State) (c p : Nat) (r : GRef) : (s.leaveTrapSlot c p r).msgs = s.msgs := rfl
@[simp] theorem State.leaveTrapSlot_copies (s : State) (c p : Nat) (r : GRef) : (s.leaveTrapSlot c p r).copies = s.copies := rfl
@[simp] theorem State.leaveTrapSlot_tokens (s : State) (c p : Nat) (r : GRef) : (s.leaveTrapSlot c p r).tokens = s.tokens := rfl
@[simp] theorem State.leaveTrapSlot_tileOps (s : State) (c p : Nat) (r : GRef) : (s.leaveTrapSlot c p r).tileOps = s.tileOps := rfl
@[simp] theorem State.leaveTrapSlot_passes (s : State) (c p : Nat) (r : GRef) : (s.leaveTrapSlot c p r).passes = s.passes := rfl
@[simp] theorem State.leaveTrapSlot_drains (s : State) (c p : Nat) (r : GRef) : (s.leaveTrapSlot c p r).drains = s.drains := rfl
@[simp] theorem State.leaveTrapSlot_tepLast (s : State) (c p : Nat) (r : GRef) : (s.leaveTrapSlot c p r).tepLast = s.tepLast := rfl
@[simp] theorem State.leaveTrapSlot_copyLast (s : State) (c p : Nat) (r : GRef) : (s.leaveTrapSlot c p r).copyLast = s.copyLast := rfl
@[simp] theorem State.leaveTrapSlot_mxcal (s : State) (c p : Nat) (r : GRef) : (s.leaveTrapSlot c p r).mxcal = s.mxcal := rfl
@[simp] theorem State.leaveTrapSlot_te (s : State) (c p : Nat) (r : GRef) : (s.leaveTrapSlot c p r).te = s.te := rfl
@[simp] theorem State.leaveTrapSlot_fab (s : State) (c p : Nat) (r : GRef) : (s.leaveTrapSlot c p r).fab = s.fab := rfl
@[simp] theorem State.leaveTrapSlot_stk (s : State) (c p : Nat) (r : GRef) : (s.leaveTrapSlot c p r).stk = s.stk := rfl
@[simp] theorem State.leaveTrapSlot_sec (s : State) (c p : Nat) (r : GRef) : (s.leaveTrapSlot c p r).sec = s.sec := rfl
@[simp] theorem State.leaveTrapSlot_hst (s : State) (c p : Nat) (r : GRef) : (s.leaveTrapSlot c p r).hst = s.hst := rfl

/-! ### State.suspend -/

@[simp] theorem State.suspend_cur (s : State) (r : GRef) (ps : List MissPage) (h : Option DWord) : (s.suspend r ps h).cur = s.cur := rfl
@[simp] theorem State.suspend_sched (s : State) (r : GRef) (ps : List MissPage) (h : Option DWord) : (s.suspend r ps h).sched = s.sched := rfl
@[simp] theorem State.suspend_late (s : State) (r : GRef) (ps : List MissPage) (h : Option DWord) : (s.suspend r ps h).late = s.late := rfl
@[simp] theorem State.suspend_free (s : State) (r : GRef) (ps : List MissPage) (h : Option DWord) : (s.suspend r ps h).free = s.free := rfl
@[simp] theorem State.suspend_nextId (s : State) (r : GRef) (ps : List MissPage) (h : Option DWord) : (s.suspend r ps h).nextId = s.nextId := rfl
@[simp] theorem State.suspend_ref (s : State) (r : GRef) (ps : List MissPage) (h : Option DWord) : (s.suspend r ps h).ref = s.ref := rfl
@[simp] theorem State.suspend_islands (s : State) (r : GRef) (ps : List MissPage) (h : Option DWord) : (s.suspend r ps h).islands = s.islands := rfl
@[simp] theorem State.suspend_mem (s : State) (r : GRef) (ps : List MissPage) (h : Option DWord) : (s.suspend r ps h).mem = s.mem := rfl
@[simp] theorem State.suspend_spad (s : State) (r : GRef) (ps : List MissPage) (h : Option DWord) : (s.suspend r ps h).spad = s.spad := rfl
@[simp] theorem State.suspend_tmem (s : State) (r : GRef) (ps : List MissPage) (h : Option DWord) : (s.suspend r ps h).tmem = s.tmem := rfl
@[simp] theorem State.suspend_comp (s : State) (r : GRef) (ps : List MissPage) (h : Option DWord) : (s.suspend r ps h).comp = s.comp := rfl
@[simp] theorem State.suspend_parts (s : State) (r : GRef) (ps : List MissPage) (h : Option DWord) : (s.suspend r ps h).parts = s.parts := rfl
@[simp] theorem State.suspend_bars (s : State) (r : GRef) (ps : List MissPage) (h : Option DWord) : (s.suspend r ps h).bars = s.bars := rfl
@[simp] theorem State.suspend_dbg (s : State) (r : GRef) (ps : List MissPage) (h : Option DWord) : (s.suspend r ps h).dbg = s.dbg := rfl
@[simp] theorem State.suspend_ops (s : State) (r : GRef) (ps : List MissPage) (h : Option DWord) : (s.suspend r ps h).ops = s.ops := rfl
@[simp] theorem State.suspend_reqs (s : State) (r : GRef) (ps : List MissPage) (h : Option DWord) : (s.suspend r ps h).reqs = s.reqs := rfl
@[simp] theorem State.suspend_contribs (s : State) (r : GRef) (ps : List MissPage) (h : Option DWord) : (s.suspend r ps h).contribs = s.contribs := rfl
@[simp] theorem State.suspend_streams (s : State) (r : GRef) (ps : List MissPage) (h : Option DWord) : (s.suspend r ps h).streams = s.streams := rfl
@[simp] theorem State.suspend_l1 (s : State) (r : GRef) (ps : List MissPage) (h : Option DWord) : (s.suspend r ps h).l1 = s.l1 := rfl
@[simp] theorem State.suspend_wordOwner (s : State) (r : GRef) (ps : List MissPage) (h : Option DWord) : (s.suspend r ps h).wordOwner = s.wordOwner := rfl
@[simp] theorem State.suspend_partials (s : State) (r : GRef) (ps : List MissPage) (h : Option DWord) : (s.suspend r ps h).partials = s.partials := rfl
@[simp] theorem State.suspend_tlb (s : State) (r : GRef) (ps : List MissPage) (h : Option DWord) : (s.suspend r ps h).tlb = s.tlb := rfl
@[simp] theorem State.suspend_xlat (s : State) (r : GRef) (ps : List MissPage) (h : Option DWord) : (s.suspend r ps h).xlat = s.xlat := rfl
@[simp] theorem State.suspend_locks (s : State) (r : GRef) (ps : List MissPage) (h : Option DWord) : (s.suspend r ps h).locks = s.locks := rfl
@[simp] theorem State.suspend_ctxs (s : State) (r : GRef) (ps : List MissPage) (h : Option DWord) : (s.suspend r ps h).ctxs = s.ctxs := rfl
@[simp] theorem State.suspend_grids (s : State) (r : GRef) (ps : List MissPage) (h : Option DWord) : (s.suspend r ps h).grids = s.grids := rfl
@[simp] theorem State.suspend_msgs (s : State) (r : GRef) (ps : List MissPage) (h : Option DWord) : (s.suspend r ps h).msgs = s.msgs := rfl
@[simp] theorem State.suspend_copies (s : State) (r : GRef) (ps : List MissPage) (h : Option DWord) : (s.suspend r ps h).copies = s.copies := rfl
@[simp] theorem State.suspend_tokens (s : State) (r : GRef) (ps : List MissPage) (h : Option DWord) : (s.suspend r ps h).tokens = s.tokens := rfl
@[simp] theorem State.suspend_tileOps (s : State) (r : GRef) (ps : List MissPage) (h : Option DWord) : (s.suspend r ps h).tileOps = s.tileOps := rfl
@[simp] theorem State.suspend_passes (s : State) (r : GRef) (ps : List MissPage) (h : Option DWord) : (s.suspend r ps h).passes = s.passes := rfl
@[simp] theorem State.suspend_drains (s : State) (r : GRef) (ps : List MissPage) (h : Option DWord) : (s.suspend r ps h).drains = s.drains := rfl
@[simp] theorem State.suspend_tepLast (s : State) (r : GRef) (ps : List MissPage) (h : Option DWord) : (s.suspend r ps h).tepLast = s.tepLast := rfl
@[simp] theorem State.suspend_copyLast (s : State) (r : GRef) (ps : List MissPage) (h : Option DWord) : (s.suspend r ps h).copyLast = s.copyLast := rfl
@[simp] theorem State.suspend_mxcal (s : State) (r : GRef) (ps : List MissPage) (h : Option DWord) : (s.suspend r ps h).mxcal = s.mxcal := rfl
@[simp] theorem State.suspend_te (s : State) (r : GRef) (ps : List MissPage) (h : Option DWord) : (s.suspend r ps h).te = s.te := rfl
@[simp] theorem State.suspend_fab (s : State) (r : GRef) (ps : List MissPage) (h : Option DWord) : (s.suspend r ps h).fab = s.fab := rfl
@[simp] theorem State.suspend_stk (s : State) (r : GRef) (ps : List MissPage) (h : Option DWord) : (s.suspend r ps h).stk = s.stk := rfl
@[simp] theorem State.suspend_sec (s : State) (r : GRef) (ps : List MissPage) (h : Option DWord) : (s.suspend r ps h).sec = s.sec := rfl
@[simp] theorem State.suspend_hst (s : State) (r : GRef) (ps : List MissPage) (h : Option DWord) : (s.suspend r ps h).hst = s.hst := rfl

/-! ### Numbers and free values -/

@[simp] theorem State.fresh_cur (s : State) : s.fresh.2.cur = s.cur := rfl
@[simp] theorem State.fresh_sched (s : State) : s.fresh.2.sched = s.sched := rfl
@[simp] theorem State.fresh_late (s : State) : s.fresh.2.late = s.late := rfl
@[simp] theorem State.fresh_free (s : State) : s.fresh.2.free = s.free := rfl
@[simp] theorem State.fresh_ref (s : State) : s.fresh.2.ref = s.ref := rfl
@[simp] theorem State.fresh_islands (s : State) : s.fresh.2.islands = s.islands := rfl
@[simp] theorem State.fresh_mem (s : State) : s.fresh.2.mem = s.mem := rfl
@[simp] theorem State.fresh_spad (s : State) : s.fresh.2.spad = s.spad := rfl
@[simp] theorem State.fresh_tmem (s : State) : s.fresh.2.tmem = s.tmem := rfl
@[simp] theorem State.fresh_comp (s : State) : s.fresh.2.comp = s.comp := rfl
@[simp] theorem State.fresh_parts (s : State) : s.fresh.2.parts = s.parts := rfl
@[simp] theorem State.fresh_bars (s : State) : s.fresh.2.bars = s.bars := rfl
@[simp] theorem State.fresh_dbg (s : State) : s.fresh.2.dbg = s.dbg := rfl
@[simp] theorem State.fresh_ops (s : State) : s.fresh.2.ops = s.ops := rfl
@[simp] theorem State.fresh_reqs (s : State) : s.fresh.2.reqs = s.reqs := rfl
@[simp] theorem State.fresh_contribs (s : State) : s.fresh.2.contribs = s.contribs := rfl
@[simp] theorem State.fresh_streams (s : State) : s.fresh.2.streams = s.streams := rfl
@[simp] theorem State.fresh_l1 (s : State) : s.fresh.2.l1 = s.l1 := rfl
@[simp] theorem State.fresh_wordOwner (s : State) : s.fresh.2.wordOwner = s.wordOwner := rfl
@[simp] theorem State.fresh_partials (s : State) : s.fresh.2.partials = s.partials := rfl
@[simp] theorem State.fresh_tlb (s : State) : s.fresh.2.tlb = s.tlb := rfl
@[simp] theorem State.fresh_xlat (s : State) : s.fresh.2.xlat = s.xlat := rfl
@[simp] theorem State.fresh_locks (s : State) : s.fresh.2.locks = s.locks := rfl
@[simp] theorem State.fresh_ctxs (s : State) : s.fresh.2.ctxs = s.ctxs := rfl
@[simp] theorem State.fresh_teams (s : State) : s.fresh.2.teams = s.teams := rfl
@[simp] theorem State.fresh_grids (s : State) : s.fresh.2.grids = s.grids := rfl
@[simp] theorem State.fresh_msgs (s : State) : s.fresh.2.msgs = s.msgs := rfl
@[simp] theorem State.fresh_copies (s : State) : s.fresh.2.copies = s.copies := rfl
@[simp] theorem State.fresh_tokens (s : State) : s.fresh.2.tokens = s.tokens := rfl
@[simp] theorem State.fresh_tileOps (s : State) : s.fresh.2.tileOps = s.tileOps := rfl
@[simp] theorem State.fresh_passes (s : State) : s.fresh.2.passes = s.passes := rfl
@[simp] theorem State.fresh_drains (s : State) : s.fresh.2.drains = s.drains := rfl
@[simp] theorem State.fresh_tepLast (s : State) : s.fresh.2.tepLast = s.tepLast := rfl
@[simp] theorem State.fresh_copyLast (s : State) : s.fresh.2.copyLast = s.copyLast := rfl
@[simp] theorem State.fresh_mxcal (s : State) : s.fresh.2.mxcal = s.mxcal := rfl
@[simp] theorem State.fresh_te (s : State) : s.fresh.2.te = s.te := rfl
@[simp] theorem State.fresh_fab (s : State) : s.fresh.2.fab = s.fab := rfl
@[simp] theorem State.fresh_stk (s : State) : s.fresh.2.stk = s.stk := rfl
@[simp] theorem State.fresh_sec (s : State) : s.fresh.2.sec = s.sec := rfl
@[simp] theorem State.fresh_hst (s : State) : s.fresh.2.hst = s.hst := rfl
@[simp] theorem State.drawFree_cur (s : State) : s.drawFree.2.cur = s.cur := rfl
@[simp] theorem State.drawFree_sched (s : State) : s.drawFree.2.sched = s.sched := rfl
@[simp] theorem State.drawFree_late (s : State) : s.drawFree.2.late = s.late := rfl
@[simp] theorem State.drawFree_nextId (s : State) : s.drawFree.2.nextId = s.nextId := rfl
@[simp] theorem State.drawFree_ref (s : State) : s.drawFree.2.ref = s.ref := rfl
@[simp] theorem State.drawFree_islands (s : State) : s.drawFree.2.islands = s.islands := rfl
@[simp] theorem State.drawFree_mem (s : State) : s.drawFree.2.mem = s.mem := rfl
@[simp] theorem State.drawFree_spad (s : State) : s.drawFree.2.spad = s.spad := rfl
@[simp] theorem State.drawFree_tmem (s : State) : s.drawFree.2.tmem = s.tmem := rfl
@[simp] theorem State.drawFree_comp (s : State) : s.drawFree.2.comp = s.comp := rfl
@[simp] theorem State.drawFree_parts (s : State) : s.drawFree.2.parts = s.parts := rfl
@[simp] theorem State.drawFree_bars (s : State) : s.drawFree.2.bars = s.bars := rfl
@[simp] theorem State.drawFree_dbg (s : State) : s.drawFree.2.dbg = s.dbg := rfl
@[simp] theorem State.drawFree_ops (s : State) : s.drawFree.2.ops = s.ops := rfl
@[simp] theorem State.drawFree_reqs (s : State) : s.drawFree.2.reqs = s.reqs := rfl
@[simp] theorem State.drawFree_contribs (s : State) : s.drawFree.2.contribs = s.contribs := rfl
@[simp] theorem State.drawFree_streams (s : State) : s.drawFree.2.streams = s.streams := rfl
@[simp] theorem State.drawFree_l1 (s : State) : s.drawFree.2.l1 = s.l1 := rfl
@[simp] theorem State.drawFree_wordOwner (s : State) : s.drawFree.2.wordOwner = s.wordOwner := rfl
@[simp] theorem State.drawFree_partials (s : State) : s.drawFree.2.partials = s.partials := rfl
@[simp] theorem State.drawFree_tlb (s : State) : s.drawFree.2.tlb = s.tlb := rfl
@[simp] theorem State.drawFree_xlat (s : State) : s.drawFree.2.xlat = s.xlat := rfl
@[simp] theorem State.drawFree_locks (s : State) : s.drawFree.2.locks = s.locks := rfl
@[simp] theorem State.drawFree_ctxs (s : State) : s.drawFree.2.ctxs = s.ctxs := rfl
@[simp] theorem State.drawFree_teams (s : State) : s.drawFree.2.teams = s.teams := rfl
@[simp] theorem State.drawFree_grids (s : State) : s.drawFree.2.grids = s.grids := rfl
@[simp] theorem State.drawFree_msgs (s : State) : s.drawFree.2.msgs = s.msgs := rfl
@[simp] theorem State.drawFree_copies (s : State) : s.drawFree.2.copies = s.copies := rfl
@[simp] theorem State.drawFree_tokens (s : State) : s.drawFree.2.tokens = s.tokens := rfl
@[simp] theorem State.drawFree_tileOps (s : State) : s.drawFree.2.tileOps = s.tileOps := rfl
@[simp] theorem State.drawFree_passes (s : State) : s.drawFree.2.passes = s.passes := rfl
@[simp] theorem State.drawFree_drains (s : State) : s.drawFree.2.drains = s.drains := rfl
@[simp] theorem State.drawFree_tepLast (s : State) : s.drawFree.2.tepLast = s.tepLast := rfl
@[simp] theorem State.drawFree_copyLast (s : State) : s.drawFree.2.copyLast = s.copyLast := rfl
@[simp] theorem State.drawFree_mxcal (s : State) : s.drawFree.2.mxcal = s.mxcal := rfl
@[simp] theorem State.drawFree_te (s : State) : s.drawFree.2.te = s.te := rfl
@[simp] theorem State.drawFree_fab (s : State) : s.drawFree.2.fab = s.fab := rfl
@[simp] theorem State.drawFree_stk (s : State) : s.drawFree.2.stk = s.stk := rfl
@[simp] theorem State.drawFree_sec (s : State) : s.drawFree.2.sec = s.sec := rfl
@[simp] theorem State.drawFree_hst (s : State) : s.drawFree.2.hst = s.hst := rfl

/-! ### Group.atBoundary -/

@[simp] theorem Group.atBoundary_sreg (g : Group) (ref : Nat) : (g.atBoundary ref).sreg = g.sreg := by unfold Group.atBoundary; split <;> rfl
@[simp] theorem Group.atBoundary_vreg (g : Group) (ref : Nat) : (g.atBoundary ref).vreg = g.vreg := by unfold Group.atBoundary; split <;> rfl
@[simp] theorem Group.atBoundary_preg (g : Group) (ref : Nat) : (g.atBoundary ref).preg = g.preg := by unfold Group.atBoundary; split <;> rfl
@[simp] theorem Group.atBoundary_flag (g : Group) (ref : Nat) : (g.atBoundary ref).flag = g.flag := by unfold Group.atBoundary; split <;> rfl
@[simp] theorem Group.atBoundary_pc (g : Group) (ref : Nat) : (g.atBoundary ref).pc = g.pc := by unfold Group.atBoundary; split <;> rfl
@[simp] theorem Group.atBoundary_clause (g : Group) (ref : Nat) : (g.atBoundary ref).clause = g.clause := by unfold Group.atBoundary; split <;> rfl
@[simp] theorem Group.atBoundary_resume (g : Group) (ref : Nat) : (g.atBoundary ref).resume = g.resume := by unfold Group.atBoundary; split <;> rfl
@[simp] theorem Group.atBoundary_lastHdr (g : Group) (ref : Nat) : (g.atBoundary ref).lastHdr = g.lastHdr := by unfold Group.atBoundary; split <;> rfl
@[simp] theorem Group.atBoundary_divTop (g : Group) (ref : Nat) : (g.atBoundary ref).divTop = g.divTop := by unfold Group.atBoundary; split <;> rfl
@[simp] theorem Group.atBoundary_divSpilled (g : Group) (ref : Nat) : (g.atBoundary ref).divSpilled = g.divSpilled := by unfold Group.atBoundary; split <;> rfl
@[simp] theorem Group.atBoundary_exited (g : Group) (ref : Nat) : (g.atBoundary ref).exited = g.exited := by unfold Group.atBoundary; split <;> rfl
@[simp] theorem Group.atBoundary_cvm (g : Group) (ref : Nat) : (g.atBoundary ref).cvm = g.cvm := by unfold Group.atBoundary; split <;> rfl
@[simp] theorem Group.atBoundary_srseed (g : Group) (ref : Nat) : (g.atBoundary ref).srseed = g.srseed := by unfold Group.atBoundary; split <;> rfl
@[simp] theorem Group.atBoundary_sr (g : Group) (ref : Nat) : (g.atBoundary ref).sr = g.sr := by unfold Group.atBoundary; split <;> rfl
@[simp] theorem Group.atBoundary_trapvec (g : Group) (ref : Nat) : (g.atBoundary ref).trapvec = g.trapvec := by unfold Group.atBoundary; split <;> rfl
@[simp] theorem Group.atBoundary_trapcode (g : Group) (ref : Nat) : (g.atBoundary ref).trapcode = g.trapcode := by unfold Group.atBoundary; split <;> rfl
@[simp] theorem Group.atBoundary_trappc (g : Group) (ref : Nat) : (g.atBoundary ref).trappc = g.trappc := by unfold Group.atBoundary; split <;> rfl
@[simp] theorem Group.atBoundary_trapinfo (g : Group) (ref : Nat) : (g.atBoundary ref).trapinfo = g.trapinfo := by unfold Group.atBoundary; split <;> rfl
@[simp] theorem Group.atBoundary_cfg (g : Group) (ref : Nat) : (g.atBoundary ref).cfg = g.cfg := by unfold Group.atBoundary; split <;> rfl
@[simp] theorem Group.atBoundary_intrap (g : Group) (ref : Nat) : (g.atBoundary ref).intrap = g.intrap := by unfold Group.atBoundary; split <;> rfl
@[simp] theorem Group.atBoundary_trapmask (g : Group) (ref : Nat) : (g.atBoundary ref).trapmask = g.trapmask := by unfold Group.atBoundary; split <;> rfl
@[simp] theorem Group.atBoundary_trapdepth (g : Group) (ref : Nat) : (g.atBoundary ref).trapdepth = g.trapdepth := by unfold Group.atBoundary; split <;> rfl
@[simp] theorem Group.atBoundary_retired (g : Group) (ref : Nat) : (g.atBoundary ref).retired = g.retired := by unfold Group.atBoundary; split <;> rfl
@[simp] theorem Group.atBoundary_withdrawn (g : Group) (ref : Nat) : (g.atBoundary ref).withdrawn = g.withdrawn := by unfold Group.atBoundary; split <;> rfl
@[simp] theorem Group.atBoundary_waiting (g : Group) (ref : Nat) : (g.atBoundary ref).waiting = g.waiting := by unfold Group.atBoundary; split <;> rfl
@[simp] theorem Group.atBoundary_woken (g : Group) (ref : Nat) : (g.atBoundary ref).woken = g.woken := by unfold Group.atBoundary; split <;> rfl
@[simp] theorem Group.atBoundary_waitIds (g : Group) (ref : Nat) : (g.atBoundary ref).waitIds = g.waitIds := by unfold Group.atBoundary; split <;> rfl
@[simp] theorem Group.atBoundary_waitPhase (g : Group) (ref : Nat) : (g.atBoundary ref).waitPhase = g.waitPhase := by unfold Group.atBoundary; split <;> rfl
@[simp] theorem Group.atBoundary_waitFrom (g : Group) (ref : Nat) : (g.atBoundary ref).waitFrom = g.waitFrom := by unfold Group.atBoundary; split <;> rfl
@[simp] theorem Group.atBoundary_place (g : Group) (ref : Nat) : (g.atBoundary ref).place = g.place := by unfold Group.atBoundary; split <;> rfl
@[simp] theorem Group.atBoundary_entered (g : Group) (ref : Nat) : (g.atBoundary ref).entered = g.entered := by unfold Group.atBoundary; split <;> rfl
@[simp] theorem Group.atBoundary_eligible (g : Group) (ref : Nat) : (g.atBoundary ref).eligible = g.eligible := by unfold Group.atBoundary; split <;> rfl
@[simp] theorem Group.atBoundary_sleepUntil (g : Group) (ref : Nat) : (g.atBoundary ref).sleepUntil = g.sleepUntil := by unfold Group.atBoundary; split <;> rfl
@[simp] theorem Group.atBoundary_seals (g : Group) (ref : Nat) : (g.atBoundary ref).seals = g.seals := by unfold Group.atBoundary; split <;> rfl
@[simp] theorem Group.atBoundary_held (g : Group) (ref : Nat) : (g.atBoundary ref).held = g.held := by unfold Group.atBoundary; split <;> rfl
@[simp] theorem Group.atBoundary_yieldAt (g : Group) (ref : Nat) : (g.atBoundary ref).yieldAt = g.yieldAt := by unfold Group.atBoundary; split <;> rfl
@[simp] theorem Group.atBoundary_trapAt (g : Group) (ref : Nat) : (g.atBoundary ref).trapAt = g.trapAt := by unfold Group.atBoundary; split <;> rfl
@[simp] theorem Group.atBoundary_landings (g : Group) (ref : Nat) : (g.atBoundary ref).landings = g.landings := by unfold Group.atBoundary; split <;> rfl
@[simp] theorem Group.atBoundary_acqs (g : Group) (ref : Nat) : (g.atBoundary ref).acqs = g.acqs := by unfold Group.atBoundary; split <;> rfl

/-! ### Group.stayed -/

@[simp] theorem Group.stayed_sreg (g : Group) (b : Option Group) : (g.stayed b).sreg = g.sreg := by unfold Group.stayed; split <;> rfl
@[simp] theorem Group.stayed_vreg (g : Group) (b : Option Group) : (g.stayed b).vreg = g.vreg := by unfold Group.stayed; split <;> rfl
@[simp] theorem Group.stayed_preg (g : Group) (b : Option Group) : (g.stayed b).preg = g.preg := by unfold Group.stayed; split <;> rfl
@[simp] theorem Group.stayed_flag (g : Group) (b : Option Group) : (g.stayed b).flag = g.flag := by unfold Group.stayed; split <;> rfl
@[simp] theorem Group.stayed_pc (g : Group) (b : Option Group) : (g.stayed b).pc = g.pc := by unfold Group.stayed; split <;> rfl
@[simp] theorem Group.stayed_clause (g : Group) (b : Option Group) : (g.stayed b).clause = g.clause := by unfold Group.stayed; split <;> rfl
@[simp] theorem Group.stayed_resume (g : Group) (b : Option Group) : (g.stayed b).resume = g.resume := by unfold Group.stayed; split <;> rfl
@[simp] theorem Group.stayed_lastHdr (g : Group) (b : Option Group) : (g.stayed b).lastHdr = g.lastHdr := by unfold Group.stayed; split <;> rfl
@[simp] theorem Group.stayed_divTop (g : Group) (b : Option Group) : (g.stayed b).divTop = g.divTop := by unfold Group.stayed; split <;> rfl
@[simp] theorem Group.stayed_divSpilled (g : Group) (b : Option Group) : (g.stayed b).divSpilled = g.divSpilled := by unfold Group.stayed; split <;> rfl
@[simp] theorem Group.stayed_exited (g : Group) (b : Option Group) : (g.stayed b).exited = g.exited := by unfold Group.stayed; split <;> rfl
@[simp] theorem Group.stayed_cvm (g : Group) (b : Option Group) : (g.stayed b).cvm = g.cvm := by unfold Group.stayed; split <;> rfl
@[simp] theorem Group.stayed_srseed (g : Group) (b : Option Group) : (g.stayed b).srseed = g.srseed := by unfold Group.stayed; split <;> rfl
@[simp] theorem Group.stayed_sr (g : Group) (b : Option Group) : (g.stayed b).sr = g.sr := by unfold Group.stayed; split <;> rfl
@[simp] theorem Group.stayed_trapvec (g : Group) (b : Option Group) : (g.stayed b).trapvec = g.trapvec := by unfold Group.stayed; split <;> rfl
@[simp] theorem Group.stayed_trapcode (g : Group) (b : Option Group) : (g.stayed b).trapcode = g.trapcode := by unfold Group.stayed; split <;> rfl
@[simp] theorem Group.stayed_trappc (g : Group) (b : Option Group) : (g.stayed b).trappc = g.trappc := by unfold Group.stayed; split <;> rfl
@[simp] theorem Group.stayed_trapinfo (g : Group) (b : Option Group) : (g.stayed b).trapinfo = g.trapinfo := by unfold Group.stayed; split <;> rfl
@[simp] theorem Group.stayed_cfg (g : Group) (b : Option Group) : (g.stayed b).cfg = g.cfg := by unfold Group.stayed; split <;> rfl
@[simp] theorem Group.stayed_intrap (g : Group) (b : Option Group) : (g.stayed b).intrap = g.intrap := by unfold Group.stayed; split <;> rfl
@[simp] theorem Group.stayed_trapmask (g : Group) (b : Option Group) : (g.stayed b).trapmask = g.trapmask := by unfold Group.stayed; split <;> rfl
@[simp] theorem Group.stayed_trapdepth (g : Group) (b : Option Group) : (g.stayed b).trapdepth = g.trapdepth := by unfold Group.stayed; split <;> rfl
@[simp] theorem Group.stayed_retired (g : Group) (b : Option Group) : (g.stayed b).retired = g.retired := by unfold Group.stayed; split <;> rfl
@[simp] theorem Group.stayed_withdrawn (g : Group) (b : Option Group) : (g.stayed b).withdrawn = g.withdrawn := by unfold Group.stayed; split <;> rfl
@[simp] theorem Group.stayed_waiting (g : Group) (b : Option Group) : (g.stayed b).waiting = g.waiting := by unfold Group.stayed; split <;> rfl
@[simp] theorem Group.stayed_woken (g : Group) (b : Option Group) : (g.stayed b).woken = g.woken := by unfold Group.stayed; split <;> rfl
@[simp] theorem Group.stayed_waitIds (g : Group) (b : Option Group) : (g.stayed b).waitIds = g.waitIds := by unfold Group.stayed; split <;> rfl
@[simp] theorem Group.stayed_waitPhase (g : Group) (b : Option Group) : (g.stayed b).waitPhase = g.waitPhase := by unfold Group.stayed; split <;> rfl
@[simp] theorem Group.stayed_waitFrom (g : Group) (b : Option Group) : (g.stayed b).waitFrom = g.waitFrom := by unfold Group.stayed; split <;> rfl
@[simp] theorem Group.stayed_place (g : Group) (b : Option Group) : (g.stayed b).place = g.place := by unfold Group.stayed; split <;> rfl
@[simp] theorem Group.stayed_entered (g : Group) (b : Option Group) : (g.stayed b).entered = g.entered := by unfold Group.stayed; split <;> rfl
@[simp] theorem Group.stayed_readySince (g : Group) (b : Option Group) : (g.stayed b).readySince = g.readySince := by unfold Group.stayed; split <;> rfl
@[simp] theorem Group.stayed_eligible (g : Group) (b : Option Group) : (g.stayed b).eligible = g.eligible := by unfold Group.stayed; split <;> rfl
@[simp] theorem Group.stayed_sleepUntil (g : Group) (b : Option Group) : (g.stayed b).sleepUntil = g.sleepUntil := by unfold Group.stayed; split <;> rfl
@[simp] theorem Group.stayed_seals (g : Group) (b : Option Group) : (g.stayed b).seals = g.seals := by unfold Group.stayed; split <;> rfl
@[simp] theorem Group.stayed_yieldAt (g : Group) (b : Option Group) : (g.stayed b).yieldAt = g.yieldAt := by unfold Group.stayed; split <;> rfl
@[simp] theorem Group.stayed_trapAt (g : Group) (b : Option Group) : (g.stayed b).trapAt = g.trapAt := by unfold Group.stayed; split <;> rfl
@[simp] theorem Group.stayed_landings (g : Group) (b : Option Group) : (g.stayed b).landings = g.landings := by unfold Group.stayed; split <;> rfl
@[simp] theorem Group.stayed_acqs (g : Group) (b : Option Group) : (g.stayed b).acqs = g.acqs := by unfold Group.stayed; split <;> rfl

/-! ### Group.setS -/

@[simp] theorem Group.setS_vreg (g : Group) (d : Nat) (x : DWord) : (g.setS d x).vreg = g.vreg := rfl
@[simp] theorem Group.setS_preg (g : Group) (d : Nat) (x : DWord) : (g.setS d x).preg = g.preg := rfl
@[simp] theorem Group.setS_flag (g : Group) (d : Nat) (x : DWord) : (g.setS d x).flag = g.flag := rfl
@[simp] theorem Group.setS_pc (g : Group) (d : Nat) (x : DWord) : (g.setS d x).pc = g.pc := rfl
@[simp] theorem Group.setS_clause (g : Group) (d : Nat) (x : DWord) : (g.setS d x).clause = g.clause := rfl
@[simp] theorem Group.setS_resume (g : Group) (d : Nat) (x : DWord) : (g.setS d x).resume = g.resume := rfl
@[simp] theorem Group.setS_lastHdr (g : Group) (d : Nat) (x : DWord) : (g.setS d x).lastHdr = g.lastHdr := rfl
@[simp] theorem Group.setS_divTop (g : Group) (d : Nat) (x : DWord) : (g.setS d x).divTop = g.divTop := rfl
@[simp] theorem Group.setS_divSpilled (g : Group) (d : Nat) (x : DWord) : (g.setS d x).divSpilled = g.divSpilled := rfl
@[simp] theorem Group.setS_exited (g : Group) (d : Nat) (x : DWord) : (g.setS d x).exited = g.exited := rfl
@[simp] theorem Group.setS_cvm (g : Group) (d : Nat) (x : DWord) : (g.setS d x).cvm = g.cvm := rfl
@[simp] theorem Group.setS_srseed (g : Group) (d : Nat) (x : DWord) : (g.setS d x).srseed = g.srseed := rfl
@[simp] theorem Group.setS_sr (g : Group) (d : Nat) (x : DWord) : (g.setS d x).sr = g.sr := rfl
@[simp] theorem Group.setS_trapvec (g : Group) (d : Nat) (x : DWord) : (g.setS d x).trapvec = g.trapvec := rfl
@[simp] theorem Group.setS_trapcode (g : Group) (d : Nat) (x : DWord) : (g.setS d x).trapcode = g.trapcode := rfl
@[simp] theorem Group.setS_trappc (g : Group) (d : Nat) (x : DWord) : (g.setS d x).trappc = g.trappc := rfl
@[simp] theorem Group.setS_trapinfo (g : Group) (d : Nat) (x : DWord) : (g.setS d x).trapinfo = g.trapinfo := rfl
@[simp] theorem Group.setS_cfg (g : Group) (d : Nat) (x : DWord) : (g.setS d x).cfg = g.cfg := rfl
@[simp] theorem Group.setS_intrap (g : Group) (d : Nat) (x : DWord) : (g.setS d x).intrap = g.intrap := rfl
@[simp] theorem Group.setS_trapmask (g : Group) (d : Nat) (x : DWord) : (g.setS d x).trapmask = g.trapmask := rfl
@[simp] theorem Group.setS_trapdepth (g : Group) (d : Nat) (x : DWord) : (g.setS d x).trapdepth = g.trapdepth := rfl
@[simp] theorem Group.setS_retired (g : Group) (d : Nat) (x : DWord) : (g.setS d x).retired = g.retired := rfl
@[simp] theorem Group.setS_withdrawn (g : Group) (d : Nat) (x : DWord) : (g.setS d x).withdrawn = g.withdrawn := rfl
@[simp] theorem Group.setS_waiting (g : Group) (d : Nat) (x : DWord) : (g.setS d x).waiting = g.waiting := rfl
@[simp] theorem Group.setS_woken (g : Group) (d : Nat) (x : DWord) : (g.setS d x).woken = g.woken := rfl
@[simp] theorem Group.setS_waitIds (g : Group) (d : Nat) (x : DWord) : (g.setS d x).waitIds = g.waitIds := rfl
@[simp] theorem Group.setS_waitPhase (g : Group) (d : Nat) (x : DWord) : (g.setS d x).waitPhase = g.waitPhase := rfl
@[simp] theorem Group.setS_waitFrom (g : Group) (d : Nat) (x : DWord) : (g.setS d x).waitFrom = g.waitFrom := rfl
@[simp] theorem Group.setS_place (g : Group) (d : Nat) (x : DWord) : (g.setS d x).place = g.place := rfl
@[simp] theorem Group.setS_entered (g : Group) (d : Nat) (x : DWord) : (g.setS d x).entered = g.entered := rfl
@[simp] theorem Group.setS_readySince (g : Group) (d : Nat) (x : DWord) : (g.setS d x).readySince = g.readySince := rfl
@[simp] theorem Group.setS_eligible (g : Group) (d : Nat) (x : DWord) : (g.setS d x).eligible = g.eligible := rfl
@[simp] theorem Group.setS_sleepUntil (g : Group) (d : Nat) (x : DWord) : (g.setS d x).sleepUntil = g.sleepUntil := rfl
@[simp] theorem Group.setS_seals (g : Group) (d : Nat) (x : DWord) : (g.setS d x).seals = g.seals := rfl
@[simp] theorem Group.setS_held (g : Group) (d : Nat) (x : DWord) : (g.setS d x).held = g.held := rfl
@[simp] theorem Group.setS_yieldAt (g : Group) (d : Nat) (x : DWord) : (g.setS d x).yieldAt = g.yieldAt := rfl
@[simp] theorem Group.setS_trapAt (g : Group) (d : Nat) (x : DWord) : (g.setS d x).trapAt = g.trapAt := rfl
@[simp] theorem Group.setS_landings (g : Group) (d : Nat) (x : DWord) : (g.setS d x).landings = g.landings := rfl
@[simp] theorem Group.setS_acqs (g : Group) (d : Nat) (x : DWord) : (g.setS d x).acqs = g.acqs := rfl

/-! ### Group.setP -/

@[simp] theorem Group.setP_sreg (g : Group) (d : Nat) (m : Mask) : (g.setP d m).sreg = g.sreg := rfl
@[simp] theorem Group.setP_vreg (g : Group) (d : Nat) (m : Mask) : (g.setP d m).vreg = g.vreg := rfl
@[simp] theorem Group.setP_flag (g : Group) (d : Nat) (m : Mask) : (g.setP d m).flag = g.flag := rfl
@[simp] theorem Group.setP_pc (g : Group) (d : Nat) (m : Mask) : (g.setP d m).pc = g.pc := rfl
@[simp] theorem Group.setP_clause (g : Group) (d : Nat) (m : Mask) : (g.setP d m).clause = g.clause := rfl
@[simp] theorem Group.setP_resume (g : Group) (d : Nat) (m : Mask) : (g.setP d m).resume = g.resume := rfl
@[simp] theorem Group.setP_lastHdr (g : Group) (d : Nat) (m : Mask) : (g.setP d m).lastHdr = g.lastHdr := rfl
@[simp] theorem Group.setP_divTop (g : Group) (d : Nat) (m : Mask) : (g.setP d m).divTop = g.divTop := rfl
@[simp] theorem Group.setP_divSpilled (g : Group) (d : Nat) (m : Mask) : (g.setP d m).divSpilled = g.divSpilled := rfl
@[simp] theorem Group.setP_exited (g : Group) (d : Nat) (m : Mask) : (g.setP d m).exited = g.exited := rfl
@[simp] theorem Group.setP_cvm (g : Group) (d : Nat) (m : Mask) : (g.setP d m).cvm = g.cvm := rfl
@[simp] theorem Group.setP_srseed (g : Group) (d : Nat) (m : Mask) : (g.setP d m).srseed = g.srseed := rfl
@[simp] theorem Group.setP_sr (g : Group) (d : Nat) (m : Mask) : (g.setP d m).sr = g.sr := rfl
@[simp] theorem Group.setP_trapvec (g : Group) (d : Nat) (m : Mask) : (g.setP d m).trapvec = g.trapvec := rfl
@[simp] theorem Group.setP_trapcode (g : Group) (d : Nat) (m : Mask) : (g.setP d m).trapcode = g.trapcode := rfl
@[simp] theorem Group.setP_trappc (g : Group) (d : Nat) (m : Mask) : (g.setP d m).trappc = g.trappc := rfl
@[simp] theorem Group.setP_trapinfo (g : Group) (d : Nat) (m : Mask) : (g.setP d m).trapinfo = g.trapinfo := rfl
@[simp] theorem Group.setP_cfg (g : Group) (d : Nat) (m : Mask) : (g.setP d m).cfg = g.cfg := rfl
@[simp] theorem Group.setP_intrap (g : Group) (d : Nat) (m : Mask) : (g.setP d m).intrap = g.intrap := rfl
@[simp] theorem Group.setP_trapmask (g : Group) (d : Nat) (m : Mask) : (g.setP d m).trapmask = g.trapmask := rfl
@[simp] theorem Group.setP_trapdepth (g : Group) (d : Nat) (m : Mask) : (g.setP d m).trapdepth = g.trapdepth := rfl
@[simp] theorem Group.setP_retired (g : Group) (d : Nat) (m : Mask) : (g.setP d m).retired = g.retired := rfl
@[simp] theorem Group.setP_withdrawn (g : Group) (d : Nat) (m : Mask) : (g.setP d m).withdrawn = g.withdrawn := rfl
@[simp] theorem Group.setP_waiting (g : Group) (d : Nat) (m : Mask) : (g.setP d m).waiting = g.waiting := rfl
@[simp] theorem Group.setP_woken (g : Group) (d : Nat) (m : Mask) : (g.setP d m).woken = g.woken := rfl
@[simp] theorem Group.setP_waitIds (g : Group) (d : Nat) (m : Mask) : (g.setP d m).waitIds = g.waitIds := rfl
@[simp] theorem Group.setP_waitPhase (g : Group) (d : Nat) (m : Mask) : (g.setP d m).waitPhase = g.waitPhase := rfl
@[simp] theorem Group.setP_waitFrom (g : Group) (d : Nat) (m : Mask) : (g.setP d m).waitFrom = g.waitFrom := rfl
@[simp] theorem Group.setP_place (g : Group) (d : Nat) (m : Mask) : (g.setP d m).place = g.place := rfl
@[simp] theorem Group.setP_entered (g : Group) (d : Nat) (m : Mask) : (g.setP d m).entered = g.entered := rfl
@[simp] theorem Group.setP_readySince (g : Group) (d : Nat) (m : Mask) : (g.setP d m).readySince = g.readySince := rfl
@[simp] theorem Group.setP_eligible (g : Group) (d : Nat) (m : Mask) : (g.setP d m).eligible = g.eligible := rfl
@[simp] theorem Group.setP_sleepUntil (g : Group) (d : Nat) (m : Mask) : (g.setP d m).sleepUntil = g.sleepUntil := rfl
@[simp] theorem Group.setP_seals (g : Group) (d : Nat) (m : Mask) : (g.setP d m).seals = g.seals := rfl
@[simp] theorem Group.setP_held (g : Group) (d : Nat) (m : Mask) : (g.setP d m).held = g.held := rfl
@[simp] theorem Group.setP_yieldAt (g : Group) (d : Nat) (m : Mask) : (g.setP d m).yieldAt = g.yieldAt := rfl
@[simp] theorem Group.setP_trapAt (g : Group) (d : Nat) (m : Mask) : (g.setP d m).trapAt = g.trapAt := rfl
@[simp] theorem Group.setP_landings (g : Group) (d : Nat) (m : Mask) : (g.setP d m).landings = g.landings := rfl
@[simp] theorem Group.setP_acqs (g : Group) (d : Nat) (m : Mask) : (g.setP d m).acqs = g.acqs := rfl

/-! ### Group.setV -/

@[simp] theorem Group.setV_sreg (g : Group) (d : Nat) (m : Mask) (f : Nat → Word) : (g.setV d m f).sreg = g.sreg := rfl
@[simp] theorem Group.setV_preg (g : Group) (d : Nat) (m : Mask) (f : Nat → Word) : (g.setV d m f).preg = g.preg := rfl
@[simp] theorem Group.setV_flag (g : Group) (d : Nat) (m : Mask) (f : Nat → Word) : (g.setV d m f).flag = g.flag := rfl
@[simp] theorem Group.setV_pc (g : Group) (d : Nat) (m : Mask) (f : Nat → Word) : (g.setV d m f).pc = g.pc := rfl
@[simp] theorem Group.setV_clause (g : Group) (d : Nat) (m : Mask) (f : Nat → Word) : (g.setV d m f).clause = g.clause := rfl
@[simp] theorem Group.setV_resume (g : Group) (d : Nat) (m : Mask) (f : Nat → Word) : (g.setV d m f).resume = g.resume := rfl
@[simp] theorem Group.setV_lastHdr (g : Group) (d : Nat) (m : Mask) (f : Nat → Word) : (g.setV d m f).lastHdr = g.lastHdr := rfl
@[simp] theorem Group.setV_divTop (g : Group) (d : Nat) (m : Mask) (f : Nat → Word) : (g.setV d m f).divTop = g.divTop := rfl
@[simp] theorem Group.setV_divSpilled (g : Group) (d : Nat) (m : Mask) (f : Nat → Word) : (g.setV d m f).divSpilled = g.divSpilled := rfl
@[simp] theorem Group.setV_exited (g : Group) (d : Nat) (m : Mask) (f : Nat → Word) : (g.setV d m f).exited = g.exited := rfl
@[simp] theorem Group.setV_cvm (g : Group) (d : Nat) (m : Mask) (f : Nat → Word) : (g.setV d m f).cvm = g.cvm := rfl
@[simp] theorem Group.setV_srseed (g : Group) (d : Nat) (m : Mask) (f : Nat → Word) : (g.setV d m f).srseed = g.srseed := rfl
@[simp] theorem Group.setV_sr (g : Group) (d : Nat) (m : Mask) (f : Nat → Word) : (g.setV d m f).sr = g.sr := rfl
@[simp] theorem Group.setV_trapvec (g : Group) (d : Nat) (m : Mask) (f : Nat → Word) : (g.setV d m f).trapvec = g.trapvec := rfl
@[simp] theorem Group.setV_trapcode (g : Group) (d : Nat) (m : Mask) (f : Nat → Word) : (g.setV d m f).trapcode = g.trapcode := rfl
@[simp] theorem Group.setV_trappc (g : Group) (d : Nat) (m : Mask) (f : Nat → Word) : (g.setV d m f).trappc = g.trappc := rfl
@[simp] theorem Group.setV_trapinfo (g : Group) (d : Nat) (m : Mask) (f : Nat → Word) : (g.setV d m f).trapinfo = g.trapinfo := rfl
@[simp] theorem Group.setV_cfg (g : Group) (d : Nat) (m : Mask) (f : Nat → Word) : (g.setV d m f).cfg = g.cfg := rfl
@[simp] theorem Group.setV_intrap (g : Group) (d : Nat) (m : Mask) (f : Nat → Word) : (g.setV d m f).intrap = g.intrap := rfl
@[simp] theorem Group.setV_trapmask (g : Group) (d : Nat) (m : Mask) (f : Nat → Word) : (g.setV d m f).trapmask = g.trapmask := rfl
@[simp] theorem Group.setV_trapdepth (g : Group) (d : Nat) (m : Mask) (f : Nat → Word) : (g.setV d m f).trapdepth = g.trapdepth := rfl
@[simp] theorem Group.setV_retired (g : Group) (d : Nat) (m : Mask) (f : Nat → Word) : (g.setV d m f).retired = g.retired := rfl
@[simp] theorem Group.setV_withdrawn (g : Group) (d : Nat) (m : Mask) (f : Nat → Word) : (g.setV d m f).withdrawn = g.withdrawn := rfl
@[simp] theorem Group.setV_waiting (g : Group) (d : Nat) (m : Mask) (f : Nat → Word) : (g.setV d m f).waiting = g.waiting := rfl
@[simp] theorem Group.setV_woken (g : Group) (d : Nat) (m : Mask) (f : Nat → Word) : (g.setV d m f).woken = g.woken := rfl
@[simp] theorem Group.setV_waitIds (g : Group) (d : Nat) (m : Mask) (f : Nat → Word) : (g.setV d m f).waitIds = g.waitIds := rfl
@[simp] theorem Group.setV_waitPhase (g : Group) (d : Nat) (m : Mask) (f : Nat → Word) : (g.setV d m f).waitPhase = g.waitPhase := rfl
@[simp] theorem Group.setV_waitFrom (g : Group) (d : Nat) (m : Mask) (f : Nat → Word) : (g.setV d m f).waitFrom = g.waitFrom := rfl
@[simp] theorem Group.setV_place (g : Group) (d : Nat) (m : Mask) (f : Nat → Word) : (g.setV d m f).place = g.place := rfl
@[simp] theorem Group.setV_entered (g : Group) (d : Nat) (m : Mask) (f : Nat → Word) : (g.setV d m f).entered = g.entered := rfl
@[simp] theorem Group.setV_readySince (g : Group) (d : Nat) (m : Mask) (f : Nat → Word) : (g.setV d m f).readySince = g.readySince := rfl
@[simp] theorem Group.setV_eligible (g : Group) (d : Nat) (m : Mask) (f : Nat → Word) : (g.setV d m f).eligible = g.eligible := rfl
@[simp] theorem Group.setV_sleepUntil (g : Group) (d : Nat) (m : Mask) (f : Nat → Word) : (g.setV d m f).sleepUntil = g.sleepUntil := rfl
@[simp] theorem Group.setV_seals (g : Group) (d : Nat) (m : Mask) (f : Nat → Word) : (g.setV d m f).seals = g.seals := rfl
@[simp] theorem Group.setV_held (g : Group) (d : Nat) (m : Mask) (f : Nat → Word) : (g.setV d m f).held = g.held := rfl
@[simp] theorem Group.setV_yieldAt (g : Group) (d : Nat) (m : Mask) (f : Nat → Word) : (g.setV d m f).yieldAt = g.yieldAt := rfl
@[simp] theorem Group.setV_trapAt (g : Group) (d : Nat) (m : Mask) (f : Nat → Word) : (g.setV d m f).trapAt = g.trapAt := rfl
@[simp] theorem Group.setV_landings (g : Group) (d : Nat) (m : Mask) (f : Nat → Word) : (g.setV d m f).landings = g.landings := rfl
@[simp] theorem Group.setV_acqs (g : Group) (d : Nat) (m : Mask) (f : Nat → Word) : (g.setV d m f).acqs = g.acqs := rfl

/-! ### Group.setFlag -/

@[simp] theorem Group.setFlag_sreg (g : Group) (n k : Nat) : (g.setFlag n k).sreg = g.sreg := rfl
@[simp] theorem Group.setFlag_vreg (g : Group) (n k : Nat) : (g.setFlag n k).vreg = g.vreg := rfl
@[simp] theorem Group.setFlag_preg (g : Group) (n k : Nat) : (g.setFlag n k).preg = g.preg := rfl
@[simp] theorem Group.setFlag_pc (g : Group) (n k : Nat) : (g.setFlag n k).pc = g.pc := rfl
@[simp] theorem Group.setFlag_clause (g : Group) (n k : Nat) : (g.setFlag n k).clause = g.clause := rfl
@[simp] theorem Group.setFlag_resume (g : Group) (n k : Nat) : (g.setFlag n k).resume = g.resume := rfl
@[simp] theorem Group.setFlag_lastHdr (g : Group) (n k : Nat) : (g.setFlag n k).lastHdr = g.lastHdr := rfl
@[simp] theorem Group.setFlag_divTop (g : Group) (n k : Nat) : (g.setFlag n k).divTop = g.divTop := rfl
@[simp] theorem Group.setFlag_divSpilled (g : Group) (n k : Nat) : (g.setFlag n k).divSpilled = g.divSpilled := rfl
@[simp] theorem Group.setFlag_exited (g : Group) (n k : Nat) : (g.setFlag n k).exited = g.exited := rfl
@[simp] theorem Group.setFlag_cvm (g : Group) (n k : Nat) : (g.setFlag n k).cvm = g.cvm := rfl
@[simp] theorem Group.setFlag_srseed (g : Group) (n k : Nat) : (g.setFlag n k).srseed = g.srseed := rfl
@[simp] theorem Group.setFlag_sr (g : Group) (n k : Nat) : (g.setFlag n k).sr = g.sr := rfl
@[simp] theorem Group.setFlag_trapvec (g : Group) (n k : Nat) : (g.setFlag n k).trapvec = g.trapvec := rfl
@[simp] theorem Group.setFlag_trapcode (g : Group) (n k : Nat) : (g.setFlag n k).trapcode = g.trapcode := rfl
@[simp] theorem Group.setFlag_trappc (g : Group) (n k : Nat) : (g.setFlag n k).trappc = g.trappc := rfl
@[simp] theorem Group.setFlag_trapinfo (g : Group) (n k : Nat) : (g.setFlag n k).trapinfo = g.trapinfo := rfl
@[simp] theorem Group.setFlag_cfg (g : Group) (n k : Nat) : (g.setFlag n k).cfg = g.cfg := rfl
@[simp] theorem Group.setFlag_intrap (g : Group) (n k : Nat) : (g.setFlag n k).intrap = g.intrap := rfl
@[simp] theorem Group.setFlag_trapmask (g : Group) (n k : Nat) : (g.setFlag n k).trapmask = g.trapmask := rfl
@[simp] theorem Group.setFlag_trapdepth (g : Group) (n k : Nat) : (g.setFlag n k).trapdepth = g.trapdepth := rfl
@[simp] theorem Group.setFlag_retired (g : Group) (n k : Nat) : (g.setFlag n k).retired = g.retired := rfl
@[simp] theorem Group.setFlag_withdrawn (g : Group) (n k : Nat) : (g.setFlag n k).withdrawn = g.withdrawn := rfl
@[simp] theorem Group.setFlag_waiting (g : Group) (n k : Nat) : (g.setFlag n k).waiting = g.waiting := rfl
@[simp] theorem Group.setFlag_woken (g : Group) (n k : Nat) : (g.setFlag n k).woken = g.woken := rfl
@[simp] theorem Group.setFlag_waitIds (g : Group) (n k : Nat) : (g.setFlag n k).waitIds = g.waitIds := rfl
@[simp] theorem Group.setFlag_waitPhase (g : Group) (n k : Nat) : (g.setFlag n k).waitPhase = g.waitPhase := rfl
@[simp] theorem Group.setFlag_waitFrom (g : Group) (n k : Nat) : (g.setFlag n k).waitFrom = g.waitFrom := rfl
@[simp] theorem Group.setFlag_place (g : Group) (n k : Nat) : (g.setFlag n k).place = g.place := rfl
@[simp] theorem Group.setFlag_entered (g : Group) (n k : Nat) : (g.setFlag n k).entered = g.entered := rfl
@[simp] theorem Group.setFlag_readySince (g : Group) (n k : Nat) : (g.setFlag n k).readySince = g.readySince := rfl
@[simp] theorem Group.setFlag_eligible (g : Group) (n k : Nat) : (g.setFlag n k).eligible = g.eligible := rfl
@[simp] theorem Group.setFlag_sleepUntil (g : Group) (n k : Nat) : (g.setFlag n k).sleepUntil = g.sleepUntil := rfl
@[simp] theorem Group.setFlag_seals (g : Group) (n k : Nat) : (g.setFlag n k).seals = g.seals := rfl
@[simp] theorem Group.setFlag_held (g : Group) (n k : Nat) : (g.setFlag n k).held = g.held := rfl
@[simp] theorem Group.setFlag_yieldAt (g : Group) (n k : Nat) : (g.setFlag n k).yieldAt = g.yieldAt := rfl
@[simp] theorem Group.setFlag_trapAt (g : Group) (n k : Nat) : (g.setFlag n k).trapAt = g.trapAt := rfl
@[simp] theorem Group.setFlag_landings (g : Group) (n k : Nat) : (g.setFlag n k).landings = g.landings := rfl
@[simp] theorem Group.setFlag_acqs (g : Group) (n k : Nat) : (g.setFlag n k).acqs = g.acqs := rfl

/-! ### Group.setMask -/

@[simp] theorem Group.setMask_vreg (g : Group) (m : Mask) : (g.setMask m).vreg = g.vreg := rfl
@[simp] theorem Group.setMask_preg (g : Group) (m : Mask) : (g.setMask m).preg = g.preg := rfl
@[simp] theorem Group.setMask_flag (g : Group) (m : Mask) : (g.setMask m).flag = g.flag := rfl
@[simp] theorem Group.setMask_pc (g : Group) (m : Mask) : (g.setMask m).pc = g.pc := rfl
@[simp] theorem Group.setMask_clause (g : Group) (m : Mask) : (g.setMask m).clause = g.clause := rfl
@[simp] theorem Group.setMask_resume (g : Group) (m : Mask) : (g.setMask m).resume = g.resume := rfl
@[simp] theorem Group.setMask_lastHdr (g : Group) (m : Mask) : (g.setMask m).lastHdr = g.lastHdr := rfl
@[simp] theorem Group.setMask_divTop (g : Group) (m : Mask) : (g.setMask m).divTop = g.divTop := rfl
@[simp] theorem Group.setMask_divSpilled (g : Group) (m : Mask) : (g.setMask m).divSpilled = g.divSpilled := rfl
@[simp] theorem Group.setMask_exited (g : Group) (m : Mask) : (g.setMask m).exited = g.exited := rfl
@[simp] theorem Group.setMask_cvm (g : Group) (m : Mask) : (g.setMask m).cvm = g.cvm := rfl
@[simp] theorem Group.setMask_srseed (g : Group) (m : Mask) : (g.setMask m).srseed = g.srseed := rfl
@[simp] theorem Group.setMask_sr (g : Group) (m : Mask) : (g.setMask m).sr = g.sr := rfl
@[simp] theorem Group.setMask_trapvec (g : Group) (m : Mask) : (g.setMask m).trapvec = g.trapvec := rfl
@[simp] theorem Group.setMask_trapcode (g : Group) (m : Mask) : (g.setMask m).trapcode = g.trapcode := rfl
@[simp] theorem Group.setMask_trappc (g : Group) (m : Mask) : (g.setMask m).trappc = g.trappc := rfl
@[simp] theorem Group.setMask_trapinfo (g : Group) (m : Mask) : (g.setMask m).trapinfo = g.trapinfo := rfl
@[simp] theorem Group.setMask_cfg (g : Group) (m : Mask) : (g.setMask m).cfg = g.cfg := rfl
@[simp] theorem Group.setMask_intrap (g : Group) (m : Mask) : (g.setMask m).intrap = g.intrap := rfl
@[simp] theorem Group.setMask_trapmask (g : Group) (m : Mask) : (g.setMask m).trapmask = g.trapmask := rfl
@[simp] theorem Group.setMask_trapdepth (g : Group) (m : Mask) : (g.setMask m).trapdepth = g.trapdepth := rfl
@[simp] theorem Group.setMask_retired (g : Group) (m : Mask) : (g.setMask m).retired = g.retired := rfl
@[simp] theorem Group.setMask_withdrawn (g : Group) (m : Mask) : (g.setMask m).withdrawn = g.withdrawn := rfl
@[simp] theorem Group.setMask_waiting (g : Group) (m : Mask) : (g.setMask m).waiting = g.waiting := rfl
@[simp] theorem Group.setMask_woken (g : Group) (m : Mask) : (g.setMask m).woken = g.woken := rfl
@[simp] theorem Group.setMask_waitIds (g : Group) (m : Mask) : (g.setMask m).waitIds = g.waitIds := rfl
@[simp] theorem Group.setMask_waitPhase (g : Group) (m : Mask) : (g.setMask m).waitPhase = g.waitPhase := rfl
@[simp] theorem Group.setMask_waitFrom (g : Group) (m : Mask) : (g.setMask m).waitFrom = g.waitFrom := rfl
@[simp] theorem Group.setMask_place (g : Group) (m : Mask) : (g.setMask m).place = g.place := rfl
@[simp] theorem Group.setMask_entered (g : Group) (m : Mask) : (g.setMask m).entered = g.entered := rfl
@[simp] theorem Group.setMask_readySince (g : Group) (m : Mask) : (g.setMask m).readySince = g.readySince := rfl
@[simp] theorem Group.setMask_eligible (g : Group) (m : Mask) : (g.setMask m).eligible = g.eligible := rfl
@[simp] theorem Group.setMask_sleepUntil (g : Group) (m : Mask) : (g.setMask m).sleepUntil = g.sleepUntil := rfl
@[simp] theorem Group.setMask_seals (g : Group) (m : Mask) : (g.setMask m).seals = g.seals := rfl
@[simp] theorem Group.setMask_held (g : Group) (m : Mask) : (g.setMask m).held = g.held := rfl
@[simp] theorem Group.setMask_yieldAt (g : Group) (m : Mask) : (g.setMask m).yieldAt = g.yieldAt := rfl
@[simp] theorem Group.setMask_trapAt (g : Group) (m : Mask) : (g.setMask m).trapAt = g.trapAt := rfl
@[simp] theorem Group.setMask_landings (g : Group) (m : Mask) : (g.setMask m).landings = g.landings := rfl
@[simp] theorem Group.setMask_acqs (g : Group) (m : Mask) : (g.setMask m).acqs = g.acqs := rfl

/-! ### Group.unblock -/

@[simp] theorem Group.unblock_sreg (g : Group) (n : Nat) : (g.unblock n).sreg = g.sreg := rfl
@[simp] theorem Group.unblock_vreg (g : Group) (n : Nat) : (g.unblock n).vreg = g.vreg := rfl
@[simp] theorem Group.unblock_preg (g : Group) (n : Nat) : (g.unblock n).preg = g.preg := rfl
@[simp] theorem Group.unblock_flag (g : Group) (n : Nat) : (g.unblock n).flag = g.flag := rfl
@[simp] theorem Group.unblock_pc (g : Group) (n : Nat) : (g.unblock n).pc = g.pc := rfl
@[simp] theorem Group.unblock_clause (g : Group) (n : Nat) : (g.unblock n).clause = g.clause := rfl
@[simp] theorem Group.unblock_resume (g : Group) (n : Nat) : (g.unblock n).resume = g.resume := rfl
@[simp] theorem Group.unblock_lastHdr (g : Group) (n : Nat) : (g.unblock n).lastHdr = g.lastHdr := rfl
@[simp] theorem Group.unblock_divTop (g : Group) (n : Nat) : (g.unblock n).divTop = g.divTop := rfl
@[simp] theorem Group.unblock_divSpilled (g : Group) (n : Nat) : (g.unblock n).divSpilled = g.divSpilled := rfl
@[simp] theorem Group.unblock_exited (g : Group) (n : Nat) : (g.unblock n).exited = g.exited := rfl
@[simp] theorem Group.unblock_cvm (g : Group) (n : Nat) : (g.unblock n).cvm = g.cvm := rfl
@[simp] theorem Group.unblock_srseed (g : Group) (n : Nat) : (g.unblock n).srseed = g.srseed := rfl
@[simp] theorem Group.unblock_sr (g : Group) (n : Nat) : (g.unblock n).sr = g.sr := rfl
@[simp] theorem Group.unblock_trapvec (g : Group) (n : Nat) : (g.unblock n).trapvec = g.trapvec := rfl
@[simp] theorem Group.unblock_trapcode (g : Group) (n : Nat) : (g.unblock n).trapcode = g.trapcode := rfl
@[simp] theorem Group.unblock_trappc (g : Group) (n : Nat) : (g.unblock n).trappc = g.trappc := rfl
@[simp] theorem Group.unblock_trapinfo (g : Group) (n : Nat) : (g.unblock n).trapinfo = g.trapinfo := rfl
@[simp] theorem Group.unblock_cfg (g : Group) (n : Nat) : (g.unblock n).cfg = g.cfg := rfl
@[simp] theorem Group.unblock_intrap (g : Group) (n : Nat) : (g.unblock n).intrap = g.intrap := rfl
@[simp] theorem Group.unblock_trapmask (g : Group) (n : Nat) : (g.unblock n).trapmask = g.trapmask := rfl
@[simp] theorem Group.unblock_trapdepth (g : Group) (n : Nat) : (g.unblock n).trapdepth = g.trapdepth := rfl
@[simp] theorem Group.unblock_retired (g : Group) (n : Nat) : (g.unblock n).retired = g.retired := rfl
@[simp] theorem Group.unblock_waitPhase (g : Group) (n : Nat) : (g.unblock n).waitPhase = g.waitPhase := rfl
@[simp] theorem Group.unblock_waitFrom (g : Group) (n : Nat) : (g.unblock n).waitFrom = g.waitFrom := rfl
@[simp] theorem Group.unblock_place (g : Group) (n : Nat) : (g.unblock n).place = g.place := rfl
@[simp] theorem Group.unblock_entered (g : Group) (n : Nat) : (g.unblock n).entered = g.entered := rfl
@[simp] theorem Group.unblock_sleepUntil (g : Group) (n : Nat) : (g.unblock n).sleepUntil = g.sleepUntil := rfl
@[simp] theorem Group.unblock_seals (g : Group) (n : Nat) : (g.unblock n).seals = g.seals := rfl
@[simp] theorem Group.unblock_yieldAt (g : Group) (n : Nat) : (g.unblock n).yieldAt = g.yieldAt := rfl
@[simp] theorem Group.unblock_trapAt (g : Group) (n : Nat) : (g.unblock n).trapAt = g.trapAt := rfl
@[simp] theorem Group.unblock_landings (g : Group) (n : Nat) : (g.unblock n).landings = g.landings := rfl
@[simp] theorem Group.unblock_acqs (g : Group) (n : Nat) : (g.unblock n).acqs = g.acqs := rfl

/-! ### Group.goto -/

@[simp] theorem Group.goto_sreg (g : Group) (pc : DWord) : (g.goto pc).sreg = g.sreg := rfl
@[simp] theorem Group.goto_vreg (g : Group) (pc : DWord) : (g.goto pc).vreg = g.vreg := rfl
@[simp] theorem Group.goto_preg (g : Group) (pc : DWord) : (g.goto pc).preg = g.preg := rfl
@[simp] theorem Group.goto_flag (g : Group) (pc : DWord) : (g.goto pc).flag = g.flag := rfl
@[simp] theorem Group.goto_divTop (g : Group) (pc : DWord) : (g.goto pc).divTop = g.divTop := rfl
@[simp] theorem Group.goto_divSpilled (g : Group) (pc : DWord) : (g.goto pc).divSpilled = g.divSpilled := rfl
@[simp] theorem Group.goto_exited (g : Group) (pc : DWord) : (g.goto pc).exited = g.exited := rfl
@[simp] theorem Group.goto_cvm (g : Group) (pc : DWord) : (g.goto pc).cvm = g.cvm := rfl
@[simp] theorem Group.goto_srseed (g : Group) (pc : DWord) : (g.goto pc).srseed = g.srseed := rfl
@[simp] theorem Group.goto_sr (g : Group) (pc : DWord) : (g.goto pc).sr = g.sr := rfl
@[simp] theorem Group.goto_trapvec (g : Group) (pc : DWord) : (g.goto pc).trapvec = g.trapvec := rfl
@[simp] theorem Group.goto_trapcode (g : Group) (pc : DWord) : (g.goto pc).trapcode = g.trapcode := rfl
@[simp] theorem Group.goto_trappc (g : Group) (pc : DWord) : (g.goto pc).trappc = g.trappc := rfl
@[simp] theorem Group.goto_trapinfo (g : Group) (pc : DWord) : (g.goto pc).trapinfo = g.trapinfo := rfl
@[simp] theorem Group.goto_cfg (g : Group) (pc : DWord) : (g.goto pc).cfg = g.cfg := rfl
@[simp] theorem Group.goto_intrap (g : Group) (pc : DWord) : (g.goto pc).intrap = g.intrap := rfl
@[simp] theorem Group.goto_trapmask (g : Group) (pc : DWord) : (g.goto pc).trapmask = g.trapmask := rfl
@[simp] theorem Group.goto_trapdepth (g : Group) (pc : DWord) : (g.goto pc).trapdepth = g.trapdepth := rfl
@[simp] theorem Group.goto_retired (g : Group) (pc : DWord) : (g.goto pc).retired = g.retired := rfl
@[simp] theorem Group.goto_withdrawn (g : Group) (pc : DWord) : (g.goto pc).withdrawn = g.withdrawn := rfl
@[simp] theorem Group.goto_waiting (g : Group) (pc : DWord) : (g.goto pc).waiting = g.waiting := rfl
@[simp] theorem Group.goto_woken (g : Group) (pc : DWord) : (g.goto pc).woken = g.woken := rfl
@[simp] theorem Group.goto_waitIds (g : Group) (pc : DWord) : (g.goto pc).waitIds = g.waitIds := rfl
@[simp] theorem Group.goto_waitPhase (g : Group) (pc : DWord) : (g.goto pc).waitPhase = g.waitPhase := rfl
@[simp] theorem Group.goto_waitFrom (g : Group) (pc : DWord) : (g.goto pc).waitFrom = g.waitFrom := rfl
@[simp] theorem Group.goto_place (g : Group) (pc : DWord) : (g.goto pc).place = g.place := rfl
@[simp] theorem Group.goto_entered (g : Group) (pc : DWord) : (g.goto pc).entered = g.entered := rfl
@[simp] theorem Group.goto_readySince (g : Group) (pc : DWord) : (g.goto pc).readySince = g.readySince := rfl
@[simp] theorem Group.goto_eligible (g : Group) (pc : DWord) : (g.goto pc).eligible = g.eligible := rfl
@[simp] theorem Group.goto_sleepUntil (g : Group) (pc : DWord) : (g.goto pc).sleepUntil = g.sleepUntil := rfl
@[simp] theorem Group.goto_seals (g : Group) (pc : DWord) : (g.goto pc).seals = g.seals := rfl
@[simp] theorem Group.goto_held (g : Group) (pc : DWord) : (g.goto pc).held = g.held := rfl
@[simp] theorem Group.goto_yieldAt (g : Group) (pc : DWord) : (g.goto pc).yieldAt = g.yieldAt := rfl
@[simp] theorem Group.goto_trapAt (g : Group) (pc : DWord) : (g.goto pc).trapAt = g.trapAt := rfl
@[simp] theorem Group.goto_landings (g : Group) (pc : DWord) : (g.goto pc).landings = g.landings := rfl
@[simp] theorem Group.goto_acqs (g : Group) (pc : DWord) : (g.goto pc).acqs = g.acqs := rfl

/-! ### Group.advance -/

@[simp] theorem Group.advance_sreg (g : Group) (n : Nat) : (g.advance n).sreg = g.sreg := by unfold Group.advance; split <;> (try split) <;> rfl
@[simp] theorem Group.advance_vreg (g : Group) (n : Nat) : (g.advance n).vreg = g.vreg := by unfold Group.advance; split <;> (try split) <;> rfl
@[simp] theorem Group.advance_preg (g : Group) (n : Nat) : (g.advance n).preg = g.preg := by unfold Group.advance; split <;> (try split) <;> rfl
@[simp] theorem Group.advance_flag (g : Group) (n : Nat) : (g.advance n).flag = g.flag := by unfold Group.advance; split <;> (try split) <;> rfl
@[simp] theorem Group.advance_resume (g : Group) (n : Nat) : (g.advance n).resume = g.resume := by unfold Group.advance; split <;> (try split) <;> rfl
@[simp] theorem Group.advance_divTop (g : Group) (n : Nat) : (g.advance n).divTop = g.divTop := by unfold Group.advance; split <;> (try split) <;> rfl
@[simp] theorem Group.advance_divSpilled (g : Group) (n : Nat) : (g.advance n).divSpilled = g.divSpilled := by unfold Group.advance; split <;> (try split) <;> rfl
@[simp] theorem Group.advance_exited (g : Group) (n : Nat) : (g.advance n).exited = g.exited := by unfold Group.advance; split <;> (try split) <;> rfl
@[simp] theorem Group.advance_cvm (g : Group) (n : Nat) : (g.advance n).cvm = g.cvm := by unfold Group.advance; split <;> (try split) <;> rfl
@[simp] theorem Group.advance_srseed (g : Group) (n : Nat) : (g.advance n).srseed = g.srseed := by unfold Group.advance; split <;> (try split) <;> rfl
@[simp] theorem Group.advance_sr (g : Group) (n : Nat) : (g.advance n).sr = g.sr := by unfold Group.advance; split <;> (try split) <;> rfl
@[simp] theorem Group.advance_trapvec (g : Group) (n : Nat) : (g.advance n).trapvec = g.trapvec := by unfold Group.advance; split <;> (try split) <;> rfl
@[simp] theorem Group.advance_trapcode (g : Group) (n : Nat) : (g.advance n).trapcode = g.trapcode := by unfold Group.advance; split <;> (try split) <;> rfl
@[simp] theorem Group.advance_trappc (g : Group) (n : Nat) : (g.advance n).trappc = g.trappc := by unfold Group.advance; split <;> (try split) <;> rfl
@[simp] theorem Group.advance_trapinfo (g : Group) (n : Nat) : (g.advance n).trapinfo = g.trapinfo := by unfold Group.advance; split <;> (try split) <;> rfl
@[simp] theorem Group.advance_cfg (g : Group) (n : Nat) : (g.advance n).cfg = g.cfg := by unfold Group.advance; split <;> (try split) <;> rfl
@[simp] theorem Group.advance_intrap (g : Group) (n : Nat) : (g.advance n).intrap = g.intrap := by unfold Group.advance; split <;> (try split) <;> rfl
@[simp] theorem Group.advance_trapmask (g : Group) (n : Nat) : (g.advance n).trapmask = g.trapmask := by unfold Group.advance; split <;> (try split) <;> rfl
@[simp] theorem Group.advance_trapdepth (g : Group) (n : Nat) : (g.advance n).trapdepth = g.trapdepth := by unfold Group.advance; split <;> (try split) <;> rfl
@[simp] theorem Group.advance_retired (g : Group) (n : Nat) : (g.advance n).retired = g.retired := by unfold Group.advance; split <;> (try split) <;> rfl
@[simp] theorem Group.advance_withdrawn (g : Group) (n : Nat) : (g.advance n).withdrawn = g.withdrawn := by unfold Group.advance; split <;> (try split) <;> rfl
@[simp] theorem Group.advance_waiting (g : Group) (n : Nat) : (g.advance n).waiting = g.waiting := by unfold Group.advance; split <;> (try split) <;> rfl
@[simp] theorem Group.advance_woken (g : Group) (n : Nat) : (g.advance n).woken = g.woken := by unfold Group.advance; split <;> (try split) <;> rfl
@[simp] theorem Group.advance_waitIds (g : Group) (n : Nat) : (g.advance n).waitIds = g.waitIds := by unfold Group.advance; split <;> (try split) <;> rfl
@[simp] theorem Group.advance_waitPhase (g : Group) (n : Nat) : (g.advance n).waitPhase = g.waitPhase := by unfold Group.advance; split <;> (try split) <;> rfl
@[simp] theorem Group.advance_waitFrom (g : Group) (n : Nat) : (g.advance n).waitFrom = g.waitFrom := by unfold Group.advance; split <;> (try split) <;> rfl
@[simp] theorem Group.advance_place (g : Group) (n : Nat) : (g.advance n).place = g.place := by unfold Group.advance; split <;> (try split) <;> rfl
@[simp] theorem Group.advance_entered (g : Group) (n : Nat) : (g.advance n).entered = g.entered := by unfold Group.advance; split <;> (try split) <;> rfl
@[simp] theorem Group.advance_readySince (g : Group) (n : Nat) : (g.advance n).readySince = g.readySince := by unfold Group.advance; split <;> (try split) <;> rfl
@[simp] theorem Group.advance_eligible (g : Group) (n : Nat) : (g.advance n).eligible = g.eligible := by unfold Group.advance; split <;> (try split) <;> rfl
@[simp] theorem Group.advance_sleepUntil (g : Group) (n : Nat) : (g.advance n).sleepUntil = g.sleepUntil := by unfold Group.advance; split <;> (try split) <;> rfl
@[simp] theorem Group.advance_seals (g : Group) (n : Nat) : (g.advance n).seals = g.seals := by unfold Group.advance; split <;> (try split) <;> rfl
@[simp] theorem Group.advance_held (g : Group) (n : Nat) : (g.advance n).held = g.held := by unfold Group.advance; split <;> (try split) <;> rfl
@[simp] theorem Group.advance_yieldAt (g : Group) (n : Nat) : (g.advance n).yieldAt = g.yieldAt := by unfold Group.advance; split <;> (try split) <;> rfl
@[simp] theorem Group.advance_trapAt (g : Group) (n : Nat) : (g.advance n).trapAt = g.trapAt := by unfold Group.advance; split <;> (try split) <;> rfl
@[simp] theorem Group.advance_landings (g : Group) (n : Nat) : (g.advance n).landings = g.landings := by unfold Group.advance; split <;> (try split) <;> rfl
@[simp] theorem Group.advance_acqs (g : Group) (n : Nat) : (g.advance n).acqs = g.acqs := by unfold Group.advance; split <;> (try split) <;> rfl

/-! ### Group.raiseFlag -/

@[simp] theorem Group.raiseFlag_sreg (g : Group) (fs : Bool) : (g.raiseFlag fs).sreg = g.sreg := by unfold Group.raiseFlag; split <;> rfl
@[simp] theorem Group.raiseFlag_vreg (g : Group) (fs : Bool) : (g.raiseFlag fs).vreg = g.vreg := by unfold Group.raiseFlag; split <;> rfl
@[simp] theorem Group.raiseFlag_preg (g : Group) (fs : Bool) : (g.raiseFlag fs).preg = g.preg := by unfold Group.raiseFlag; split <;> rfl
@[simp] theorem Group.raiseFlag_pc (g : Group) (fs : Bool) : (g.raiseFlag fs).pc = g.pc := by unfold Group.raiseFlag; split <;> rfl
@[simp] theorem Group.raiseFlag_clause (g : Group) (fs : Bool) : (g.raiseFlag fs).clause = g.clause := by unfold Group.raiseFlag; split <;> rfl
@[simp] theorem Group.raiseFlag_resume (g : Group) (fs : Bool) : (g.raiseFlag fs).resume = g.resume := by unfold Group.raiseFlag; split <;> rfl
@[simp] theorem Group.raiseFlag_lastHdr (g : Group) (fs : Bool) : (g.raiseFlag fs).lastHdr = g.lastHdr := by unfold Group.raiseFlag; split <;> rfl
@[simp] theorem Group.raiseFlag_divTop (g : Group) (fs : Bool) : (g.raiseFlag fs).divTop = g.divTop := by unfold Group.raiseFlag; split <;> rfl
@[simp] theorem Group.raiseFlag_divSpilled (g : Group) (fs : Bool) : (g.raiseFlag fs).divSpilled = g.divSpilled := by unfold Group.raiseFlag; split <;> rfl
@[simp] theorem Group.raiseFlag_exited (g : Group) (fs : Bool) : (g.raiseFlag fs).exited = g.exited := by unfold Group.raiseFlag; split <;> rfl
@[simp] theorem Group.raiseFlag_cvm (g : Group) (fs : Bool) : (g.raiseFlag fs).cvm = g.cvm := by unfold Group.raiseFlag; split <;> rfl
@[simp] theorem Group.raiseFlag_srseed (g : Group) (fs : Bool) : (g.raiseFlag fs).srseed = g.srseed := by unfold Group.raiseFlag; split <;> rfl
@[simp] theorem Group.raiseFlag_sr (g : Group) (fs : Bool) : (g.raiseFlag fs).sr = g.sr := by unfold Group.raiseFlag; split <;> rfl
@[simp] theorem Group.raiseFlag_trapvec (g : Group) (fs : Bool) : (g.raiseFlag fs).trapvec = g.trapvec := by unfold Group.raiseFlag; split <;> rfl
@[simp] theorem Group.raiseFlag_trapcode (g : Group) (fs : Bool) : (g.raiseFlag fs).trapcode = g.trapcode := by unfold Group.raiseFlag; split <;> rfl
@[simp] theorem Group.raiseFlag_trappc (g : Group) (fs : Bool) : (g.raiseFlag fs).trappc = g.trappc := by unfold Group.raiseFlag; split <;> rfl
@[simp] theorem Group.raiseFlag_trapinfo (g : Group) (fs : Bool) : (g.raiseFlag fs).trapinfo = g.trapinfo := by unfold Group.raiseFlag; split <;> rfl
@[simp] theorem Group.raiseFlag_cfg (g : Group) (fs : Bool) : (g.raiseFlag fs).cfg = g.cfg := by unfold Group.raiseFlag; split <;> rfl
@[simp] theorem Group.raiseFlag_intrap (g : Group) (fs : Bool) : (g.raiseFlag fs).intrap = g.intrap := by unfold Group.raiseFlag; split <;> rfl
@[simp] theorem Group.raiseFlag_trapmask (g : Group) (fs : Bool) : (g.raiseFlag fs).trapmask = g.trapmask := by unfold Group.raiseFlag; split <;> rfl
@[simp] theorem Group.raiseFlag_trapdepth (g : Group) (fs : Bool) : (g.raiseFlag fs).trapdepth = g.trapdepth := by unfold Group.raiseFlag; split <;> rfl
@[simp] theorem Group.raiseFlag_retired (g : Group) (fs : Bool) : (g.raiseFlag fs).retired = g.retired := by unfold Group.raiseFlag; split <;> rfl
@[simp] theorem Group.raiseFlag_withdrawn (g : Group) (fs : Bool) : (g.raiseFlag fs).withdrawn = g.withdrawn := by unfold Group.raiseFlag; split <;> rfl
@[simp] theorem Group.raiseFlag_waiting (g : Group) (fs : Bool) : (g.raiseFlag fs).waiting = g.waiting := by unfold Group.raiseFlag; split <;> rfl
@[simp] theorem Group.raiseFlag_woken (g : Group) (fs : Bool) : (g.raiseFlag fs).woken = g.woken := by unfold Group.raiseFlag; split <;> rfl
@[simp] theorem Group.raiseFlag_waitIds (g : Group) (fs : Bool) : (g.raiseFlag fs).waitIds = g.waitIds := by unfold Group.raiseFlag; split <;> rfl
@[simp] theorem Group.raiseFlag_waitPhase (g : Group) (fs : Bool) : (g.raiseFlag fs).waitPhase = g.waitPhase := by unfold Group.raiseFlag; split <;> rfl
@[simp] theorem Group.raiseFlag_waitFrom (g : Group) (fs : Bool) : (g.raiseFlag fs).waitFrom = g.waitFrom := by unfold Group.raiseFlag; split <;> rfl
@[simp] theorem Group.raiseFlag_place (g : Group) (fs : Bool) : (g.raiseFlag fs).place = g.place := by unfold Group.raiseFlag; split <;> rfl
@[simp] theorem Group.raiseFlag_entered (g : Group) (fs : Bool) : (g.raiseFlag fs).entered = g.entered := by unfold Group.raiseFlag; split <;> rfl
@[simp] theorem Group.raiseFlag_readySince (g : Group) (fs : Bool) : (g.raiseFlag fs).readySince = g.readySince := by unfold Group.raiseFlag; split <;> rfl
@[simp] theorem Group.raiseFlag_eligible (g : Group) (fs : Bool) : (g.raiseFlag fs).eligible = g.eligible := by unfold Group.raiseFlag; split <;> rfl
@[simp] theorem Group.raiseFlag_sleepUntil (g : Group) (fs : Bool) : (g.raiseFlag fs).sleepUntil = g.sleepUntil := by unfold Group.raiseFlag; split <;> rfl
@[simp] theorem Group.raiseFlag_seals (g : Group) (fs : Bool) : (g.raiseFlag fs).seals = g.seals := by unfold Group.raiseFlag; split <;> rfl
@[simp] theorem Group.raiseFlag_held (g : Group) (fs : Bool) : (g.raiseFlag fs).held = g.held := by unfold Group.raiseFlag; split <;> rfl
@[simp] theorem Group.raiseFlag_yieldAt (g : Group) (fs : Bool) : (g.raiseFlag fs).yieldAt = g.yieldAt := by unfold Group.raiseFlag; split <;> rfl
@[simp] theorem Group.raiseFlag_trapAt (g : Group) (fs : Bool) : (g.raiseFlag fs).trapAt = g.trapAt := by unfold Group.raiseFlag; split <;> rfl
@[simp] theorem Group.raiseFlag_landings (g : Group) (fs : Bool) : (g.raiseFlag fs).landings = g.landings := by unfold Group.raiseFlag; split <;> rfl
@[simp] theorem Group.raiseFlag_acqs (g : Group) (fs : Bool) : (g.raiseFlag fs).acqs = g.acqs := by unfold Group.raiseFlag; split <;> rfl

/-! ### Group.retire -/

@[simp] theorem Group.retire_vreg (g : Group) : g.retire.vreg = g.vreg := rfl
@[simp] theorem Group.retire_preg (g : Group) : g.retire.preg = g.preg := rfl
@[simp] theorem Group.retire_flag (g : Group) : g.retire.flag = g.flag := rfl
@[simp] theorem Group.retire_pc (g : Group) : g.retire.pc = g.pc := rfl
@[simp] theorem Group.retire_resume (g : Group) : g.retire.resume = g.resume := rfl
@[simp] theorem Group.retire_cvm (g : Group) : g.retire.cvm = g.cvm := rfl
@[simp] theorem Group.retire_srseed (g : Group) : g.retire.srseed = g.srseed := rfl
@[simp] theorem Group.retire_sr (g : Group) : g.retire.sr = g.sr := rfl
@[simp] theorem Group.retire_trapvec (g : Group) : g.retire.trapvec = g.trapvec := rfl
@[simp] theorem Group.retire_trapcode (g : Group) : g.retire.trapcode = g.trapcode := rfl
@[simp] theorem Group.retire_trappc (g : Group) : g.retire.trappc = g.trappc := rfl
@[simp] theorem Group.retire_trapinfo (g : Group) : g.retire.trapinfo = g.trapinfo := rfl
@[simp] theorem Group.retire_cfg (g : Group) : g.retire.cfg = g.cfg := rfl
@[simp] theorem Group.retire_trapmask (g : Group) : g.retire.trapmask = g.trapmask := rfl
@[simp] theorem Group.retire_trapdepth (g : Group) : g.retire.trapdepth = g.trapdepth := rfl
@[simp] theorem Group.retire_woken (g : Group) : g.retire.woken = g.woken := rfl
@[simp] theorem Group.retire_waitIds (g : Group) : g.retire.waitIds = g.waitIds := rfl
@[simp] theorem Group.retire_waitPhase (g : Group) : g.retire.waitPhase = g.waitPhase := rfl
@[simp] theorem Group.retire_waitFrom (g : Group) : g.retire.waitFrom = g.waitFrom := rfl
@[simp] theorem Group.retire_entered (g : Group) : g.retire.entered = g.entered := rfl
@[simp] theorem Group.retire_readySince (g : Group) : g.retire.readySince = g.readySince := rfl
@[simp] theorem Group.retire_eligible (g : Group) : g.retire.eligible = g.eligible := rfl
@[simp] theorem Group.retire_seals (g : Group) : g.retire.seals = g.seals := rfl
@[simp] theorem Group.retire_held (g : Group) : g.retire.held = g.held := rfl
@[simp] theorem Group.retire_yieldAt (g : Group) : g.retire.yieldAt = g.yieldAt := rfl
@[simp] theorem Group.retire_trapAt (g : Group) : g.retire.trapAt = g.trapAt := rfl
@[simp] theorem Group.retire_landings (g : Group) : g.retire.landings = g.landings := rfl
@[simp] theorem Group.retire_acqs (g : Group) : g.retire.acqs = g.acqs := rfl
@[simp] theorem Group.retire_retired (g : Group) : g.retire.retired = true := rfl
theorem Group.retire_sreg (g : Group) : g.retire.sreg = (({ g with exited := Mask.all } : Group).setMask 0).sreg := rfl

end Sys2Proof.Machine
end

