-- ==== Sys2Proof/Laws/Tables.lean ====
section
/-! SUPPORT. Laws of tables and of byte memory: read after write, the canonical form kept, bytes left alone. -/
namespace Sys2Proof.Machine

/-! ### Tables -/

@[simp] theorem Tbl.get?_put_same {α : Type} (t : Tbl α) (k : Nat) (v : α) : (t.put k v).get? k = some v := by
  induction t with
  | nil => simp [Tbl.put, Tbl.get?]
  | cons p t ih =>
    obtain ⟨j, u⟩ := p
    by_cases h1 : k < j
    · simp [Tbl.put, Tbl.get?, h1]
    · by_cases h2 : j = k
      · simp [Tbl.put, Tbl.get?, h2]
      · simp [Tbl.put, Tbl.get?, h1, h2, ih]

theorem Tbl.get?_put_other {α : Type} (t : Tbl α) (k n : Nat) (v : α) (h : n ≠ k) : (t.put k v).get? n = t.get? n := by
  induction t with
  | nil => simp [Tbl.put, Tbl.get?, Ne.symm h]
  | cons p t ih =>
    obtain ⟨j, u⟩ := p
    by_cases h1 : k < j
    · simp [Tbl.put, Tbl.get?, h1, Ne.symm h]
    · by_cases h2 : j = k
      · subst h2
        simp [Tbl.put, Tbl.get?, Ne.symm h]
      · simp [Tbl.put, Tbl.get?, h1, h2, ih]

theorem Tbl.get?_put {α : Type} (t : Tbl α) (k n : Nat) (v : α) : (t.put k v).get? n = if n = k then some v else t.get? n := by
  by_cases h : n = k
  · subst h; simp
  · simp [h, Tbl.get?_put_other t k n v h]

theorem Tbl.get?_upd {α : Type} (t : Tbl α) (k n : Nat) (f : α → α) :
    (t.upd k f).get? n = if n = k then (t.get? k).map f else t.get? n := by
  unfold Tbl.upd
  cases h : t.get? k with
  | none => by_cases hn : n = k <;> simp [hn, h]
  | some v => simp [Tbl.get?_put]

/-! ### Memory -/

/-- The canonical form, said of the whole list. -/
theorem Memory.wf_iff (m : Memory) :
    m.wf = true ↔ m.Pairwise (fun c d => c.1 < d.1) ∧ ∀ c ∈ m, c.2 ≠ Memory.dflt := by
  induction m with
  | nil => simp [Memory.wf]
  | cons c m ih =>
    obtain ⟨j, b⟩ := c
    cases m with
    | nil => simp [Memory.wf]
    | cons d m =>
      obtain ⟨k, e⟩ := d
      simp only [Memory.wf, Bool.and_eq_true, bne_iff_ne, ne_eq, decide_eq_true_eq, ih, List.pairwise_cons, List.mem_cons,
        forall_eq_or_imp]
      constructor
      · rintro ⟨⟨hb, hj⟩, ⟨hp, hq⟩, he, hr⟩
        exact ⟨⟨⟨hj, fun x hx => Nat.lt_trans hj (hp x hx)⟩, hp, hq⟩, hb, he, hr⟩
      · rintro ⟨⟨⟨hj, -⟩, hp, hq⟩, hb, he, hr⟩
        exact ⟨⟨hb, hj⟩, ⟨hp, hq⟩, he, hr⟩

theorem Memory.mem_write (m : Memory) (a : Nat) (b : Byte) (c : Host.Cell) (h : c ∈ m.write a b) :
    (c = (a, b) ∧ b ≠ Memory.dflt) ∨ c ∈ m := by
  induction m with
  | nil =>
    unfold Memory.write at h
    split at h <;> simp_all
  | cons d m ih =>
    obtain ⟨j, e⟩ := d
    unfold Memory.write at h
    split at h
    · split at h <;> simp_all
    · split at h
      · split at h <;> simp_all <;> grind
      · simp only [List.mem_cons] at h ⊢
        rcases h with h | h
        · exact .inr (.inl h)
        · rcases ih h with h | h
          · exact .inl h
          · exact .inr (.inr h)

/-- A write keeps the canonical form. -/
theorem Memory.wf_write (m : Memory) (a : Nat) (b : Byte) (h : m.wf = true) : (m.write a b).wf = true := by
  rw [Memory.wf_iff] at h ⊢
  refine ⟨?_, fun c hc => ?_⟩
  · have hp := h.1
    clear h
    induction m with
    | nil => unfold Memory.write; split <;> simp
    | cons d m ih =>
      obtain ⟨j, e⟩ := d
      rw [List.pairwise_cons] at hp
      unfold Memory.write
      split
      · rename_i hlt
        split
        · exact List.pairwise_cons.2 hp
        · refine List.pairwise_cons.2 ⟨fun c hc => ?_, List.pairwise_cons.2 hp⟩
          rcases List.mem_cons.1 hc with rfl | hc
          · exact hlt
          · exact Nat.lt_trans hlt (hp.1 c hc)
      · split
        · rename_i heq
          subst heq
          split
          · exact hp.2
          · exact List.pairwise_cons.2 hp
        · rename_i h1 h2
          refine List.pairwise_cons.2 ⟨fun c hc => ?_, ih hp.2⟩
          rcases Memory.mem_write m a b c hc with ⟨rfl, -⟩ | hc
          · show j < a
            omega
          · exact hp.1 c hc
  · rcases Memory.mem_write m a b c hc with ⟨rfl, hb⟩ | hc
    · exact hb
    · exact h.2 c hc

/-- Writing bytes keeps the canonical form. -/
theorem Memory.wf_writeN (bs : List Byte) (m : Memory) (a : Nat) (h : m.wf = true) : (m.writeN a bs).wf = true := by
  induction bs generalizing m a with
  | nil => exact h
  | cons b bs ih => exact ih _ _ (Memory.wf_write m a b h)

/-- Leaving entries out keeps the canonical form. -/
theorem Memory.wf_filter (m : Memory) (p : Host.Cell → Bool) (h : m.wf = true) : Memory.wf (m.filter p) = true := by
  rw [Memory.wf_iff] at h ⊢
  exact ⟨h.1.filter p, fun c hc => h.2 c (List.mem_filter.1 hc).1⟩

/-- Zeroing a range keeps the canonical form. -/
theorem Memory.wf_zero (m : Memory) (a n : Nat) (h : m.wf = true) : (m.zero a n).wf = true := Memory.wf_filter m _ h

@[simp] theorem Memory.read_write_same (m : Memory) (a : Nat) (b : Byte) (h : m.wf = true) : (m.write a b).read a = b := by
  rw [Memory.wf_iff] at h
  replace h := h.1
  induction m with
  | nil =>
    unfold Memory.write
    split <;> simp_all [Memory.read]
  | cons d m ih =>
    obtain ⟨j, e⟩ := d
    rw [List.pairwise_cons] at h
    unfold Memory.write
    split
    · rename_i hlt
      split
      · rename_i hb
        simp [Memory.read, hb, hlt]
        omega
      · simp [Memory.read]
    · split
      · rename_i heq
        subst heq
        split
        · rename_i hb
          cases m with
          | nil => simp [Memory.read, hb]
          | cons c m =>
            obtain ⟨k, x⟩ := c
            have hk : a < k := h.1 (k, x) List.mem_cons_self
            simp [Memory.read, hb, hk]
            omega
        · simp [Memory.read]
      · rename_i h1 h2
        have : ¬ j = a := fun x => h2 x.symm
        simp [Memory.read, this, h1, ih h.2]

/-- A write leaves every other address alone. -/
theorem Memory.read_write_other (m : Memory) (a x : Nat) (b : Byte) (h : m.wf = true) (hx : x ≠ a) :
    (m.write a b).read x = m.read x := by
  rw [Memory.wf_iff] at h
  replace h := h.1
  induction m with
  | nil =>
    unfold Memory.write
    split
    · rfl
    · simp [Memory.read, Ne.symm hx]
  | cons d m ih =>
    obtain ⟨j, e⟩ := d
    rw [List.pairwise_cons] at h
    unfold Memory.write
    split
    · rename_i hlt
      split
      · rfl
      · by_cases h1 : x < a
        · have h2 : x < j := Nat.lt_trans h1 hlt
          have h3 : ¬ j = x := by omega
          simp [Memory.read, Ne.symm hx, h1, h2, h3]
        · simp [Memory.read, Ne.symm hx, h1]
    · split
      · rename_i heq
        subst heq
        split
        · cases m with
          | nil => simp [Memory.read, Ne.symm hx]
          | cons c m =>
            obtain ⟨k, y⟩ := c
            have hk : a < k := h.1 (k, y) List.mem_cons_self
            by_cases h1 : x < a
            · have h2 : x < k := Nat.lt_trans h1 hk
              have h3 : ¬ k = x := by omega
              simp [Memory.read, Ne.symm hx, h1, h2, h3]
            · simp [Memory.read, Ne.symm hx, h1]
        · simp [Memory.read, Ne.symm hx]
      · simp only [Memory.read, ih h.2]

/-- Writing bytes leaves every address outside them alone. -/
theorem Memory.read_writeN_out (bs : List Byte) (m : Memory) (a x : Nat) (h : m.wf = true) (hx : x < a ∨ a + bs.length ≤ x) :
    (m.writeN a bs).read x = m.read x := by
  induction bs generalizing m a with
  | nil => rfl
  | cons b bs ih =>
    have hl : (b :: bs).length = bs.length + 1 := rfl
    rw [hl] at hx
    show ((m.write a b).writeN (a + 1) bs).read x = m.read x
    rw [ih _ _ (Memory.wf_write m a b h) (by omega), Memory.read_write_other m a x b h (by omega)]

/-- The bytes written are read. -/
theorem Memory.readN_writeN (bs : List Byte) (m : Memory) (a : Nat) (h : m.wf = true) :
    (m.writeN a bs).readN a bs.length = bs := by
  induction bs generalizing m a with
  | nil => rfl
  | cons b bs ih =>
    show ((m.write a b).writeN (a + 1) bs).read a :: ((m.write a b).writeN (a + 1) bs).readN (a + 1) bs.length = b :: bs
    rw [ih _ _ (Memory.wf_write m a b h),
      Memory.read_writeN_out bs _ _ _ (Memory.wf_write m a b h) (.inl (Nat.lt_succ_self a)), Memory.read_write_same m a b h]

end Sys2Proof.Machine
end

