-- ==== Sys2Proof/Laws/Home.lean ====
section
/-! SUPPORT. What an access at its home can change of the machine (04_ordering.md R107 to R110; 07_load_store.md R201, R216, R225):
memory, which keeps its canonical form, L1 words, owners, partials and the lines of the capacity-tier cache, and nothing else. -/
namespace Sys2Proof.Machine
open Sys2Proof

theorem State.flushOwner_eq (s : State) (pa n : Nat) :
    ∃ m l k, s.flushOwner pa n = { s with mem := m, l1 := l, stk := k } ∧ (s.mem.wf = true → m.wf = true) := by
  unfold State.flushOwner
  generalize wordsOf pa n = ws
  suffices h : ∀ (u : State), (∃ m l k, u = { s with mem := m, l1 := l, stk := k } ∧ (s.mem.wf = true → m.wf = true)) →
      ∃ m l k, List.foldl (fun (s : State) w =>
      match s.wordOwner.get? w with
      | none => s
      | some c =>
        match s.l1.get? (l1Key c (4 * w)) with
        | some (.d x) =>
          { s with mem := s.mem.writeN (4 * w) (leBytes 4 x.toNat), stk := s.stk.touch true (4 * w), l1 := s.l1.put (l1Key c (4 * w)) .o }
        | _ => s) u ws = { s with mem := m, l1 := l, stk := k } ∧ (s.mem.wf = true → m.wf = true) from h s ⟨_, _, _, rfl, id⟩
  induction ws with
  | nil => exact fun u h => h
  | cons w ws ih =>
    rintro u ⟨m, l, k, rfl, hm⟩
    rw [List.foldl_cons]
    apply ih
    split
    · exact ⟨_, _, _, rfl, hm⟩
    · split
      · exact ⟨_, _, _, rfl, fun h => Memory.wf_writeN _ _ _ (hm h)⟩
      · exact ⟨_, _, _, rfl, hm⟩

theorem State.combinePartials_wf (s : State) (pa n : Nat) (h : s.mem.wf = true) : (s.combinePartials pa n).mem.wf = true := by
  unfold State.combinePartials
  simp only
  generalize List.filter _ s.partials = ps
  generalize s.mem = m at h
  induction ps generalizing m with
  | nil => exact h
  | cons p ps ih => exact ih _ (Memory.wf_writeN _ _ _ h)

theorem State.combine_eq (s : State) (pa n : Nat) :
    ∃ m l p k, s.combine pa n = { s with mem := m, l1 := l, partials := p, stk := k } ∧ (s.mem.wf = true → m.wf = true) := by
  obtain ⟨m, l, k, h, hm⟩ := s.flushOwner_eq pa n
  refine ⟨_, l, _, _, by rw [State.combine, h]; rfl, fun hs => ?_⟩
  exact State.combinePartials_wf { s with mem := m, l1 := l, stk := k } pa n (hm hs)

theorem State.cacheTouch_eq (s : State) (pa : Nat) (w : Bool) : ∃ k, s.cacheTouch pa w = { s with stk := k } := ⟨_, rfl⟩

theorem State.dropPartner_eq (s : State) (c w : Nat) : ∃ l, s.dropPartner c w = { s with l1 := l } := by
  unfold State.dropPartner
  split
  · exact ⟨_, rfl⟩
  · exact ⟨_, rfl⟩

theorem State.ownWord_eq (s : State) (c : Option Nat) (nc : Bool) (w : Nat) :
    ∃ l o, s.ownWord c nc w = { s with l1 := l, wordOwner := o } := by
  unfold State.ownWord
  cases c with
  | none => exact ⟨_, _, rfl⟩
  | some c =>
    simp only
    generalize (if nc = true then _ else _ : Tbl L1Word) = l1
    obtain ⟨l, h⟩ := State.dropPartner_eq { s with l1 := l1, wordOwner := s.wordOwner.put w c } c w
    exact ⟨l, _, h⟩

theorem State.evictLine_eq (s : State) (c n : Nat) :
    ∃ m l p k, s.evictLine c n = { s with mem := m, l1 := l, partials := p, stk := k } ∧ (s.mem.wf = true → m.wf = true) := by
  unfold State.evictLine
  obtain ⟨m, l, p, k, h, hm⟩ := s.combine_eq (128 * n) 128
  rw [h]
  exact ⟨_, _, _, _, rfl, hm⟩

theorem State.trimL1_eq (s : State) (c n : Nat) :
    ∃ m l p k, s.trimL1 c n = { s with mem := m, l1 := l, partials := p, stk := k } ∧ (s.mem.wf = true → m.wf = true) := by
  unfold State.trimL1
  simp only
  repeat' split
  · exact ⟨_, _, _, _, rfl, id⟩
  · exact State.evictLine_eq _ _ _
  · exact ⟨_, _, _, _, rfl, id⟩

/-- What a performed write can change. -/
theorem State.performWrite_eq (s : State) (c : Option Nat) (nc : Bool) (pa : Nat) (bs : List Byte) :
    ∃ m l o p k, s.performWrite c nc pa bs = { s with mem := m, l1 := l, wordOwner := o, partials := p, stk := k } ∧
      (s.mem.wf = true → m.wf = true) := by
  unfold State.performWrite
  obtain ⟨m, l, p, k, h, hm⟩ := s.combine_eq pa bs.length
  rw [h]
  obtain ⟨k, h⟩ := State.cacheTouch_eq { s with mem := m, l1 := l, partials := p, stk := k } pa true
  rw [h]
  suffices h : ∀ (ws : List Nat) (u : State), (∃ m l o p k, u = { s with mem := m, l1 := l, wordOwner := o, partials := p, stk := k } ∧
        (s.mem.wf = true → m.wf = true)) →
      ∃ m l o p k, List.foldl (fun (s : State) w => s.ownWord c nc w) u ws =
        { s with mem := m, l1 := l, wordOwner := o, partials := p, stk := k } ∧ (s.mem.wf = true → m.wf = true) by
    obtain ⟨m', l', o', p', k', h', hm'⟩ := h (wordsOf pa bs.length)
      { s with mem := m.writeN pa bs, l1 := l, partials := p, stk := k } ⟨_, _, _, _, _, rfl, fun hs => Memory.wf_writeN _ _ _ (hm hs)⟩
    simp only
    rw [h']
    cases c with
    | none => exact ⟨_, _, _, _, _, rfl, hm'⟩
    | some c =>
      obtain ⟨m2, l2, p2, k2, h2, hm2⟩ := State.trimL1_eq { s with mem := m', l1 := l', wordOwner := o', partials := p', stk := k' } c (pa / 128)
      exact ⟨_, _, _, _, _, h2, fun hs => hm2 (hm' hs)⟩
  intro ws
  induction ws with
  | nil => exact fun u h => h
  | cons w ws ih =>
    rintro u ⟨m, l, o, p, k, rfl, hm⟩
    rw [List.foldl_cons]
    apply ih
    obtain ⟨l', o', h⟩ := State.ownWord_eq { s with mem := m, l1 := l, wordOwner := o, partials := p, stk := k } c nc w
    exact ⟨_, _, _, _, _, h, hm⟩

/-- What a performed read can change. -/
theorem State.performRead_eq (s : State) (c : Option Nat) (nc : Bool) (pa n : Nat) :
    ∃ m l p k, (s.performRead c nc pa n).2 = { s with mem := m, l1 := l, partials := p, stk := k } ∧
      (s.mem.wf = true → m.wf = true) := by
  unfold State.performRead
  simp only
  generalize unitSpan pa n = am
  obtain ⟨a, b⟩ := am
  simp only
  obtain ⟨m, l, p, k, h, hm⟩ := s.combine_eq a b
  rw [h]
  obtain ⟨k, h⟩ := State.cacheTouch_eq { s with mem := m, l1 := l, partials := p, stk := k } pa false
  rw [h]
  cases c with
  | none => exact ⟨_, _, _, _, rfl, hm⟩
  | some c =>
    cases nc with
    | true => exact ⟨_, _, _, _, rfl, hm⟩
    | false =>
      suffices h : ∀ (ws : List Nat) (u : State), (∃ m l p k, u = { s with mem := m, l1 := l, partials := p, stk := k } ∧
            (s.mem.wf = true → m.wf = true)) →
          ∃ m l p k, List.foldl (fun (s : State) w => s.fillWord c w) u ws =
            { s with mem := m, l1 := l, partials := p, stk := k } ∧ (s.mem.wf = true → m.wf = true) by
        obtain ⟨m', l', p', k', h', hm'⟩ := h (wordsOf a b) { s with mem := m, l1 := l, partials := p, stk := k } ⟨_, _, _, _, rfl, hm⟩
        simp only [Bool.false_eq_true, if_false]
        rw [h']
        obtain ⟨m2, l2, p2, k2, h2, hm2⟩ := State.trimL1_eq { s with mem := m', l1 := l', partials := p', stk := k' } c (pa / 128)
        exact ⟨_, _, _, _, h2, fun hs => hm2 (hm' hs)⟩
      intro ws
      induction ws with
      | nil => exact fun u h => h
      | cons w ws ih =>
        rintro u ⟨m, l, p, k, rfl, hm⟩
        rw [List.foldl_cons]
        exact ih _ ⟨_, _, _, _, rfl, hm⟩

/-- Writing back the words of a core that are changed under a lock (R225). -/
theorem State.writeBack_eq (s : State) (core : Nat) (rs : List (Nat × Nat)) :
    ∃ m l o p k, s.writeBack core rs = { s with mem := m, l1 := l, wordOwner := o, partials := p, stk := k } ∧
      (s.mem.wf = true → m.wf = true) := by
  unfold State.writeBack
  generalize s.l1 = ws
  suffices h : ∀ (u : State), (∃ m l o p k, u = { s with mem := m, l1 := l, wordOwner := o, partials := p, stk := k } ∧
        (s.mem.wf = true → m.wf = true)) →
      ∃ m l o p k, List.foldl (fun (s : State) ((k, w) : Nat × L1Word) =>
        let pa := 4 * (k % 2 ^ 40)
        match w with
        | .d x =>
          if k / 2 ^ 40 = core && rs.any (fun (a, n) => a ≤ pa && pa < a + n) then
            s.performWrite (some core) false pa (leBytes 4 x.toNat)
          else s
        | _ => s) u ws = { s with mem := m, l1 := l, wordOwner := o, partials := p, stk := k } ∧ (s.mem.wf = true → m.wf = true) from
    h s ⟨_, _, _, _, _, rfl, id⟩
  induction ws with
  | nil => exact fun u h => h
  | cons w ws ih =>
    rintro u ⟨m, l, o, p, k, rfl, hm⟩
    rw [List.foldl_cons]
    apply ih
    simp only
    split
    · split
      · rename_i x _ _
        obtain ⟨m', l', o', p', k', h, hm'⟩ := State.performWrite_eq { s with mem := m, l1 := l, wordOwner := o, partials := p, stk := k }
          (some core) false (4 * (w.1 % 2 ^ 40)) (leBytes 4 x.toNat)
        exact ⟨_, _, _, _, _, h, fun hs => hm' (hm hs)⟩
      · exact ⟨_, _, _, _, _, rfl, hm⟩
    · exact ⟨_, _, _, _, _, rfl, hm⟩

end Sys2Proof.Machine
end

