-- ==== Sys2Proof/Laws/Groups.lean ====
section
/-! SUPPORT. Reading a register, a group or a team after a write, and what settling a group can change of the machine (R136 to R138,
R157, R208). -/
namespace Sys2Proof.Machine
open Sys2Proof

/-! ### Registers of a group -/

@[simp] theorem Group.s_63 (g : Group) : g.s 63 = 0 := rfl

@[simp] theorem Group.p_0 (g : Group) : g.p 0 = Mask.all := rfl

theorem Group.s_setS_other (g : Group) (d k : Nat) (x : DWord) (h : k ≠ d) : (g.setS d x).s k = g.s k := by
  unfold Group.setS Group.s
  repeat' split
  all_goals first
    | rfl
    | simp [Ne.symm h]

theorem Group.s_setS_same (g : Group) (d : Nat) (x : DWord) (h : d < 60) : (g.setS d x).s d = x := by
  have h1 : d ≠ 63 := by omega
  have h2 : ¬ 60 ≤ d := by omega
  have h3 : d < 64 := by omega
  simp [Group.setS, Group.s, h1, h2, h3]

theorem Group.p_setP_other (g : Group) (d k : Nat) (m : Mask) (h : k ≠ d) : (g.setP d m).p k = g.p k := by
  unfold Group.setP Group.p
  repeat' split
  all_goals first
    | rfl
    | simp [Ne.symm h]

theorem Group.p_setP_same (g : Group) (d : Nat) (m : Mask) (h : 0 < d) (h8 : d < 8) : (g.setP d m).p d = m := by
  have h1 : d ≠ 0 := by omega
  simp [Group.setP, Group.p, h1, h8]

theorem Group.s_of_sreg {g h : Group} (e : h.sreg = g.sreg) (k : Nat) : h.s k = g.s k := by
  unfold Group.s
  rw [e]

theorem Group.sameS_setMask (g : Group) (m : Mask) : sameS g (g.setMask m) [] := by
  intro k hk _
  refine (Group.s_of_sreg (g := ((g.setS 60 ((m.extractLsb' 0 32).zeroExtend 64)).setS 61 ((m.extractLsb' 32 32).zeroExtend 64)).setS 62
    ((m.extractLsb' 64 32).zeroExtend 64)) rfl k).trans ?_
  rw [Group.s_setS_other _ _ _ _ (by omega), Group.s_setS_other _ _ _ _ (by omega), Group.s_setS_other _ _ _ _ (by omega)]

/-! ### Teams and groups -/

theorem State.team?_updTeam (s : State) (k n : Nat) (f : Team → Team) :
    (s.updTeam k f).team? n = if n = k then (s.team? k).map f else s.team? n := Tbl.get?_upd _ _ _ _

@[simp] theorem State.team?_putTeam_same (s : State) (k : Nat) (t : Team) : (s.putTeam k t).team? k = some t :=
  Tbl.get?_put_same _ _ _

theorem State.team?_putTeam_other (s : State) (k n : Nat) (t : Team) (h : n ≠ k) : (s.putTeam k t).team? n = s.team? n :=
  Tbl.get?_put_other _ _ _ _ h

theorem listUpd_get {α : Type} (l : List α) (i j : Nat) (f : α → α) :
    (listUpd l i f)[j]? = if j = i then l[i]?.map f else l[j]? := by
  unfold listUpd
  cases h : l[i]? with
  | none => by_cases hj : j = i <;> simp [hj, h]
  | some v =>
    have hi : i < l.length := (List.getElem?_eq_some_iff.1 h).1
    by_cases hj : j = i
    · simp [hj, hi]
    · simp [hj, Ne.symm hj]

theorem State.group?_updGroup (s : State) (r q : GRef) (f : Group → Group) :
    (s.updGroup r f).group? q = if q = r then (s.group? r).map f else s.group? q := by
  unfold State.updGroup State.group?
  rw [State.team?_updTeam]
  by_cases hk : q.team = r.team
  · rw [if_pos hk, hk]
    cases s.team? r.team with
    | none => simp
    | some t =>
      simp only [Option.map_some, listUpd_get]
      by_cases hg : q.grp = r.grp
      · have : q = r := by cases q; cases r; simp_all
        subst this
        simp
      · have : q ≠ r := fun h => hg (by rw [h])
        simp [hg, this]
  · have : q ≠ r := fun h => hk (by rw [h])
    rw [if_neg hk, if_neg this]

theorem State.group?_putGroup_other (s : State) (r q : GRef) (g : Group) (h : q ≠ r) : (s.putGroup r g).group? q = s.group? q := by
  rw [State.putGroup, State.group?_updGroup, if_neg h]

theorem State.group?_putGroup_same (s : State) (r : GRef) (g g' : Group) (h : s.group? r = some g') :
    (s.putGroup r g).group? r = some g := by
  rw [State.putGroup, State.group?_updGroup, if_pos rfl, h]
  rfl

theorem State.current_group? {s : State} {r : GRef} {t : Team} {g : Group} (h : s.current = some (r, t, g)) :
    s.cur = some r ∧ s.team? r.team = some t ∧ s.group? r = some g := by
  unfold State.current at h
  split at h
  · cases h
  · rename_i r' hc
    split at h
    · cases h
    · rename_i t' ht
      split at h
      · cases h
      · rename_i g' hg
        cases h
        exact ⟨hc, ht, by rw [State.group?, ht]; exact hg⟩

theorem State.issue_eq {s : State} {r : GRef} {t : Team} {g : Group} {n : Nat} {body : GRef → Team → Group → Res}
    (h : s.current = some (r, t, g)) : s.issue n body = .next (s.finish r t n (body r t g)) := by
  rw [State.issue, h]

/-- A state with the same teams has the same groups. -/
theorem State.group?_of_teams {s u : State} (h : u.teams = s.teams) (q : GRef) : u.group? q = s.group? q := by
  unfold State.group? State.team?
  rw [h]

/-! ### What the ends of an instruction change -/

/-- A suspension leaves every group as it is (R208). -/
theorem State.group?_suspend (s : State) (r q : GRef) (ps : List MissPage) (h : Option DWord) : (s.suspend r ps h).group? q = s.group? q := by
  unfold State.suspend State.group?
  rw [State.team?_updTeam]
  by_cases h : q.team = r.team
  · rw [if_pos h, h]
    cases s.team? r.team <;> rfl
  · rw [if_neg h]

/-- A fault that ends a context leaves every byte of memory and every group as it is until CONTEXT_END (R157). -/
theorem State.fatalCtx_frame (s : State) (c : Nat) (f : FaultRec) :
    (s.fatalCtx c f).teams = s.teams ∧ sameMemory s (s.fatalCtx c f) := by
  unfold State.fatalCtx
  repeat' split
  all_goals exact ⟨rfl, rfl, rfl, rfl, rfl⟩

theorem State.fatalGroup_frame (s : State) (r : GRef) (k : Nat) (f : FaultInfo) (n : Nat) :
    (s.fatalGroup r k f n).teams = s.teams ∧ sameMemory s (s.fatalGroup r k f n) := by
  unfold State.fatalGroup
  repeat' split
  · exact ⟨rfl, rfl, rfl, rfl, rfl⟩
  · exact ⟨rfl, rfl, rfl, rfl, rfl⟩
  · exact State.fatalCtx_frame _ _ _

theorem State.fatal_frame (s : State) (r : GRef) (f : FaultInfo) : (s.fatal r f).teams = s.teams ∧ sameMemory s (s.fatal r f) :=
  State.fatalGroup_frame _ _ _ _ _

/-- A group that retires keeps its registers (R17). -/
theorem Group.retire_frame (g : Group) :
    g.retire.retired = true ∧ sameS g g.retire [] ∧ g.retire.vreg = g.vreg ∧ g.retire.preg = g.preg ∧ sameSpecial g g.retire := by
  refine ⟨by simp, fun k hk hn => ?_, by simp, by simp, ?_⟩
  · exact (Group.s_of_sreg g.retire_sreg k).trans (Group.sameS_setMask { g with exited := Mask.all } 0 k hk hn)
  · exact ⟨by simp, by simp, by simp, by simp, by simp, by simp, by simp, by simp, by simp, by simp, by simp, by simp⟩

/-- The end of a team leaves its groups as they are (R17). -/
theorem Team.ended_groups (t : Team) : t.ended.groups = t.groups := by
  unfold Team.ended
  split <;> rfl

theorem State.group?_ended (s : State) (k : Nat) (q : GRef) : (s.updTeam k Team.ended).group? q = s.group? q := by
  unfold State.group?
  rw [State.team?_updTeam]
  by_cases h : q.team = k
  · rw [if_pos h, h]
    cases s.team? k with
    | none => rfl
    | some t => simp [Team.ended_groups]
  · rw [if_neg h]

theorem Group.atBoundary_sreg' (g : Group) (n k : Nat) : (g.atBoundary n).s k = g.s k :=
  Group.s_of_sreg (Group.atBoundary_sreg g n) k

/-- A group that retires leaves the others, and every byte of memory, alone (R17). -/
theorem State.retireGroup_frame (s : State) (r : GRef) (g : Group) (h : s.group? r = some g) :
    (s.retireGroup r).group? r = some g.retire ∧ (∀ q, q ≠ r → (s.retireGroup r).group? q = s.group? q) ∧
    sameMemory s (s.retireGroup r) := by
  unfold State.retireGroup
  cases ht : s.team? r.team with
  | none => rw [State.group?, ht] at h; cases h
  | some t =>
    simp only
    generalize hu : (s.leaveTrapSlot t.coreN (t.partOf r.grp) r).dropLocks r = u
    have hg : ∀ q, u.group? q = s.group? q := by subst hu; exact fun q => State.group?_of_teams rfl q
    have hm : sameMemory s u := by subst hu; exact ⟨rfl, rfl, rfl, rfl⟩
    exact ⟨by rw [State.group?_ended, State.group?_updGroup, if_pos rfl, hg, h, Option.map_some],
      fun q hq => by rw [State.group?_ended, State.group?_updGroup, if_neg hq, hg], hm⟩

/-! ### Storing a stack (R136) -/

theorem State.writeBytes_eq (s : State) (c : Option Nat) (ps : List Nat) (bs : List Byte) :
    ∃ m l o p k, s.writeBytes c ps bs = { s with mem := m, l1 := l, wordOwner := o, partials := p, stk := k } ∧
      (s.mem.wf = true → m.wf = true) := by
  induction ps generalizing s bs with
  | nil => exact ⟨s.mem, s.l1, s.wordOwner, s.partials, s.stk, rfl, id⟩
  | cons a ps ih =>
    cases bs with
    | nil => exact ⟨s.mem, s.l1, s.wordOwner, s.partials, s.stk, rfl, id⟩
    | cons b bs =>
      obtain ⟨m, l, o, p, k, h, hm⟩ := s.performWrite_eq c false a [b]
      obtain ⟨m', l', o', p', k', h', hm'⟩ := ih (s.performWrite c false a [b]) bs
      refine ⟨m', l', o', p', k', by rw [State.writeBytes, h', h], fun hs => hm' ?_⟩
      rw [h]
      exact hm hs

theorem State.spillAll_eq (s u : State) (c : Ctx) (t : Team) (n : Nat) (es : List (Nat × DivEntry)) (h : s.spillAll c t n es = .ok u) :
    ∃ m l o p k b, u = { s with mem := m, l1 := l, wordOwner := o, partials := p, stk := k, tlb := b } ∧ (s.mem.wf = true → m.wf = true) := by
  induction es generalizing s with
  | nil => cases h; exact ⟨_, _, _, _, _, _, rfl, id⟩
  | cons e es ih =>
    obtain ⟨i, e⟩ := e
    unfold State.spillAll State.spillWrite at h
    split at h
    · rename_i s' hs
      split at hs
      · split at hs
        · cases hs
        · cases hs
          rename_i ps fs _ _
          obtain ⟨m, l, o, p, k, hw, hm⟩ := State.writeBytes_eq (s.addTlb fs) t.core ps e.bytes
          obtain ⟨m', l', o', p', k', b', h', hm'⟩ := ih _ h
          rw [hw] at h' hm'
          exact ⟨_, _, _, _, _, _, h', fun hs => hm' (hm hs)⟩
      · cases hs
      · cases hs
    · cases h

/-- Reading a range changes at most the TLBs and the lines of the capacity-tier cache. -/
theorem State.passRead_eq (s : State) (core : Option Nat) (ctx world va : Nat) (acc : Acc) (n : Nat) :
    ∃ k b, s.passRead core ctx world va acc n = { s with stk := k, tlb := b } := by
  unfold State.passRead
  split
  · exact ⟨_, _, rfl⟩
  · exact ⟨_, _, rfl⟩

theorem State.passReads_eq (s : State) (core : Option Nat) (ctx world : Nat) (va : Nat → Nat) (acc : Acc) (n : Nat) (ns : List Nat) :
    ∃ k b, ns.foldl (fun s i => s.passRead core ctx world (va i) acc n) s = { s with stk := k, tlb := b } := by
  induction ns generalizing s with
  | nil => exact ⟨_, _, rfl⟩
  | cons i ns ih =>
    obtain ⟨k, b, h⟩ := s.passRead_eq core ctx world (va i) acc n
    obtain ⟨k', b', h'⟩ := ih (s.passRead core ctx world (va i) acc n)
    rw [h] at h'
    exact ⟨k', b', by rw [List.foldl_cons, h]; exact h'⟩

/-- Storing a stack changes the group's stack alone, and of the machine at most memory and what stands between it and the core; a
stack that is held in the sequencer changes nothing of the machine. -/
theorem State.storeStack_eq (s u : State) (t : Team) (n : Nat) (g h : Group) (st : List DivEntry) (hs : s.storeStack t n g st = .ok (u, h)) :
    (∃ m l o p k b, u = { s with mem := m, l1 := l, wordOwner := o, partials := p, stk := k, tlb := b } ∧ (s.mem.wf = true → m.wf = true)) ∧
    (∃ top d, h = { g with divTop := top, divSpilled := d }) ∧ (g.divSpilled = 0 → st.length ≤ 16 → u = s) := by
  unfold State.storeStack at hs
  split at hs
  · cases hs
    exact ⟨⟨_, _, _, _, _, _, rfl, id⟩, ⟨_, _, rfl⟩, fun _ _ => rfl⟩
  · rename_i hno
    split at hs
    · cases hs
      exact ⟨⟨_, _, _, _, _, _, rfl, id⟩, ⟨_, _, rfl⟩, fun _ _ => rfl⟩
    · rename_i c _
      simp only at hs
      split at hs
      · cases hs
      · split at hs
        · cases hs
        · rename_i u' hu
          cases hs
          obtain ⟨m, l, o, p, k, b, hw, hm⟩ := State.spillAll_eq _ _ _ _ _ _ hu
          obtain ⟨k', b', hr⟩ := s.passReads_eq t.core t.ctx c.world (fun i => spillEntryVa c t n i) .read 20
            ((List.range g.divSpilled).filter fun i => (st.drop 16).reverse.length ≤ i && i < st.length)
          rw [hr] at hw hm
          exact ⟨⟨m, l, o, p, k, b, hw, hm⟩, ⟨_, _, rfl⟩, fun h1 h2 => absurd ⟨h2, h1⟩ hno⟩

theorem settlePath_length (st : List DivEntry) (pc : DWord) (m : Mask) (r : List DivEntry × DWord × Mask)
    (h : settlePath st pc m = some r) : r.1.length ≤ st.length := by
  induction st generalizing pc m with
  | nil =>
    unfold settlePath at h
    split at h
    · cases h
    · cases h; exact Nat.le_refl _
  | cons e st ih =>
    unfold settlePath at h
    split at h
    · exact Nat.le_succ_of_le (ih _ _ h)
    · cases h; exact Nat.le_refl _

/-- What settling a group can change (R137): its own group, never its scalar registers below s60, its vector and predicate registers,
flags and special registers; no other group; of memory only its spill stack, and nothing while the stack is held in the sequencer. -/
theorem State.settle_frame (s : State) (r : GRef) (t : Team) (g g0 : Group) (h0 : s.group? r = some g0) :
    (∃ h, (s.settle r t g).group? r = some h ∧ sameS g h [] ∧ h.vreg = g.vreg ∧ h.preg = g.preg ∧ sameSpecial g h) ∧
    (∀ q, q ≠ r → (s.settle r t g).group? q = s.group? q) ∧ (s.settle r t g).spad = s.spad ∧ (s.settle r t g).tmem = s.tmem ∧
    (s.settle r t g).comp = s.comp ∧ (stackHeld g → (s.settle r t g).mem = s.mem) := by
  have refl : sameS g g [] ∧ g.vreg = g.vreg ∧ g.preg = g.preg ∧ sameSpecial g g :=
    ⟨fun _ _ _ => rfl, rfl, rfl, rfl, rfl, rfl, rfl, rfl, rfl, rfl, rfl, rfl, fun _ => rfl, rfl, rfl⟩
  unfold State.settle
  simp only
  split
  · exact ⟨⟨g, State.group?_putGroup_same _ _ _ _ h0, refl⟩, fun q hq => State.group?_putGroup_other _ _ _ _ hq, rfl, rfl, rfl,
      fun _ => rfl⟩
  · split
    · rename_i hp
      generalize hg' : ({ g with lastHdr := if g.clause.isSome = true then g.pc else g.lastHdr } : Group) = g'
      obtain ⟨h1, ho, hm⟩ := State.retireGroup_frame (s.putGroup r g') r g' (State.group?_putGroup_same _ _ _ _ h0)
      obtain ⟨-, h2, h3, h4, h5⟩ := g'.retire_frame
      refine ⟨⟨_, h1, ?_, ?_, ?_, ?_⟩, fun q hq => ?_, hm.2.1, hm.2.2.1, hm.2.2.2, fun _ => hm.1⟩
      · subst hg'; exact h2
      · subst hg'; exact h3
      · subst hg'; exact h4
      · subst hg'; exact h5
      · rw [ho q hq, State.group?_putGroup_other _ _ _ _ hq]
    · rename_i st pc m hp
      split
      · rename_i u h hs
        obtain ⟨⟨m', l, o, p, k, b, hu, -⟩, ⟨top, d, hh⟩, hm⟩ := State.storeStack_eq _ _ _ _ _ _ _ hs
        have hg : ∀ q, u.group? q = s.group? q := by rw [hu]; exact fun q => State.group?_of_teams rfl q
        refine ⟨⟨_, State.group?_putGroup_same _ _ _ _ (by rw [hg]; exact h0), ?_, ?_, ?_, ?_⟩, fun q hq => ?_, ?_, ?_, ?_, fun hst => ?_⟩
        · subst hh
          intro k hk hn
          refine (Group.atBoundary_sreg' _ _ _).trans ?_
          exact (Group.s_of_sreg rfl k).trans ((Group.sameS_setMask { g with divTop := top, divSpilled := d } m k hk hn).trans
            (Group.s_of_sreg rfl k))
        · subst hh; simp
        · subst hh; simp
        · subst hh
          exact ⟨by simp, by simp, by simp, by simp, by simp, by simp, by simp, by simp, by simp, by simp, by simp, by simp⟩
        · rw [State.group?_putGroup_other _ _ _ _ hq, hg]
        · simp [hu]
        · simp [hu]
        · simp [hu]
        · have hl := settlePath_length _ _ _ _ hp
          have : s.stack t r.grp g = g.divTop := by
            unfold State.stack
            rw [hst.1]
            cases s.ctx? t.ctx <;> simp
          rw [this] at hl
          rw [State.putGroup_mem, hm hst.1 (Nat.le_trans hl hst.2)]
      · refine ⟨⟨_, (State.group?_suspend _ _ _ _ _).trans (State.group?_putGroup_same _ _ _ _ h0), ?_, rfl, rfl, ?_⟩, fun q hq => ?_, rfl, rfl, rfl,
          fun _ => rfl⟩
        · exact fun k _ _ => Group.s_of_sreg rfl k
        · exact refl.2.2.2
        · rw [State.group?_suspend, State.group?_putGroup_other _ _ _ _ hq]
      · rename_i c l va _
        generalize hf : ({ code := c, detail := accDetail c 0xFF l, slot := some 0xFF, addr := BitVec.ofNat 64 va, hdr := some pc } : FaultInfo) = f
        generalize hg' : ({ g with clause := none, lastHdr := if g.clause.isSome = true then g.pc else g.lastHdr } : Group) = g'
        obtain ⟨ht, hm⟩ := State.fatal_frame (s.putGroup r g') r f
        have hg := State.group?_of_teams ht
        refine ⟨⟨g', by rw [hg]; exact State.group?_putGroup_same _ _ _ _ h0, ?_, ?_, ?_, ?_⟩, fun q hq => ?_, hm.2.1, hm.2.2.1, hm.2.2.2,
          fun _ => hm.1⟩
        · subst hg'; exact fun k _ _ => Group.s_of_sreg rfl k
        · subst hg'; rfl
        · subst hg'; rfl
        · subst hg'; exact refl.2.2.2
        · rw [hg, State.group?_putGroup_other _ _ _ _ hq]

end Sys2Proof.Machine
end

