-- ==== Sys2Proof/Laws/PerInstr.lean ====
section
/-! SUPPORT. Laws stated of every instruction, one lemma per constructor. OpcodeMap (03_encoding.md R84, R85): the constructor that the
opcode map names for the fields of an instruction, when SUB, TYPE, MOD and LEN are among those its row allows, is the instruction's own. -/
namespace Sys2Proof.Laws
open Sys2Proof Sys2Proof.Machine

/-- The opcode map names the instruction back. -/
def OpcodeMap.Statement (i : Instr) : Prop :=
  ∀ op al f, brRow i = some (op, al, f) → al.subs.contains f.sub.toNat = true → (f.tail.isExt = true → al.ext = true) →
    (f.tail.isExt = false → al.base = true) → tyOk al f = true → f.mod.toNat ≤ al.modMax → al.ok1 = true →
    brCtor op.toNat f = some i

/-- An instruction whose words are in another format, or an event: the map has no row for it. -/
theorem OpcodeMap.noRow {i : Instr} (h : brRow i = none) : OpcodeMap.Statement i := fun _ _ _ h' => by rw [h] at h'; cases h'

/-- A row of an opcode that is one instruction's alone. -/
theorem OpcodeMap.ofRow {i : Instr} {op : BitVec 7} {al : Allow} {f : FmtBR} (h : brRow i = some (op, al, f))
    (h' : al.subs.contains f.sub.toNat = true → (f.tail.isExt = true → al.ext = true) → (f.tail.isExt = false → al.base = true) →
      tyOk al f = true → f.mod.toNat ≤ al.modMax → al.ok1 = true → brCtor op.toNat f = some i) : OpcodeMap.Statement i := by
  intro op' al' f' e
  rw [h] at e
  cases e
  exact h'

theorem OpcodeMap.nop (z : BitVec 23) : OpcodeMap.Statement (.nop z) := OpcodeMap.noRow rfl
theorem OpcodeMap.clause (f : FmtBC) : OpcodeMap.Statement (.clause f) := OpcodeMap.noRow rfl
theorem OpcodeMap.bra (f : FmtBra) : OpcodeMap.Statement (.bra f) := OpcodeMap.noRow rfl
theorem OpcodeMap.braX (f : FmtBra) (w1 : Word1) (w2 : Word2) : OpcodeMap.Statement (.braX f w1 w2) := OpcodeMap.noRow rfl
theorem OpcodeMap.jmp (off : BitVec 23) : OpcodeMap.Statement (.jmp off) := OpcodeMap.noRow rfl
theorem OpcodeMap.call (off : BitVec 23) : OpcodeMap.Statement (.call off) := OpcodeMap.noRow rfl
theorem OpcodeMap.ret (z : BitVec 23) : OpcodeMap.Statement (.ret z) := OpcodeMap.noRow rfl
theorem OpcodeMap.brx (f : FmtBR) : OpcodeMap.Statement (.brx f) := OpcodeMap.ofRow rfl fun _ _ _ _ _ _ => rfl
theorem OpcodeMap.yield (z : BitVec 23) : OpcodeMap.Statement (.yield z) := OpcodeMap.noRow rfl
theorem OpcodeMap.exit (f : FmtBR) : OpcodeMap.Statement (.exit f) := OpcodeMap.ofRow rfl fun _ e b _ _ _ => by
  cases h : f.tail.isExt
  · show (if f.tail.isExt then some (Instr.exitS f) else some (.exit f)) = _
    rw [h]; rfl
  · exact absurd (e h) Bool.false_ne_true
theorem OpcodeMap.exitS (f : FmtBR) : OpcodeMap.Statement (.exitS f) := OpcodeMap.ofRow rfl fun _ e b _ _ _ => by
  cases h : f.tail.isExt
  · exact absurd (b h) (by decide)
  · show (if f.tail.isExt then some (Instr.exitS f) else some (.exit f)) = _
    rw [h]; rfl
theorem OpcodeMap.waitf (f : FmtBW) : OpcodeMap.Statement (.waitf f) := OpcodeMap.noRow rfl
theorem OpcodeMap.trap (f : FmtBI) : OpcodeMap.Statement (.trap f) := OpcodeMap.noRow rfl
theorem OpcodeMap.tret (z : BitVec 23) : OpcodeMap.Statement (.tret z) := OpcodeMap.noRow rfl
theorem OpcodeMap.bkpt (f : FmtBI) : OpcodeMap.Statement (.bkpt f) := OpcodeMap.noRow rfl
theorem OpcodeMap.srd (f : FmtBS) : OpcodeMap.Statement (.srd f) := OpcodeMap.noRow rfl
theorem OpcodeMap.swr (f : FmtBS) : OpcodeMap.Statement (.swr f) := OpcodeMap.noRow rfl
theorem OpcodeMap.sleep (f : FmtBI) : OpcodeMap.Statement (.sleep f) := OpcodeMap.noRow rfl
theorem OpcodeMap.sleepExpiry (r : GRef) : OpcodeMap.Statement (.sleepExpiry r) := OpcodeMap.noRow rfl
theorem OpcodeMap.sadd (f : FmtBR) : OpcodeMap.Statement (.sadd f) := OpcodeMap.ofRow rfl fun _ _ _ _ _ _ => rfl
theorem OpcodeMap.ssub (f : FmtBR) : OpcodeMap.Statement (.ssub f) := OpcodeMap.ofRow rfl fun _ _ _ _ _ _ => rfl
theorem OpcodeMap.smul (f : FmtBR) : OpcodeMap.Statement (.smul f) := OpcodeMap.ofRow rfl fun _ _ _ _ _ _ => rfl
theorem OpcodeMap.smulh (f : FmtBR) : OpcodeMap.Statement (.smulh f) := OpcodeMap.ofRow rfl fun _ _ _ _ _ _ => rfl
theorem OpcodeMap.sand (f : FmtBR) : OpcodeMap.Statement (.sand f) := OpcodeMap.ofRow rfl fun _ _ _ _ _ _ => rfl
theorem OpcodeMap.sor (f : FmtBR) : OpcodeMap.Statement (.sor f) := OpcodeMap.ofRow rfl fun _ _ _ _ _ _ => rfl
theorem OpcodeMap.sxor (f : FmtBR) : OpcodeMap.Statement (.sxor f) := OpcodeMap.ofRow rfl fun _ _ _ _ _ _ => rfl
theorem OpcodeMap.sandn (f : FmtBR) : OpcodeMap.Statement (.sandn f) := OpcodeMap.ofRow rfl fun _ _ _ _ _ _ => rfl
theorem OpcodeMap.sshl (f : FmtBR) : OpcodeMap.Statement (.sshl f) := OpcodeMap.ofRow rfl fun _ _ _ _ _ _ => rfl
theorem OpcodeMap.sshr (f : FmtBR) : OpcodeMap.Statement (.sshr f) := OpcodeMap.ofRow rfl fun _ _ _ _ _ _ => rfl
theorem OpcodeMap.ssra (f : FmtBR) : OpcodeMap.Statement (.ssra f) := OpcodeMap.ofRow rfl fun _ _ _ _ _ _ => rfl
theorem OpcodeMap.smin (f : FmtBR) : OpcodeMap.Statement (.smin f) := OpcodeMap.ofRow rfl fun _ _ _ _ _ _ => rfl
theorem OpcodeMap.smax (f : FmtBR) : OpcodeMap.Statement (.smax f) := OpcodeMap.ofRow rfl fun _ _ _ _ _ _ => rfl
theorem OpcodeMap.scmp (f : FmtBR) : OpcodeMap.Statement (.scmp f) := OpcodeMap.ofRow rfl fun _ _ _ _ _ _ => rfl
theorem OpcodeMap.ssel (f : FmtBR) : OpcodeMap.Statement (.ssel f) := OpcodeMap.ofRow rfl fun _ _ _ _ _ _ => rfl
theorem OpcodeMap.smov (f : FmtBR) : OpcodeMap.Statement (.smov f) := OpcodeMap.ofRow rfl fun _ _ _ _ _ _ => rfl
theorem OpcodeMap.spopc (f : FmtBR) : OpcodeMap.Statement (.spopc f) := OpcodeMap.ofRow rfl fun _ _ _ _ _ _ => rfl
theorem OpcodeMap.sclz (f : FmtBR) : OpcodeMap.Statement (.sclz f) := OpcodeMap.ofRow rfl fun _ _ _ _ _ _ => rfl
theorem OpcodeMap.sbfe (f : FmtBR) : OpcodeMap.Statement (.sbfe f) := OpcodeMap.ofRow rfl fun _ _ _ _ _ _ => rfl
theorem OpcodeMap.sbfi (f : FmtBR) : OpcodeMap.Statement (.sbfi f) := OpcodeMap.ofRow rfl fun _ _ _ _ _ _ => rfl
theorem OpcodeMap.sdiv (f : FmtBR) : OpcodeMap.Statement (.sdiv f) := OpcodeMap.ofRow rfl fun _ _ _ _ _ _ => rfl
theorem OpcodeMap.srem (f : FmtBR) : OpcodeMap.Statement (.srem f) := OpcodeMap.ofRow rfl fun _ _ _ _ _ _ => rfl
theorem OpcodeMap.saddr (f : FmtBR) : OpcodeMap.Statement (.saddr f) := OpcodeMap.ofRow rfl fun _ _ _ _ _ _ => rfl
theorem OpcodeMap.pand (f : FmtBR) : OpcodeMap.Statement (.pand f) := OpcodeMap.ofRow rfl fun s _ _ _ _ _ => by
  have h : f.sub.toNat = 0 := by simpa using s
  show ctorPred f f.sub.toNat = _
  rw [h]
  rfl
theorem OpcodeMap.por (f : FmtBR) : OpcodeMap.Statement (.por f) := OpcodeMap.ofRow rfl fun s _ _ _ _ _ => by
  have h : f.sub.toNat = 1 := by simpa using s
  show ctorPred f f.sub.toNat = _
  rw [h]
  rfl
theorem OpcodeMap.pxor (f : FmtBR) : OpcodeMap.Statement (.pxor f) := OpcodeMap.ofRow rfl fun s _ _ _ _ _ => by
  have h : f.sub.toNat = 2 := by simpa using s
  show ctorPred f f.sub.toNat = _
  rw [h]
  rfl
theorem OpcodeMap.pandn (f : FmtBR) : OpcodeMap.Statement (.pandn f) := OpcodeMap.ofRow rfl fun s _ _ _ _ _ => by
  have h : f.sub.toNat = 3 := by simpa using s
  show ctorPred f f.sub.toNat = _
  rw [h]
  rfl
theorem OpcodeMap.pnot (f : FmtBR) : OpcodeMap.Statement (.pnot f) := OpcodeMap.ofRow rfl fun s _ _ _ _ _ => by
  have h : f.sub.toNat = 4 := by simpa using s
  show ctorPred f f.sub.toNat = _
  rw [h]
  rfl
theorem OpcodeMap.pmovToScalar (f : FmtBR) : OpcodeMap.Statement (.pmovToScalar f) := OpcodeMap.ofRow rfl fun s _ _ _ _ _ => by
  have h : f.sub.toNat = 0 := by simpa using s
  show ctorPmov f f.sub.toNat = _
  rw [h]
  rfl
theorem OpcodeMap.pmovToPredicate (f : FmtBR) : OpcodeMap.Statement (.pmovToPredicate f) := OpcodeMap.ofRow rfl fun s _ _ _ _ _ => by
  have h : f.sub.toNat = 1 := by simpa using s
  show ctorPmov f f.sub.toNat = _
  rw [h]
  rfl
theorem OpcodeMap.ballot (f : FmtBR) : OpcodeMap.Statement (.ballot f) := OpcodeMap.ofRow rfl fun _ _ _ _ _ _ => rfl
theorem OpcodeMap.ppopc (f : FmtBR) : OpcodeMap.Statement (.ppopc f) := OpcodeMap.ofRow rfl fun _ _ _ _ _ _ => rfl
theorem OpcodeMap.pfirst (f : FmtBR) : OpcodeMap.Statement (.pfirst f) := OpcodeMap.ofRow rfl fun _ _ _ _ _ _ => rfl
theorem OpcodeMap.ptest (f : FmtBR) : OpcodeMap.Statement (.ptest f) := OpcodeMap.ofRow rfl fun _ _ _ _ _ _ => rfl
theorem OpcodeMap.vadd (f : FmtBR) : OpcodeMap.Statement (.vadd f) := OpcodeMap.ofRow rfl fun _ _ _ _ _ _ => rfl
theorem OpcodeMap.vsub (f : FmtBR) : OpcodeMap.Statement (.vsub f) := OpcodeMap.ofRow rfl fun _ _ _ _ _ _ => rfl
theorem OpcodeMap.vmul (f : FmtBR) : OpcodeMap.Statement (.vmul f) := OpcodeMap.ofRow rfl fun _ _ _ _ _ _ => rfl
theorem OpcodeMap.vmulh (f : FmtBR) : OpcodeMap.Statement (.vmulh f) := OpcodeMap.ofRow rfl fun _ _ _ _ _ _ => rfl
theorem OpcodeMap.vmad (f : FmtBR) : OpcodeMap.Statement (.vmad f) := OpcodeMap.ofRow rfl fun _ _ _ _ _ _ => rfl
theorem OpcodeMap.vand (f : FmtBR) : OpcodeMap.Statement (.vand f) := OpcodeMap.ofRow rfl fun _ _ _ _ _ _ => rfl
theorem OpcodeMap.vor (f : FmtBR) : OpcodeMap.Statement (.vor f) := OpcodeMap.ofRow rfl fun _ _ _ _ _ _ => rfl
theorem OpcodeMap.vxor (f : FmtBR) : OpcodeMap.Statement (.vxor f) := OpcodeMap.ofRow rfl fun _ _ _ _ _ _ => rfl
theorem OpcodeMap.vandn (f : FmtBR) : OpcodeMap.Statement (.vandn f) := OpcodeMap.ofRow rfl fun _ _ _ _ _ _ => rfl
theorem OpcodeMap.vshl (f : FmtBR) : OpcodeMap.Statement (.vshl f) := OpcodeMap.ofRow rfl fun _ _ _ _ _ _ => rfl
theorem OpcodeMap.vshr (f : FmtBR) : OpcodeMap.Statement (.vshr f) := OpcodeMap.ofRow rfl fun _ _ _ _ _ _ => rfl
theorem OpcodeMap.vsra (f : FmtBR) : OpcodeMap.Statement (.vsra f) := OpcodeMap.ofRow rfl fun _ _ _ _ _ _ => rfl
theorem OpcodeMap.vmin (f : FmtBR) : OpcodeMap.Statement (.vmin f) := OpcodeMap.ofRow rfl fun _ _ _ _ _ _ => rfl
theorem OpcodeMap.vmax (f : FmtBR) : OpcodeMap.Statement (.vmax f) := OpcodeMap.ofRow rfl fun _ _ _ _ _ _ => rfl
theorem OpcodeMap.vabs (f : FmtBR) : OpcodeMap.Statement (.vabs f) := OpcodeMap.ofRow rfl fun _ _ _ _ _ _ => rfl
theorem OpcodeMap.vneg (f : FmtBR) : OpcodeMap.Statement (.vneg f) := OpcodeMap.ofRow rfl fun _ _ _ _ _ _ => rfl
theorem OpcodeMap.vcmp (f : FmtBR) : OpcodeMap.Statement (.vcmp f) := OpcodeMap.ofRow rfl fun _ _ _ _ _ _ => rfl
theorem OpcodeMap.vsel (f : FmtBR) : OpcodeMap.Statement (.vsel f) := OpcodeMap.ofRow rfl fun _ _ _ _ _ _ => rfl
theorem OpcodeMap.vmov (f : FmtBR) : OpcodeMap.Statement (.vmov f) := OpcodeMap.ofRow rfl fun _ _ _ _ _ _ => rfl
theorem OpcodeMap.vpopc (f : FmtBR) : OpcodeMap.Statement (.vpopc f) := OpcodeMap.ofRow rfl fun _ _ _ _ _ _ => rfl
theorem OpcodeMap.vclz (f : FmtBR) : OpcodeMap.Statement (.vclz f) := OpcodeMap.ofRow rfl fun _ _ _ _ _ _ => rfl
theorem OpcodeMap.vhash (f : FmtBR) : OpcodeMap.Statement (.vhash f) := OpcodeMap.ofRow rfl fun _ _ _ _ _ _ => rfl
theorem OpcodeMap.vbfe (f : FmtBR) : OpcodeMap.Statement (.vbfe f) := OpcodeMap.ofRow rfl fun _ _ _ _ _ _ => rfl
theorem OpcodeMap.vbfi (f : FmtBR) : OpcodeMap.Statement (.vbfi f) := OpcodeMap.ofRow rfl fun _ _ _ _ _ _ => rfl
theorem OpcodeMap.vfadd (f : FmtBR) : OpcodeMap.Statement (.vfadd f) := OpcodeMap.ofRow rfl fun _ _ _ _ _ _ => rfl
theorem OpcodeMap.vfsub (f : FmtBR) : OpcodeMap.Statement (.vfsub f) := OpcodeMap.ofRow rfl fun _ _ _ _ _ _ => rfl
theorem OpcodeMap.vfmul (f : FmtBR) : OpcodeMap.Statement (.vfmul f) := OpcodeMap.ofRow rfl fun _ _ _ _ _ _ => rfl
theorem OpcodeMap.vfma (f : FmtBR) : OpcodeMap.Statement (.vfma f) := OpcodeMap.ofRow rfl fun _ _ _ _ _ _ => rfl
theorem OpcodeMap.vfdot2 (f : FmtBR) : OpcodeMap.Statement (.vfdot2 f) := OpcodeMap.ofRow rfl fun _ _ _ _ _ _ => rfl
theorem OpcodeMap.vfmin (f : FmtBR) : OpcodeMap.Statement (.vfmin f) := OpcodeMap.ofRow rfl fun _ _ _ _ _ _ => rfl
theorem OpcodeMap.vfmax (f : FmtBR) : OpcodeMap.Statement (.vfmax f) := OpcodeMap.ofRow rfl fun _ _ _ _ _ _ => rfl
theorem OpcodeMap.vfcmp (f : FmtBR) : OpcodeMap.Statement (.vfcmp f) := OpcodeMap.ofRow rfl fun _ _ _ _ _ _ => rfl
theorem OpcodeMap.vfclass (f : FmtBR) : OpcodeMap.Statement (.vfclass f) := OpcodeMap.ofRow rfl fun _ _ _ _ _ _ => rfl
theorem OpcodeMap.vfrcp (f : FmtBR) : OpcodeMap.Statement (.vfrcp f) := OpcodeMap.ofRow rfl fun _ _ _ _ _ _ => rfl
theorem OpcodeMap.vfrsq (f : FmtBR) : OpcodeMap.Statement (.vfrsq f) := OpcodeMap.ofRow rfl fun _ _ _ _ _ _ => rfl
theorem OpcodeMap.vfsqrt (f : FmtBR) : OpcodeMap.Statement (.vfsqrt f) := OpcodeMap.ofRow rfl fun _ _ _ _ _ _ => rfl
theorem OpcodeMap.vfexp2 (f : FmtBR) : OpcodeMap.Statement (.vfexp2 f) := OpcodeMap.ofRow rfl fun _ _ _ _ _ _ => rfl
theorem OpcodeMap.vflog2 (f : FmtBR) : OpcodeMap.Statement (.vflog2 f) := OpcodeMap.ofRow rfl fun _ _ _ _ _ _ => rfl
theorem OpcodeMap.vfsin (f : FmtBR) : OpcodeMap.Statement (.vfsin f) := OpcodeMap.ofRow rfl fun _ _ _ _ _ _ => rfl
theorem OpcodeMap.vfcos (f : FmtBR) : OpcodeMap.Statement (.vfcos f) := OpcodeMap.ofRow rfl fun _ _ _ _ _ _ => rfl
theorem OpcodeMap.vftanh (f : FmtBR) : OpcodeMap.Statement (.vftanh f) := OpcodeMap.ofRow rfl fun _ _ _ _ _ _ => rfl
theorem OpcodeMap.vfcvt (f : FmtBR) : OpcodeMap.Statement (.vfcvt f) := OpcodeMap.ofRow rfl fun _ _ _ _ _ _ => rfl
theorem OpcodeMap.vicvt (f : FmtBR) : OpcodeMap.Statement (.vicvt f) := OpcodeMap.ofRow rfl fun _ _ _ _ _ _ => rfl
theorem OpcodeMap.vfpack (f : FmtBR) : OpcodeMap.Statement (.vfpack f) := OpcodeMap.ofRow rfl fun _ _ _ _ _ _ => rfl
theorem OpcodeMap.vfrnd (f : FmtBR) : OpcodeMap.Statement (.vfrnd f) := OpcodeMap.ofRow rfl fun _ _ _ _ _ _ => rfl
theorem OpcodeMap.vfscale (f : FmtBR) : OpcodeMap.Statement (.vfscale f) := OpcodeMap.ofRow rfl fun _ _ _ _ _ _ => rfl
theorem OpcodeMap.vshuf (f : FmtBR) : OpcodeMap.Statement (.vshuf f) := OpcodeMap.ofRow rfl fun _ _ _ _ _ _ => rfl
theorem OpcodeMap.vbcast (f : FmtBR) : OpcodeMap.Statement (.vbcast f) := OpcodeMap.ofRow rfl fun _ _ _ _ _ _ => rfl
theorem OpcodeMap.vred (f : FmtBR) : OpcodeMap.Statement (.vred f) := OpcodeMap.ofRow rfl fun _ _ _ _ _ _ => rfl
theorem OpcodeMap.vscan (f : FmtBR) : OpcodeMap.Statement (.vscan f) := OpcodeMap.ofRow rfl fun _ _ _ _ _ _ => rfl
theorem OpcodeMap.vmatch (f : FmtBR) : OpcodeMap.Statement (.vmatch f) := OpcodeMap.ofRow rfl fun _ _ _ _ _ _ => rfl
theorem OpcodeMap.vcompact (f : FmtBR) : OpcodeMap.Statement (.vcompact f) := OpcodeMap.ofRow rfl fun _ _ _ _ _ _ => rfl
theorem OpcodeMap.vexpand (f : FmtBR) : OpcodeMap.Statement (.vexpand f) := OpcodeMap.ofRow rfl fun _ _ _ _ _ _ => rfl
theorem OpcodeMap.vrot (f : FmtBR) : OpcodeMap.Statement (.vrot f) := OpcodeMap.ofRow rfl fun _ _ _ _ _ _ => rfl
theorem OpcodeMap.atload (f : FmtBR) : OpcodeMap.Statement (.atload f) := OpcodeMap.ofRow rfl fun _ _ _ _ _ _ => rfl
theorem OpcodeMap.ateval (f : FmtBR) : OpcodeMap.Statement (.ateval f) := OpcodeMap.ofRow rfl fun _ _ _ _ _ _ => rfl
theorem OpcodeMap.tableWriteStart (team : Nat) : OpcodeMap.Statement (.tableWriteStart team) := OpcodeMap.noRow rfl
theorem OpcodeMap.tableSwitch (team : Nat) : OpcodeMap.Statement (.tableSwitch team) := OpcodeMap.noRow rfl
theorem OpcodeMap.pair (f : FmtPair) : OpcodeMap.Statement (.pair f) := OpcodeMap.noRow rfl
theorem OpcodeMap.ld (f : FmtBR) : OpcodeMap.Statement (.ld f) := OpcodeMap.ofRow rfl fun _ _ _ _ _ _ => rfl
theorem OpcodeMap.st (f : FmtBR) : OpcodeMap.Statement (.st f) := OpcodeMap.ofRow rfl fun _ _ _ _ _ _ => rfl
theorem OpcodeMap.lds (f : FmtBI) : OpcodeMap.Statement (.lds f) := OpcodeMap.noRow rfl
theorem OpcodeMap.ldsExt (f : FmtBR) : OpcodeMap.Statement (.ldsExt f) := OpcodeMap.ofRow rfl fun _ _ _ _ _ _ => rfl
theorem OpcodeMap.sts (f : FmtBI) : OpcodeMap.Statement (.sts f) := OpcodeMap.noRow rfl
theorem OpcodeMap.stsExt (f : FmtBR) : OpcodeMap.Statement (.stsExt f) := OpcodeMap.ofRow rfl fun _ _ _ _ _ _ => rfl
theorem OpcodeMap.atom (f : FmtBR) : OpcodeMap.Statement (.atom f) := OpcodeMap.ofRow rfl fun _ _ _ _ _ _ => rfl
theorem OpcodeMap.red (f : FmtBR) : OpcodeMap.Statement (.red f) := OpcodeMap.ofRow rfl fun s _ _ _ _ _ => by
  have h : f.sub.toNat = 0 ∨ f.sub.toNat = 1 ∨ f.sub.toNat = 2 ∨ f.sub.toNat = 3 ∨ f.sub.toNat = 4 ∨ f.sub.toNat = 5 := by simpa using s
  show ctorRed f f.sub.toNat = _
  rcases h with h | h | h | h | h | h <;> (rw [h]; rfl)
theorem OpcodeMap.redFadd (f : FmtBR) : OpcodeMap.Statement (.redFadd f) := OpcodeMap.ofRow rfl fun s _ _ _ _ _ => by
  have h : f.sub.toNat = 8 ∨ f.sub.toNat = 9 := by simpa using s
  show ctorRed f f.sub.toNat = _
  rcases h with h | h <;> (rw [h]; rfl)
theorem OpcodeMap.fenceAcq (f : FmtBR) : OpcodeMap.Statement (.fenceAcq f) := OpcodeMap.ofRow rfl fun s _ _ _ _ _ => by
  have h : f.sub.toNat = 0 := by simpa using s
  show ctorFence f f.sub.toNat = _
  rw [h]
  rfl
theorem OpcodeMap.fenceRel (f : FmtBR) : OpcodeMap.Statement (.fenceRel f) := OpcodeMap.ofRow rfl fun s _ _ _ _ _ => by
  have h : f.sub.toNat = 1 := by simpa using s
  show ctorFence f f.sub.toNat = _
  rw [h]
  rfl
theorem OpcodeMap.fenceAr (f : FmtBR) : OpcodeMap.Statement (.fenceAr f) := OpcodeMap.ofRow rfl fun s _ _ _ _ _ => by
  have h : f.sub.toNat = 2 := by simpa using s
  show ctorFence f f.sub.toNat = _
  rw [h]
  rfl
theorem OpcodeMap.fenceCopy (f : FmtBR) : OpcodeMap.Statement (.fenceCopy f) := OpcodeMap.ofRow rfl fun s _ _ _ _ _ => by
  have h : f.sub.toNat = 3 := by simpa using s
  show ctorFence f f.sub.toNat = _
  rw [h]
  rfl
theorem OpcodeMap.fenceTier (f : FmtBR) : OpcodeMap.Statement (.fenceTier f) := OpcodeMap.ofRow rfl fun s _ _ _ _ _ => by
  have h : f.sub.toNat = 4 := by simpa using s
  show ctorFence f f.sub.toNat = _
  rw [h]
  rfl
theorem OpcodeMap.pref (f : FmtBR) : OpcodeMap.Statement (.pref f) := OpcodeMap.ofRow rfl fun _ _ _ _ _ _ => rfl
theorem OpcodeMap.barArrive (f : FmtBR) : OpcodeMap.Statement (.barArrive f) := OpcodeMap.ofRow rfl fun s _ _ _ _ _ => by
  have h : f.sub.toNat = 0 := by simpa using s
  show ctorBar f f.sub.toNat = _
  rw [h]
  rfl
theorem OpcodeMap.barWait (f : FmtBR) : OpcodeMap.Statement (.barWait f) := OpcodeMap.ofRow rfl fun s _ _ _ _ _ => by
  have h : f.sub.toNat = 1 := by simpa using s
  show ctorBar f f.sub.toNat = _
  rw [h]
  rfl
theorem OpcodeMap.barSync (f : FmtBR) : OpcodeMap.Statement (.barSync f) := OpcodeMap.ofRow rfl fun s _ _ _ _ _ => by
  have h : f.sub.toNat = 2 := by simpa using s
  show ctorBar f f.sub.toNat = _
  rw [h]
  rfl
theorem OpcodeMap.barDrop (f : FmtBR) : OpcodeMap.Statement (.barDrop f) := OpcodeMap.ofRow rfl fun s _ _ _ _ _ => by
  have h : f.sub.toNat = 3 := by simpa using s
  show ctorBar f f.sub.toNat = _
  rw [h]
  rfl
theorem OpcodeMap.barQuery (f : FmtBR) : OpcodeMap.Statement (.barQuery f) := OpcodeMap.ofRow rfl fun s _ _ _ _ _ => by
  have h : f.sub.toNat = 4 := by simpa using s
  show ctorBar f f.sub.toNat = _
  rw [h]
  rfl
theorem OpcodeMap.barrierPhaseComplete (bar : Nat) : OpcodeMap.Statement (.barrierPhaseComplete bar) := OpcodeMap.noRow rfl
theorem OpcodeMap.barrierSwapEligible (r : GRef) : OpcodeMap.Statement (.barrierSwapEligible r) := OpcodeMap.noRow rfl
theorem OpcodeMap.lookout (bar : Nat) : OpcodeMap.Statement (.lookout bar) := OpcodeMap.noRow rfl
theorem OpcodeMap.lockAcq (f : FmtBR) : OpcodeMap.Statement (.lockAcq f) := OpcodeMap.ofRow rfl fun s _ _ _ _ _ => by
  have h : f.sub.toNat = 0 := by simpa using s
  show ctorLock f f.sub.toNat = _
  rw [h]
  rfl
theorem OpcodeMap.lockTry (f : FmtBR) : OpcodeMap.Statement (.lockTry f) := OpcodeMap.ofRow rfl fun s _ _ _ _ _ => by
  have h : f.sub.toNat = 1 := by simpa using s
  show ctorLock f f.sub.toNat = _
  rw [h]
  rfl
theorem OpcodeMap.lockRel (f : FmtBR) : OpcodeMap.Statement (.lockRel f) := OpcodeMap.ofRow rfl fun s _ _ _ _ _ => by
  have h : f.sub.toNat = 2 := by simpa using s
  show ctorLock f f.sub.toNat = _
  rw [h]
  rfl
theorem OpcodeMap.lockGrant (lock : Nat) : OpcodeMap.Statement (.lockGrant lock) := OpcodeMap.noRow rfl
theorem OpcodeMap.ringReserve (f : FmtBR) : OpcodeMap.Statement (.ringReserve f) := OpcodeMap.ofRow rfl fun s _ _ _ _ _ => by
  have h : f.sub.toNat = 0 := by simpa using s
  show ctorRing f f.sub.toNat = _
  rw [h]
  rfl
theorem OpcodeMap.ringCommit (f : FmtBR) : OpcodeMap.Statement (.ringCommit f) := OpcodeMap.ofRow rfl fun s _ _ _ _ _ => by
  have h : f.sub.toNat = 1 := by simpa using s
  show ctorRing f f.sub.toNat = _
  rw [h]
  rfl
theorem OpcodeMap.ringWait (f : FmtBR) : OpcodeMap.Statement (.ringWait f) := OpcodeMap.ofRow rfl fun s _ _ _ _ _ => by
  have h : f.sub.toNat = 2 := by simpa using s
  show ctorRing f f.sub.toNat = _
  rw [h]
  rfl
theorem OpcodeMap.ringFree (f : FmtBR) : OpcodeMap.Statement (.ringFree f) := OpcodeMap.ofRow rfl fun s _ _ _ _ _ => by
  have h : f.sub.toNat = 3 := by simpa using s
  show ctorRing f f.sub.toNat = _
  rw [h]
  rfl
theorem OpcodeMap.ringQuery (f : FmtBR) : OpcodeMap.Statement (.ringQuery f) := OpcodeMap.ofRow rfl fun s _ _ _ _ _ => by
  have h : f.sub.toNat = 4 := by simpa using s
  show ctorRing f f.sub.toNat = _
  rw [h]
  rfl
theorem OpcodeMap.ringLogwait (f : FmtBR) : OpcodeMap.Statement (.ringLogwait f) := OpcodeMap.ofRow rfl fun s _ _ _ _ _ => by
  have h : f.sub.toNat = 5 := by simpa using s
  show ctorRing f f.sub.toNat = _
  rw [h]
  rfl
theorem OpcodeMap.ringLogpop (f : FmtBR) : OpcodeMap.Statement (.ringLogpop f) := OpcodeMap.ofRow rfl fun s _ _ _ _ _ => by
  have h : f.sub.toNat = 6 := by simpa using s
  show ctorRing f f.sub.toNat = _
  rw [h]
  rfl
theorem OpcodeMap.tcopy (f : FmtBR) : OpcodeMap.Statement (.tcopy f) := OpcodeMap.ofRow rfl fun s _ _ _ _ _ => by
  have h : f.sub.toNat = 0 := by simpa using s
  show ctorCopy f f.sub.toNat = _
  rw [h]
  rfl
theorem OpcodeMap.tcopyMc (f : FmtBR) : OpcodeMap.Statement (.tcopyMc f) := OpcodeMap.ofRow rfl fun s _ _ _ _ _ => by
  have h : f.sub.toNat = 1 := by simpa using s
  show ctorCopy f f.sub.toNat = _
  rw [h]
  rfl
theorem OpcodeMap.tcopyCh (f : FmtBR) : OpcodeMap.Statement (.tcopyCh f) := OpcodeMap.ofRow rfl fun s _ _ _ _ _ => by
  have h : f.sub.toNat = 2 := by simpa using s
  show ctorCopy f f.sub.toNat = _
  rw [h]
  rfl
theorem OpcodeMap.gthr (f : FmtBR) : OpcodeMap.Statement (.gthr f) := OpcodeMap.ofRow rfl fun s _ _ _ _ _ => by
  have h : f.sub.toNat = 3 := by simpa using s
  show ctorCopy f f.sub.toNat = _
  rw [h]
  rfl
theorem OpcodeMap.cquiesce (f : FmtBR) : OpcodeMap.Statement (.cquiesce f) := OpcodeMap.ofRow rfl fun s _ _ _ m o => by
  have h : f.sub.toNat = 4 := by simpa using s
  show ctorCopy f f.sub.toNat = _
  rw [h]
  have h0 : f.mod.getLsbD 0 = false := by
    have : f.mod = 0 := by bv_omega
    rw [this]; rfl
  show (if f.mod.getLsbD 0 then some (Instr.cquiesceSet f) else some (.cquiesce f)) = _
  rw [h0]; rfl
theorem OpcodeMap.cquiesceSet (f : FmtBR) : OpcodeMap.Statement (.cquiesceSet f) := OpcodeMap.ofRow rfl fun s _ _ _ m o => by
  have h : f.sub.toNat = 4 := by simpa using s
  show ctorCopy f f.sub.toNat = _
  rw [h]
  have h0 : f.mod.getLsbD 0 = true := o
  show (if f.mod.getLsbD 0 then some (Instr.cquiesceSet f) else some (.cquiesce f)) = _
  rw [h0]; rfl
theorem OpcodeMap.copyStart (team : Nat) : OpcodeMap.Statement (.copyStart team) := OpcodeMap.noRow rfl
theorem OpcodeMap.copyComplete (copy : Nat) : OpcodeMap.Statement (.copyComplete copy) := OpcodeMap.noRow rfl
theorem OpcodeMap.multicastDelivery (copy core : Nat) : OpcodeMap.Statement (.multicastDelivery copy core) := OpcodeMap.noRow rfl
theorem OpcodeMap.chainForward (copy : Nat) : OpcodeMap.Statement (.chainForward copy) := OpcodeMap.noRow rfl
theorem OpcodeMap.logbookRecordWrite (copy : Nat) : OpcodeMap.Statement (.logbookRecordWrite copy) := OpcodeMap.noRow rfl
theorem OpcodeMap.soundingTokenSend (team : Nat) : OpcodeMap.Statement (.soundingTokenSend team) := OpcodeMap.noRow rfl
theorem OpcodeMap.soundingTokenPass (token edge : Nat) : OpcodeMap.Statement (.soundingTokenPass token edge) := OpcodeMap.noRow rfl
theorem OpcodeMap.mma (f : FmtBR) : OpcodeMap.Statement (.mma f) := OpcodeMap.ofRow rfl fun s _ _ _ _ _ => by
  have h : f.sub.toNat = 0 := by simpa using s
  show ctorMma f f.sub.toNat = _
  rw [h]
  rfl
theorem OpcodeMap.mzero (f : FmtBR) : OpcodeMap.Statement (.mzero f) := OpcodeMap.ofRow rfl fun s _ _ _ _ _ => by
  have h : f.sub.toNat = 1 := by simpa using s
  show ctorMma f f.sub.toNat = _
  rw [h]
  rfl
theorem OpcodeMap.mdrain (f : FmtBR) : OpcodeMap.Statement (.mdrain f) := OpcodeMap.ofRow rfl fun s _ _ _ m o => by
  have h : f.sub.toNat = 2 := by simpa using s
  show ctorMma f f.sub.toNat = _
  rw [h]
  have h0 : f.mod.getLsbD 0 = false := by
    have : f.mod = 0 := by bv_omega
    rw [this]; rfl
  show (if f.mod.getLsbD 0 then some (Instr.mdrainRing f) else some (.mdrain f)) = _
  rw [h0]; rfl
theorem OpcodeMap.mdrainRing (f : FmtBR) : OpcodeMap.Statement (.mdrainRing f) := OpcodeMap.ofRow rfl fun s _ _ _ m o => by
  have h : f.sub.toNat = 2 := by simpa using s
  show ctorMma f f.sub.toNat = _
  rw [h]
  have h0 : f.mod.getLsbD 0 = true := o
  show (if f.mod.getLsbD 0 then some (Instr.mdrainRing f) else some (.mdrain f)) = _
  rw [h0]; rfl
theorem OpcodeMap.epibind (f : FmtBR) : OpcodeMap.Statement (.epibind f) := OpcodeMap.ofRow rfl fun s _ _ _ _ _ => by
  have h : f.sub.toNat = 3 := by simpa using s
  show ctorMma f f.sub.toNat = _
  rw [h]
  rfl
theorem OpcodeMap.mload (f : FmtBR) : OpcodeMap.Statement (.mload f) := OpcodeMap.ofRow rfl fun s _ _ _ _ _ => by
  have h : f.sub.toNat = 4 := by simpa using s
  show ctorMma f f.sub.toNat = _
  rw [h]
  rfl
theorem OpcodeMap.msync (f : FmtBR) : OpcodeMap.Statement (.msync f) := OpcodeMap.ofRow rfl fun s _ _ _ _ _ => by
  have h : f.sub.toNat = 5 := by simpa using s
  show ctorMma f f.sub.toNat = _
  rw [h]
  rfl
theorem OpcodeMap.passClose (pass : Nat) : OpcodeMap.Statement (.passClose pass) := OpcodeMap.noRow rfl
theorem OpcodeMap.passStart (pass : Nat) : OpcodeMap.Statement (.passStart pass) := OpcodeMap.noRow rfl
theorem OpcodeMap.tileOpTakeEffect (op : Nat) : OpcodeMap.Statement (.tileOpTakeEffect op) := OpcodeMap.noRow rfl
theorem OpcodeMap.drainStart (team : Nat) : OpcodeMap.Statement (.drainStart team) := OpcodeMap.noRow rfl
theorem OpcodeMap.drainComplete (team : Nat) : OpcodeMap.Statement (.drainComplete team) := OpcodeMap.noRow rfl
theorem OpcodeMap.voci (f : FmtBR) : OpcodeMap.Statement (.voci f) := OpcodeMap.ofRow rfl fun s _ _ _ m o => by
  have h : f.sub.toNat = 0 := by simpa using s
  show ctorVoc f f.sub.toNat = _
  rw [h]
  have h0 : f.mod.getLsbD 0 = false := by
    have : f.mod = 0 := by bv_omega
    rw [this]; rfl
  show (if f.mod.getLsbD 0 then some (Instr.vociSpill f) else some (.voci f)) = _
  rw [h0]; rfl
theorem OpcodeMap.vociSpill (f : FmtBR) : OpcodeMap.Statement (.vociSpill f) := OpcodeMap.ofRow rfl fun s _ _ _ m o => by
  have h : f.sub.toNat = 0 := by simpa using s
  show ctorVoc f f.sub.toNat = _
  rw [h]
  have h0 : f.mod.getLsbD 0 = true := o
  show (if f.mod.getLsbD 0 then some (Instr.vociSpill f) else some (.voci f)) = _
  rw [h0]; rfl
theorem OpcodeMap.vocf (f : FmtBR) : OpcodeMap.Statement (.vocf f) := OpcodeMap.ofRow rfl fun s _ _ _ _ _ => by
  have h : f.sub.toNat = 1 := by simpa using s
  show ctorVoc f f.sub.toNat = _
  rw [h]
  rfl
theorem OpcodeMap.vocb (f : FmtBR) : OpcodeMap.Statement (.vocb f) := OpcodeMap.ofRow rfl fun s _ _ _ _ _ => by
  have h : f.sub.toNat = 2 := by simpa using s
  show ctorVoc f f.sub.toNat = _
  rw [h]
  rfl
theorem OpcodeMap.vocm (f : FmtBR) : OpcodeMap.Statement (.vocm f) := OpcodeMap.ofRow rfl fun s _ _ _ _ _ => by
  have h : f.sub.toNat = 3 := by simpa using s
  show ctorVoc f f.sub.toNat = _
  rw [h]
  rfl
theorem OpcodeMap.vocr (f : FmtBR) : OpcodeMap.Statement (.vocr f) := OpcodeMap.ofRow rfl fun s _ _ _ _ _ => by
  have h : f.sub.toNat = 4 := by simpa using s
  show ctorVoc f f.sub.toNat = _
  rw [h]
  rfl
theorem OpcodeMap.put (f : FmtBR) : OpcodeMap.Statement (.put f) := OpcodeMap.ofRow rfl fun s _ _ _ _ _ => by
  have h : f.sub.toNat = 0 := by simpa using s
  show ctorFabric f f.sub.toNat = _
  rw [h]
  rfl
theorem OpcodeMap.putsig (f : FmtBR) : OpcodeMap.Statement (.putsig f) := OpcodeMap.ofRow rfl fun s _ _ _ _ _ => by
  have h : f.sub.toNat = 1 := by simpa using s
  show ctorFabric f f.sub.toNat = _
  rw [h]
  rfl
theorem OpcodeMap.get (f : FmtBR) : OpcodeMap.Statement (.get f) := OpcodeMap.ofRow rfl fun s _ _ _ _ _ => by
  have h : f.sub.toNat = 2 := by simpa using s
  show ctorFabric f f.sub.toNat = _
  rw [h]
  rfl
theorem OpcodeMap.radd (f : FmtBR) : OpcodeMap.Statement (.radd f) := OpcodeMap.ofRow rfl fun s _ b t _ _ => by
  have h : f.sub.toNat = 3 := by simpa using s
  show ctorFabric f f.sub.toNat = _
  rw [h]
  have e : f.tail.isExt = true := by
    cases h : f.tail.isExt
    · exact absurd (b h) Bool.false_ne_true
    · rfl
  have h0 : ¬ (f.ty = 6 ∨ f.ty = 8) := by
    simp [tyOk, e] at t
    bv_omega
  show (if f.ty = 6 ∨ f.ty = 8 then some (Instr.raddSequenced f) else some (.radd f)) = _
  rw [if_neg h0]
theorem OpcodeMap.raddSequenced (f : FmtBR) : OpcodeMap.Statement (.raddSequenced f) := OpcodeMap.ofRow rfl fun s _ b t _ _ => by
  have h : f.sub.toNat = 3 := by simpa using s
  show ctorFabric f f.sub.toNat = _
  rw [h]
  have e : f.tail.isExt = true := by
    cases h : f.tail.isExt
    · exact absurd (b h) Bool.false_ne_true
    · rfl
  have h0 : f.ty = 6 ∨ f.ty = 8 := by
    simp [tyOk, e] at t
    bv_omega
  show (if f.ty = 6 ∨ f.ty = 8 then some (Instr.raddSequenced f) else some (.radd f)) = _
  rw [if_pos h0]
theorem OpcodeMap.sigwait (f : FmtBR) : OpcodeMap.Statement (.sigwait f) := OpcodeMap.ofRow rfl fun s _ _ _ _ _ => by
  have h : f.sub.toNat = 4 := by simpa using s
  show ctorFabric f f.sub.toNat = _
  rw [h]
  rfl
theorem OpcodeMap.sigread (f : FmtBR) : OpcodeMap.Statement (.sigread f) := OpcodeMap.ofRow rfl fun s _ _ _ _ _ => by
  have h : f.sub.toNat = 5 := by simpa using s
  show ctorFabric f f.sub.toNat = _
  rw [h]
  rfl
theorem OpcodeMap.coll (f : FmtBR) : OpcodeMap.Statement (.coll f) := OpcodeMap.ofRow rfl fun s _ _ _ _ _ => by
  have h : f.sub.toNat = 6 := by simpa using s
  show ctorFabric f f.sub.toNat = _
  rw [h]
  rfl
theorem OpcodeMap.collwait (f : FmtBR) : OpcodeMap.Statement (.collwait f) := OpcodeMap.ofRow rfl fun s _ _ _ _ _ => by
  have h : f.sub.toNat = 7 := by simpa using s
  show ctorFabric f f.sub.toNat = _
  rw [h]
  rfl
theorem OpcodeMap.seal (f : FmtBR) : OpcodeMap.Statement (.seal f) := OpcodeMap.ofRow rfl fun s _ _ _ _ _ => by
  have h : f.sub.toNat = 8 := by simpa using s
  show ctorFabric f f.sub.toNat = _
  rw [h]
  rfl
theorem OpcodeMap.unseal (f : FmtBR) : OpcodeMap.Statement (.unseal f) := OpcodeMap.ofRow rfl fun s _ _ _ _ _ => by
  have h : f.sub.toNat = 9 := by simpa using s
  show ctorFabric f f.sub.toNat = _
  rw [h]
  rfl
theorem OpcodeMap.qspawn (f : FmtBR) : OpcodeMap.Statement (.qspawn f) := OpcodeMap.ofRow rfl fun s _ _ _ m o => by
  have h : f.sub.toNat = 16 := by simpa using s
  show ctorFabric f f.sub.toNat = _
  rw [h]
  have h0 : f.mod.getLsbD 0 = false := by
    have : f.mod = 0 := by bv_omega
    rw [this]; rfl
  show (if f.mod.getLsbD 0 then some (Instr.qspawnV f) else some (.qspawn f)) = _
  rw [h0]; rfl
theorem OpcodeMap.qspawnV (f : FmtBR) : OpcodeMap.Statement (.qspawnV f) := OpcodeMap.ofRow rfl fun s _ _ _ m o => by
  have h : f.sub.toNat = 16 := by simpa using s
  show ctorFabric f f.sub.toNat = _
  rw [h]
  have h0 : f.mod.getLsbD 0 = true := o
  show (if f.mod.getLsbD 0 then some (Instr.qspawnV f) else some (.qspawn f)) = _
  rw [h0]; rfl
theorem OpcodeMap.qsteal (f : FmtBR) : OpcodeMap.Statement (.qsteal f) := OpcodeMap.ofRow rfl fun s _ _ _ _ _ => by
  have h : f.sub.toNat = 17 := by simpa using s
  show ctorFabric f f.sub.toNat = _
  rw [h]
  rfl
theorem OpcodeMap.qtake (f : FmtBR) : OpcodeMap.Statement (.qtake f) := OpcodeMap.ofRow rfl fun s _ _ _ _ _ => by
  have h : f.sub.toNat = 18 := by simpa using s
  show ctorFabric f f.sub.toNat = _
  rw [h]
  rfl
theorem OpcodeMap.glaunch (f : FmtBR) : OpcodeMap.Statement (.glaunch f) := OpcodeMap.ofRow rfl fun s _ _ _ _ _ => by
  have h : f.sub.toNat = 19 := by simpa using s
  show ctorFabric f f.sub.toNat = _
  rw [h]
  rfl
theorem OpcodeMap.gjoin (f : FmtBR) : OpcodeMap.Statement (.gjoin f) := OpcodeMap.ofRow rfl fun s _ _ _ _ _ => by
  have h : f.sub.toNat = 20 := by simpa using s
  show ctorFabric f f.sub.toNat = _
  rw [h]
  rfl
theorem OpcodeMap.longLatencyCompletion (op : Nat) : OpcodeMap.Statement (.longLatencyCompletion op) := OpcodeMap.noRow rfl
theorem OpcodeMap.swap (core part : Nat) : OpcodeMap.Statement (.swap core part) := OpcodeMap.noRow rfl
theorem OpcodeMap.swapTransferDone (core part : Nat) : OpcodeMap.Statement (.swapTransferDone core part) := OpcodeMap.noRow rfl
theorem OpcodeMap.promotion (core part : Nat) : OpcodeMap.Statement (.promotion core part) := OpcodeMap.noRow rfl
theorem OpcodeMap.trapSlotGrant (core part : Nat) : OpcodeMap.Statement (.trapSlotGrant core part) := OpcodeMap.noRow rfl
theorem OpcodeMap.contextEnd (ctx : Nat) : OpcodeMap.Statement (.contextEnd ctx) := OpcodeMap.noRow rfl
theorem OpcodeMap.machineCheck (core part : Nat) (ctx : Option Nat) : OpcodeMap.Statement (.machineCheck core part ctx) := OpcodeMap.noRow rfl
theorem OpcodeMap.debugHalt (v : DWord) : OpcodeMap.Statement (.debugHalt v) := OpcodeMap.noRow rfl
theorem OpcodeMap.debugHaltComplete : OpcodeMap.Statement (.debugHaltComplete) := OpcodeMap.noRow rfl
theorem OpcodeMap.debugResume (v : DWord) : OpcodeMap.Statement (.debugResume v) := OpcodeMap.noRow rfl
theorem OpcodeMap.teamSuspend (team : Nat) : OpcodeMap.Statement (.teamSuspend team) := OpcodeMap.noRow rfl
theorem OpcodeMap.pageRequestPost : OpcodeMap.Statement (.pageRequestPost) := OpcodeMap.noRow rfl
theorem OpcodeMap.pfresp (v : DWord) : OpcodeMap.Statement (.pfresp v) := OpcodeMap.noRow rfl
theorem OpcodeMap.teamRestore (team : Nat) (site : Site) : OpcodeMap.Statement (.teamRestore team site) := OpcodeMap.noRow rfl
theorem OpcodeMap.tlbInvalidate (v : DWord) : OpcodeMap.Statement (.tlbInvalidate v) := OpcodeMap.noRow rfl
theorem OpcodeMap.tlbInvalidateDone : OpcodeMap.Statement (.tlbInvalidateDone) := OpcodeMap.noRow rfl
theorem OpcodeMap.remoteResend (msg : Nat) : OpcodeMap.Statement (.remoteResend msg) := OpcodeMap.noRow rfl
theorem OpcodeMap.contributionArrival (contrib : Nat) : OpcodeMap.Statement (.contributionArrival contrib) := OpcodeMap.noRow rfl
theorem OpcodeMap.reorderEntryFree (contrib : Nat) : OpcodeMap.Statement (.reorderEntryFree contrib) := OpcodeMap.noRow rfl
theorem OpcodeMap.redStall (ctx unit : Nat) : OpcodeMap.Statement (.redStall ctx unit) := OpcodeMap.noRow rfl
theorem OpcodeMap.fabricMessageArrival (msg : Nat) : OpcodeMap.Statement (.fabricMessageArrival msg) := OpcodeMap.noRow rfl
theorem OpcodeMap.messageAck (msg : Nat) : OpcodeMap.Statement (.messageAck msg) := OpcodeMap.noRow rfl
theorem OpcodeMap.retransmitTimeout (msg : Nat) : OpcodeMap.Statement (.retransmitTimeout msg) := OpcodeMap.noRow rfl
theorem OpcodeMap.ackLimit (msg : Nat) : OpcodeMap.Statement (.ackLimit msg) := OpcodeMap.noRow rfl
theorem OpcodeMap.signalIncrement (op : Nat) : OpcodeMap.Statement (.signalIncrement op) := OpcodeMap.noRow rfl
theorem OpcodeMap.sigwaitSatisfied (op : Nat) : OpcodeMap.Statement (.sigwaitSatisfied op) := OpcodeMap.noRow rfl
theorem OpcodeMap.sealInstalled (op : Nat) : OpcodeMap.Statement (.sealInstalled op) := OpcodeMap.noRow rfl
theorem OpcodeMap.rchctlLoad (v : DWord) : OpcodeMap.Statement (.rchctlLoad v) := OpcodeMap.noRow rfl
theorem OpcodeMap.rchctlEndinv (v : DWord) : OpcodeMap.Statement (.rchctlEndinv v) := OpcodeMap.noRow rfl
theorem OpcodeMap.portRetrain (port : Nat) (v : DWord) : OpcodeMap.Statement (.portRetrain port v) := OpcodeMap.noRow rfl
theorem OpcodeMap.portTrainingDone (port : Nat) (up fast : Bool) (ver : BitVec 8) (lanes : BitVec 4) : OpcodeMap.Statement (.portTrainingDone port up fast ver lanes) := OpcodeMap.noRow rfl
theorem OpcodeMap.portLaneFailure (port lane : Nat) : OpcodeMap.Statement (.portLaneFailure port lane) := OpcodeMap.noRow rfl
theorem OpcodeMap.pilotDrain (pilot : Nat) (v : DWord) : OpcodeMap.Statement (.pilotDrain pilot v) := OpcodeMap.noRow rfl
theorem OpcodeMap.pilotDrained (pilot : Nat) : OpcodeMap.Statement (.pilotDrained pilot) := OpcodeMap.noRow rfl
theorem OpcodeMap.pilotLoad (pilot : Nat) (v : DWord) : OpcodeMap.Statement (.pilotLoad pilot v) := OpcodeMap.noRow rfl
theorem OpcodeMap.pilotVerifyDone (pilot : Nat) : OpcodeMap.Statement (.pilotVerifyDone pilot) := OpcodeMap.noRow rfl
theorem OpcodeMap.pilotRun (pilot : Nat) (v : DWord) : OpcodeMap.Statement (.pilotRun pilot v) := OpcodeMap.noRow rfl
theorem OpcodeMap.pilotCommand (pilot slot : Nat) : OpcodeMap.Statement (.pilotCommand pilot slot) := OpcodeMap.noRow rfl
theorem OpcodeMap.planStart (coll : Nat) : OpcodeMap.Statement (.planStart coll) := OpcodeMap.noRow rfl
theorem OpcodeMap.planFault (coll pilot : Nat) : OpcodeMap.Statement (.planFault coll pilot) := OpcodeMap.noRow rfl
theorem OpcodeMap.planReturn (coll pilot : Nat) (result : DWord) : OpcodeMap.Statement (.planReturn coll pilot result) := OpcodeMap.noRow rfl
theorem OpcodeMap.cqbaseWrite (q : Nat) (v : DWord) : OpcodeMap.Statement (.cqbaseWrite q v) := OpcodeMap.noRow rfl
theorem OpcodeMap.cqLineTake (q : Nat) : OpcodeMap.Statement (.cqLineTake q) := OpcodeMap.noRow rfl
theorem OpcodeMap.cmdNop (cmd : Nat) : OpcodeMap.Statement (.cmdNop cmd) := OpcodeMap.noRow rfl
theorem OpcodeMap.launch (cmd : Nat) : OpcodeMap.Statement (.launch cmd) := OpcodeMap.noRow rfl
theorem OpcodeMap.ctxcreate (cmd : Nat) : OpcodeMap.Statement (.ctxcreate cmd) := OpcodeMap.noRow rfl
theorem OpcodeMap.ctxdestroy (cmd : Nat) : OpcodeMap.Statement (.ctxdestroy cmd) := OpcodeMap.noRow rfl
theorem OpcodeMap.handle (cmd : Nat) : OpcodeMap.Statement (.handle cmd) := OpcodeMap.noRow rfl
theorem OpcodeMap.tqbind (cmd : Nat) : OpcodeMap.Statement (.tqbind cmd) := OpcodeMap.noRow rfl
theorem OpcodeMap.tqpush (cmd : Nat) : OpcodeMap.Statement (.tqpush cmd) := OpcodeMap.noRow rfl
theorem OpcodeMap.gridStart (grid : Nat) : OpcodeMap.Statement (.gridStart grid) := OpcodeMap.noRow rfl
theorem OpcodeMap.teamPlace (grid : Nat) (sites : List Site) : OpcodeMap.Statement (.teamPlace grid sites) := OpcodeMap.noRow rfl
theorem OpcodeMap.dispatch (core : Nat) (site : Site) : OpcodeMap.Statement (.dispatch core site) := OpcodeMap.noRow rfl
theorem OpcodeMap.hamperCopy (team : Nat) : OpcodeMap.Statement (.hamperCopy team) := OpcodeMap.noRow rfl
theorem OpcodeMap.succession (team : Nat) : OpcodeMap.Statement (.succession team) := OpcodeMap.noRow rfl
theorem OpcodeMap.teamRetire (team : Nat) : OpcodeMap.Statement (.teamRetire team) := OpcodeMap.noRow rfl
theorem OpcodeMap.gridRetire (grid : Nat) : OpcodeMap.Statement (.gridRetire grid) := OpcodeMap.noRow rfl
theorem OpcodeMap.preemptSave (team : Nat) : OpcodeMap.Statement (.preemptSave team) := OpcodeMap.noRow rfl
theorem OpcodeMap.childPlacementTimeout (grid : Nat) : OpcodeMap.Statement (.childPlacementTimeout grid) := OpcodeMap.noRow rfl
theorem OpcodeMap.telemetry (stack : Nat) : OpcodeMap.Statement (.telemetry stack) := OpcodeMap.noRow rfl
theorem OpcodeMap.scrub (stack : Nat) : OpcodeMap.Statement (.scrub stack) := OpcodeMap.noRow rfl
theorem OpcodeMap.repair (stack : Nat) : OpcodeMap.Statement (.repair stack) := OpcodeMap.noRow rfl
theorem OpcodeMap.retrain (stack : Nat) : OpcodeMap.Statement (.retrain stack) := OpcodeMap.noRow rfl
theorem OpcodeMap.patrolScrub (stack : Nat) (bad : List Nat) : OpcodeMap.Statement (.patrolScrub stack bad) := OpcodeMap.noRow rfl
theorem OpcodeMap.llclr (v : DWord) : OpcodeMap.Statement (.llclr v) := OpcodeMap.noRow rfl
theorem OpcodeMap.frameclr (v : DWord) : OpcodeMap.Statement (.frameclr v) := OpcodeMap.noRow rfl
theorem OpcodeMap.retirementGo (v : DWord) : OpcodeMap.Statement (.retirementGo v) := OpcodeMap.noRow rfl
theorem OpcodeMap.cacheFlush : OpcodeMap.Statement (.cacheFlush) := OpcodeMap.noRow rfl
theorem OpcodeMap.frameMigrationSelect (frame : Nat) : OpcodeMap.Statement (.frameMigrationSelect frame) := OpcodeMap.noRow rfl
theorem OpcodeMap.frameDrainEnd (frame : Nat) : OpcodeMap.Statement (.frameDrainEnd frame) := OpcodeMap.noRow rfl
theorem OpcodeMap.frameCommit (frame : Nat) : OpcodeMap.Statement (.frameCommit frame) := OpcodeMap.noRow rfl
theorem OpcodeMap.homeRequestArrival (req : Nat) : OpcodeMap.Statement (.homeRequestArrival req) := OpcodeMap.noRow rfl
theorem OpcodeMap.memoryReady : OpcodeMap.Statement (.memoryReady) := OpcodeMap.noRow rfl
theorem OpcodeMap.stackTrainingTimeout (stack : Nat) : OpcodeMap.Statement (.stackTrainingTimeout stack) := OpcodeMap.noRow rfl
theorem OpcodeMap.assign : OpcodeMap.Statement (.assign) := OpcodeMap.noRow rfl
theorem OpcodeMap.unassign : OpcodeMap.Statement (.unassign) := OpcodeMap.noRow rfl
theorem OpcodeMap.attest : OpcodeMap.Statement (.attest) := OpcodeMap.noRow rfl
theorem OpcodeMap.identity : OpcodeMap.Statement (.identity) := OpcodeMap.noRow rfl
theorem OpcodeMap.dbgunlock : OpcodeMap.Statement (.dbgunlock) := OpcodeMap.noRow rfl
theorem OpcodeMap.dbgUnlockComplete : OpcodeMap.Statement (.dbgUnlockComplete) := OpcodeMap.noRow rfl
theorem OpcodeMap.save : OpcodeMap.Statement (.save) := OpcodeMap.noRow rfl
theorem OpcodeMap.secmodeWrite (v : DWord) : OpcodeMap.Statement (.secmodeWrite v) := OpcodeMap.noRow rfl
theorem OpcodeMap.teardown (ctx : Nat) : OpcodeMap.Statement (.teardown ctx) := OpcodeMap.noRow rfl
theorem OpcodeMap.scrubStart : OpcodeMap.Statement (.scrubStart) := OpcodeMap.noRow rfl
theorem OpcodeMap.scrubRangeDone : OpcodeMap.Statement (.scrubRangeDone) := OpcodeMap.noRow rfl
theorem OpcodeMap.scrubComplete : OpcodeMap.Statement (.scrubComplete) := OpcodeMap.noRow rfl
theorem OpcodeMap.resetScrub : OpcodeMap.Statement (.resetScrub) := OpcodeMap.noRow rfl
theorem OpcodeMap.keyStoreError (slot : Nat) : OpcodeMap.Statement (.keyStoreError slot) := OpcodeMap.noRow rfl
theorem OpcodeMap.networkMessageArrival (src dst world : Nat) (number : BitVec 64) (tagOk : Bool) : OpcodeMap.Statement (.networkMessageArrival src dst world number tagOk) := OpcodeMap.noRow rfl
theorem OpcodeMap.powerOn : OpcodeMap.Statement (.powerOn) := OpcodeMap.noRow rfl
theorem OpcodeMap.rstctlCold (v : DWord) : OpcodeMap.Statement (.rstctlCold v) := OpcodeMap.noRow rfl
theorem OpcodeMap.rstctlWarm (v : DWord) : OpcodeMap.Statement (.rstctlWarm v) := OpcodeMap.noRow rfl
theorem OpcodeMap.boardReset : OpcodeMap.Statement (.boardReset) := OpcodeMap.noRow rfl
theorem OpcodeMap.fwload (v : DWord) : OpcodeMap.Statement (.fwload v) := OpcodeMap.noRow rfl
theorem OpcodeMap.firmwareLoadDone : OpcodeMap.Statement (.firmwareLoadDone) := OpcodeMap.noRow rfl
theorem OpcodeMap.linkTrainingDone (ver lanes : BitVec 8) : OpcodeMap.Statement (.linkTrainingDone ver lanes) := OpcodeMap.noRow rfl
theorem OpcodeMap.linkLaneFailure : OpcodeMap.Statement (.linkLaneFailure) := OpcodeMap.noRow rfl
theorem OpcodeMap.companionAccess (acc : CompAccess) : OpcodeMap.Statement (.companionAccess acc) := OpcodeMap.noRow rfl
theorem OpcodeMap.clusterSelfTest (cluster : Nat) (pass : Bool) : OpcodeMap.Statement (.clusterSelfTest cluster pass) := OpcodeMap.noRow rfl
theorem OpcodeMap.mxcalSet : OpcodeMap.Statement (.mxcalSet) := OpcodeMap.noRow rfl
theorem OpcodeMap.fullService : OpcodeMap.Statement (.fullService) := OpcodeMap.noRow rfl
theorem OpcodeMap.clretGo (v : DWord) : OpcodeMap.Statement (.clretGo v) := OpcodeMap.noRow rfl
theorem OpcodeMap.clretReadmit (v : DWord) : OpcodeMap.Statement (.clretReadmit v) := OpcodeMap.noRow rfl
theorem OpcodeMap.islandCap (island : Nat) (mhz : BitVec 16) : OpcodeMap.Statement (.islandCap island mhz) := OpcodeMap.noRow rfl
theorem OpcodeMap.registerWrite (off : Nat) (v : DWord) : OpcodeMap.Statement (.registerWrite off v) := OpcodeMap.noRow rfl
theorem OpcodeMap.mdrainSwapEligible (r : GRef) : OpcodeMap.Statement (.mdrainSwapEligible r) := OpcodeMap.noRow rfl
theorem OpcodeMap.stackTrainingDone (stack : Nat) : OpcodeMap.Statement (.stackTrainingDone stack) := OpcodeMap.noRow rfl
theorem OpcodeMap.fabricCreditReturn (port : Nat) : OpcodeMap.Statement (.fabricCreditReturn port) := OpcodeMap.noRow rfl

end Sys2Proof.Laws
end

