-- ==== Sys2Proof/Laws/Words.lean ====
section
/-! SUPPORT. Packing the fields of a word and reading them back (03_encoding.md R64, R65, R68, R72). -/
namespace Sys2Proof.Machine
open Sys2Proof

/-! ### Fields of joined bit vectors -/

theorem slice_hi {n k : Nat} (x : BitVec n) (y : BitVec k) (i l : Nat) (h : k ≤ i) :
    (x ++ y).extractLsb' i l = x.extractLsb' (i - k) l := by
  apply BitVec.eq_of_getLsbD_eq
  intro j hj
  have h1 : ¬ i + j < k := by omega
  have h2 : i + j - k = i - k + j := by omega
  simp only [BitVec.getLsbD_extractLsb', BitVec.getLsbD_append, h1, h2, if_false]

theorem slice_lo {n k : Nat} (x : BitVec n) (y : BitVec k) (i l : Nat) (h : i + l ≤ k) :
    (x ++ y).extractLsb' i l = y.extractLsb' i l := by
  apply BitVec.eq_of_getLsbD_eq
  intro j hj
  have h1 : i + j < k := by omega
  simp only [BitVec.getLsbD_extractLsb', BitVec.getLsbD_append, h1, if_true]

theorem slice_all {n : Nat} (x : BitVec n) : x.extractLsb' 0 n = x := by
  apply BitVec.eq_of_getLsbD_eq
  intro j hj
  simp [hj]

/-- Two fields that stand side by side are one field. -/
theorem join {n : Nat} (x : BitVec n) (i a b : Nat) : x.extractLsb' (i + a) b ++ x.extractLsb' i a = x.extractLsb' i (b + a) := by
  apply BitVec.eq_of_getLsbD_eq
  intro j hj
  simp only [BitVec.getLsbD_append, BitVec.getLsbD_extractLsb']
  by_cases h : j < a
  · have : j < b + a := by omega
    simp [h, this]
  · have h1 : j - a < b := by omega
    have h2 : i + a + (j - a) = i + j := by omega
    simp [h, hj, h1, h2]

/-! ### The formats -/

@[simp] theorem Word2.unpack_pack (w : Word2) : Word2.unpack w.pack = w := by
  simp only [Word2.unpack, Word2.pack]
  congr 1
  all_goals repeat first
    | exact slice_all _
    | refine (slice_lo _ _ _ _ (by decide)).trans ?_
    | refine (slice_hi _ _ _ _ (by decide)).trans ?_

@[simp] theorem Word2.pack_unpack (w : Word) : (Word2.unpack w).pack = w :=
  (join w 0 24 8).trans (slice_all w)

@[simp] theorem Word1.unpack_pack (w : Word1) : Word1.unpack w.pack = w := by
  cases w
  simp only [Word1.unpack, Word1.pack]
  congr 1
  all_goals repeat first
    | exact slice_all _
    | refine (slice_lo _ _ _ _ (by decide)).trans ?_
    | refine (slice_hi _ _ _ _ (by decide)).trans ?_

@[simp] theorem Word1.pack_unpack (w : Word) : (Word1.unpack w).pack = w := by
  simp only [Word1.pack, Word1.unpack]
  rw [join w 26 1 5, join w 25 1 6, join w 24 1 7, join w 23 1 8, join w 22 1 9, join w 21 1 10, join w 20 1 11, join w 19 1 12,
    join w 16 3 13, join w 12 4 16, join w 6 6 20, join w 0 6 26]
  exact slice_all w

@[simp] theorem litWords_litOf (lo hi : Word) : litWords (litOf lo hi) = [lo, hi] := by
  simp only [litWords, litOf]
  congr 1
  · repeat first
      | exact slice_all _
      | refine (slice_lo _ _ _ _ (by decide)).trans ?_
      | refine (slice_hi _ _ _ _ (by decide)).trans ?_
  · congr 1
    repeat first
      | exact slice_all _
      | refine (slice_lo _ _ _ _ (by decide)).trans ?_
      | refine (slice_hi _ _ _ _ (by decide)).trans ?_

theorem litOf_litWords (l : DWord) : litOf (l.extractLsb' 0 32) (l.extractLsb' 32 32) = l :=
  (join l 0 32 32).trans (slice_all l)

theorem FmtBR.unpack_word0 (f : FmtBR) (op : BitVec 7) : FmtBR.unpack (f.word0 op) f.tail = f := by
  cases f
  simp only [FmtBR.unpack, FmtBR.word0]
  congr 1
  all_goals repeat first
    | exact slice_all _
    | refine (slice_lo _ _ _ _ (by decide)).trans ?_
    | refine (slice_hi _ _ _ _ (by decide)).trans ?_

theorem FmtBR.word0_op (f : FmtBR) (op : BitVec 7) : (f.word0 op).extractLsb' 2 7 = op := by
  simp only [FmtBR.word0]
  repeat first
    | exact slice_all _
    | refine (slice_lo _ _ _ _ (by decide)).trans ?_
    | refine (slice_hi _ _ _ _ (by decide)).trans ?_

theorem FmtBR.word0_len (f : FmtBR) (op : BitVec 7) : (f.word0 op).extractLsb' 0 2 = f.tail.len := by
  simp only [FmtBR.word0]
  repeat first
    | exact slice_all _
    | refine (slice_lo _ _ _ _ (by decide)).trans ?_
    | refine (slice_hi _ _ _ _ (by decide)).trans ?_

theorem FmtBI.unpack_word0 (f : FmtBI) (op : BitVec 7) : FmtBI.unpack (f.word0 op) = f := by
  cases f
  simp only [FmtBI.unpack, FmtBI.word0]
  congr 1
  all_goals repeat first
    | exact slice_all _
    | refine (slice_lo _ _ _ _ (by decide)).trans ?_
    | refine (slice_hi _ _ _ _ (by decide)).trans ?_

theorem FmtBra.unpack_word0 (f : FmtBra) (len : BitVec 2) : FmtBra.unpack (f.word0 len) = f := by
  cases f
  simp only [FmtBra.unpack, FmtBra.word0]
  congr 1
  all_goals repeat first
    | exact slice_all _
    | refine (slice_lo _ _ _ _ (by decide)).trans ?_
    | refine (slice_hi _ _ _ _ (by decide)).trans ?_

theorem FmtBC.unpack_word0 (f : FmtBC) : FmtBC.unpack f.word0 = f := by
  cases f
  simp only [FmtBC.unpack, FmtBC.word0]
  congr 1
  all_goals repeat first
    | exact slice_all _
    | refine (slice_lo _ _ _ _ (by decide)).trans ?_
    | refine (slice_hi _ _ _ _ (by decide)).trans ?_

theorem FmtBS.unpack_word0 (f : FmtBS) (op : BitVec 7) : FmtBS.unpack (f.word0 op) = f := by
  cases f
  simp only [FmtBS.unpack, FmtBS.word0]
  congr 1
  all_goals repeat first
    | exact slice_all _
    | refine (slice_lo _ _ _ _ (by decide)).trans ?_
    | refine (slice_hi _ _ _ _ (by decide)).trans ?_

theorem FmtBW.unpack_word0 (f : FmtBW) (op : BitVec 7) : FmtBW.unpack (f.word0 op) = f := by
  cases f
  simp only [FmtBW.unpack, FmtBW.word0]
  congr 1
  all_goals repeat first
    | exact slice_all _
    | refine (slice_lo _ _ _ _ (by decide)).trans ?_
    | refine (slice_hi _ _ _ _ (by decide)).trans ?_

theorem unpackZ_wordZ (z : BitVec 23) (op : BitVec 7) : unpackZ (wordZ z op) = z := by
  simp only [unpackZ, wordZ]
  repeat first
    | exact slice_all _
    | refine (slice_lo _ _ _ _ (by decide)).trans ?_
    | refine (slice_hi _ _ _ _ (by decide)).trans ?_

@[simp] theorem PairOp.unpack_pack (p : PairOp) : PairOp.unpack p.pack = p := by
  cases p
  simp only [PairOp.unpack, PairOp.pack]
  congr 1
  all_goals repeat first
    | exact slice_all _
    | refine (slice_lo _ _ _ _ (by decide)).trans ?_
    | refine (slice_hi _ _ _ _ (by decide)).trans ?_

end Sys2Proof.Machine
end

