-- ==== Sys2Proof/Tests/Slice0.lean ====
section
/-! SUPPORT. Tests on fixed values, by hand from the spec: the ill-formed terms that each check refuses, a word of every instruction that
has words, single steps, and, for every statement with hypotheses, states and operands that meet them. -/
namespace Sys2Proof.Tests
open Sys2Proof Sys2Proof.Machine

set_option Elab.async false

/-! ### Well-formedness -/

/-- Each term is ill-formed, and its words are refused with the code and word given. -/
def refused (l : List (Instr × FaultCode × Nat)) : Bool :=
  l.all fun p => !wellFormed p.1 && (encode p.1 = [] || match decode (encode p.1) with
    | .error (.bad c w) => c = p.2.1 && w = p.2.2
    | _ => false)

/-- Format BR with D = 3, A = 1, B = 2 and no guard. -/
def br (t : Tail) : FmtBR := ⟨0, 0, 0, 2, 1, 3, t⟩

/-- The same in the extended form. -/
def brX (w1 : Word1) : FmtBR := br (.ext w1 Word2.zero)

/-- R66 to R71, R81, R84 to R87: each check of format BR. -/
theorem test_refused_br : refused [
    (.spopc (brX Word1.zero), .illOp, 0), (.scmp (br .base), .illOp, 0), (.pand (brX { Word1.zero with sub := 5 }), .illOp, 1),
    (.sadd (brX { Word1.zero with sub := 1 }), .illOp, 1), (.spopc (br (.baseLit 1)), .illLit, 0),
    (.vred (br (.extLit Word1.zero Word2.zero 1)), .illLit, 0), (.vfadd ⟨0, 0, 0, 0, 1, 3, .baseLit 1⟩, .illField, 0),
    (.vfclass ⟨0, 0, 0, 0, 1, 3, .baseLit 1⟩, .illField, 0),
    (.vfcvt ⟨0, 0, 0, 0, 1, 3, .extLit { Word1.zero with ty := 6 } Word2.zero 1⟩, .illField, 3),
    (.scmp ⟨0, 0, 0, 2, 1, 8, .ext Word1.zero Word2.zero⟩, .illField, 0), (.pand ⟨0, 0, 0, 2, 8, 3, .ext Word1.zero Word2.zero⟩, .illField, 0),
    (.pand ⟨0, 0, 0, 8, 1, 3, .ext Word1.zero Word2.zero⟩, .illField, 0), (.sadd { br .base with sb := 1 }, .illField, 0),
    (.sadd { br .base with pg := 1 }, .illField, 0), (.sadd { br .base with pn := 1 }, .illField, 0),
    (.vmatch ⟨0, 0, 0, 0, 63, 3, .ext { Word1.zero with mod := 1 } Word2.zero⟩, .illField, 0),
    (.ballot ⟨0, 0, 0, 0, 1, 59, .base⟩, .illField, 0), (.pmovToScalar ⟨0, 0, 0, 0, 1, 58, .ext Word1.zero Word2.zero⟩, .illField, 0),
    (.vfadd (brX Word1.zero), .illField, 1), (.vfadd (brX { Word1.zero with ty := 6, rnd := 5 }), .illField, 1),
    (.vmul (brX { Word1.zero with sat := 1 }), .illField, 1), (.vadd (brX { Word1.zero with negA := 1 }), .illField, 1),
    (.sadd (brX { Word1.zero with fs := 1 }), .illField, 1), (.st ⟨0, 0, 0, 0, 1, 3, .ext { Word1.zero with acq := 1 } ⟨8, 0⟩⟩, .illField, 1),
    (.ld ⟨0, 0, 0, 0, 1, 3, .ext { Word1.zero with rel := 1 } ⟨8, 0⟩⟩, .illField, 1), (.sadd (brX { Word1.zero with mod := 1 }), .illField, 1),
    (.ssel (brX { Word1.zero with c := 8 }), .illField, 1),
    (.vred ⟨0, 0, 0, 0, 1, 3, .ext { Word1.zero with ty := 6, sub := 3 } Word2.zero⟩, .illField, 1),
    (.vred ⟨0, 0, 0, 0, 1, 3, .ext Word1.zero ⟨0, 1⟩⟩, .illField, 2), (.ld ⟨0, 0, 0, 0, 1, 3, .ext Word1.zero ⟨13, 0⟩⟩, .illField, 2),
    (.sadd (br (.baseLit 1)), .illField, 0), (.sadd ⟨0, 0, 0, 0, 1, 3, .extLit Word1.zero ⟨0, 1⟩ 1⟩, .illField, 2),
    (.vadd ⟨0, 0, 0, 0, 1, 3, .extLit Word1.zero Word2.zero 0x100000000⟩, .illField, 4), (.sadd (br (.ext Word1.zero ⟨1, 5⟩)), .illField, 0),
    (.sadd (br (.ext Word1.zero ⟨2, 0⟩)), .illField, 2), (.sadd (br (.ext Word1.zero ⟨0, 5⟩)), .illField, 2),
    (.vfadd ⟨0, 0, 0, 0, 1, 3, .ext { Word1.zero with ty := 6 } ⟨1, 65536⟩⟩, .illField, 2)] = true := by decide +kernel

/-- R72, R73, R75, R84, R88: each check of the other formats; an event has no words. -/
theorem test_refused_formats :
    let x : PairOp := ⟨0, 0, 2, 1, 3, 0x48⟩
    let y : PairOp := ⟨0, 0, 5, 6, 7, 0x39⟩
    let pair (x y : PairOp) : Instr := .pair ⟨0, 0, 6, 0, 0, x, y⟩
    wellFormed (pair x y) = true ∧ refused [(.nop 1, .illField, 0), (.ret 1, .illField, 0), (.clause ⟨0, 12, 0, 0⟩, .illField, 0),
      (.clause ⟨0, 3, 3, 0⟩, .illField, 0), (.braX ⟨0, 0, 0, 0⟩ { Word1.zero with c := 1 } Word2.zero, .illField, 1),
      (.braX ⟨0, 0, 0, 0⟩ Word1.zero ⟨1, 0⟩, .illField, 2), (.waitf ⟨1, 0⟩, .illField, 0), (.trap ⟨0, 1, 0⟩, .illField, 0),
      (.sleep ⟨0, 0, 1⟩, .illField, 0), (.srd ⟨1, 0, 0⟩, .illField, 0), (.srd ⟨0, 0x0B, 0⟩, .illField, 0), (.swr ⟨0, 0x27, 0⟩, .illField, 0),
      (.pair ⟨1, 0, 6, 0, 0, x, y⟩, .illField, 0), (pair { x with c := 1 } y, .illField, 1), (.pair ⟨0, 6, 6, 0, 0, x, y⟩, .illField, 2),
      (pair x { y with op := 0x40, c := 10 }, .illField, 2), (pair y x, .illPair, 0), (pair x { y with a := 9, b := 5 }, .illPair, 0),
      (pair { x with op := 0x4B, c := 7 } { y with a := 8, b := 10, d := 11 }, .illPair, 0), (pair { x with sb := 1 } { y with sb := 1 }, .illPair, 0),
      (pair x { y with d := 3 }, .illPair, 0), (pair x { y with a := 3 }, .illPair, 0), (.homeRequestArrival 0, .illOp, 0)] = true := by
  decide +kernel

/-! ### Decoding -/

/-- Each list of words decodes to the instruction beside it, and nothing is left over. -/
def decodesTo (l : List (List Word × Instr)) : Bool :=
  l.all fun p => match decode p.1 with
    | .ok (i, []) => i = p.2 && encode i = p.1
    | _ => false

/-- R65, R75, R84, R88, R139, R140: words written out from the layouts, the fields in the order of the format. -/
theorem test_decode_control : decodesTo [
    ([0b00000000000000000000000_0000000_00#32], .nop 0),
    ([0b111_1111_0010_100000000000_0000001_00#32], .clause ⟨7, 15, 2, 0x800⟩),
    ([0b11111111111111101_10_1_101_0000010_00#32], .bra ⟨-3, 2, 1, 5⟩),
    ([0b00000000000000101_01_0_010_0000010_10#32, 0#32, 0b00000000_111111111111111111111100#32], .braX ⟨5, 1, 0, 2⟩ Word1.zero ⟨0, -4⟩),
    ([0b11111111111111111111110_0000011_00#32], .jmp (-2)),
    ([0b00000000000000000001001_0000100_00#32], .call 9),
    ([0b00000000000000000000000_0000101_00#32], .ret 0),
    ([0b0_0_000_000000_001011_000000_0000110_00#32], .brx ⟨0, 0, 0, 0, 11, 0, .base⟩),
    ([0b00000000000000000000000_0000111_00#32], .yield 0),
    ([0b0_1_011_000000_000000_000000_0001000_00#32], .exit ⟨0, 1, 3, 0, 0, 0, .base⟩),
    ([0b0_0_000_000000_000111_000000_0001000_10#32, 0b00000_0_0_0_0_0_0_0_0_000_0000_000000_000000#32, 0b00000000_000000000000000000000000#32], .exitS ⟨0, 0, 0, 0, 7, 0, .ext Word1.zero Word2.zero⟩),
    ([0b00000000000_101000000101_0001001_00#32], .waitf ⟨0, 0xA05⟩),
    ([0b10011010010_000000_000000_0001010_00#32], .trap ⟨1234, 0, 0⟩),
    ([0b00000000000000000000000_0001011_00#32], .tret 0),
    ([0b00001001101_000000_000000_0001100_00#32], .bkpt ⟨77, 0, 0⟩),
    ([0b000000000_00010011_001001_0001101_00#32], .srd ⟨0, 0x13, 9⟩),
    ([0b000000000_00100000_001000_0001110_00#32], .swr ⟨0, 0x20, 8⟩),
    ([0b11111111111_000000_000000_0001111_00#32], .sleep ⟨2047, 0, 0⟩)] = true := by decide +kernel

/-- R65, R68, R84 to R86: words written out from the layouts, the fields in the order of the format. -/
theorem test_decode_scalar : decodesTo [
    ([0b0_0_000_000010_000001_000011_0010000_00#32], .sadd ⟨0, 0, 0, 2, 1, 3, .base⟩),
    ([0b0_0_000_000010_000001_000011_0010001_00#32], .ssub ⟨0, 0, 0, 2, 1, 3, .base⟩),
    ([0b0_0_000_000010_000001_000011_0010010_00#32], .smul ⟨0, 0, 0, 2, 1, 3, .base⟩),
    ([0b0_0_000_000010_000001_000011_0010011_00#32], .smulh ⟨0, 0, 0, 2, 1, 3, .base⟩),
    ([0b0_0_000_000010_000001_000011_0010100_00#32], .sand ⟨0, 0, 0, 2, 1, 3, .base⟩),
    ([0b0_0_000_000010_000001_000011_0010101_00#32], .sor ⟨0, 0, 0, 2, 1, 3, .base⟩),
    ([0b0_0_000_000010_000001_000011_0010110_00#32], .sxor ⟨0, 0, 0, 2, 1, 3, .base⟩),
    ([0b0_0_000_000010_000001_000011_0010111_00#32], .sandn ⟨0, 0, 0, 2, 1, 3, .base⟩),
    ([0b0_0_000_000010_000001_000011_0011000_00#32], .sshl ⟨0, 0, 0, 2, 1, 3, .base⟩),
    ([0b0_0_000_000010_000001_000011_0011001_00#32], .sshr ⟨0, 0, 0, 2, 1, 3, .base⟩),
    ([0b0_0_000_000010_000001_000011_0011010_00#32], .ssra ⟨0, 0, 0, 2, 1, 3, .base⟩),
    ([0b0_0_000_000010_000001_000011_0011011_00#32], .smin ⟨0, 0, 0, 2, 1, 3, .base⟩),
    ([0b0_0_000_000010_000001_000011_0011100_00#32], .smax ⟨0, 0, 0, 2, 1, 3, .base⟩),
    ([0b0_0_000_000010_000001_000011_0011101_10#32, 0b00000_0_0_0_0_0_0_0_0_000_0000_000100_000000#32, 0b00000000_000000000000000000000000#32], .scmp ⟨0, 0, 0, 2, 1, 3, .ext { Word1.zero with sub := 4 } Word2.zero⟩),
    ([0b0_0_000_000010_000001_000011_0011110_10#32, 0b00000_0_0_0_0_0_0_0_0_000_0000_000000_000101#32, 0b00000000_000000000000000000000000#32], .ssel ⟨0, 0, 0, 2, 1, 3, .ext { Word1.zero with c := 5 } Word2.zero⟩),
    ([0b0_0_000_000010_000000_000011_0011111_00#32], .smov ⟨0, 0, 0, 2, 0, 3, .base⟩),
    ([0b0_0_000_000000_000001_000011_0100000_00#32], .spopc ⟨0, 0, 0, 0, 1, 3, .base⟩),
    ([0b0_0_000_000000_000001_000011_0100001_00#32], .sclz ⟨0, 0, 0, 0, 1, 3, .base⟩),
    ([0b0_0_000_000000_000001_000011_0100010_10#32, 0b00000_0_0_0_0_0_0_0_0_000_0000_000000_000000#32, 0b00000001_000000000000100000000011#32], .sbfe ⟨0, 0, 0, 0, 1, 3, .ext Word1.zero ⟨1, 2051⟩⟩),
    ([0b0_0_000_000000_000001_000011_0100011_11#32, 0b00000_0_0_0_0_0_0_0_0_000_0000_000000_000000#32, 0b00000000_000000000000000000000000#32, 0x9ABCDEF0#32, 0x12345678#32], .sbfi ⟨0, 0, 0, 0, 1, 3, .extLit Word1.zero Word2.zero 0x123456789ABCDEF0⟩),
    ([0b0_0_000_000010_000001_000011_0100100_00#32], .sdiv ⟨0, 0, 0, 2, 1, 3, .base⟩),
    ([0b0_0_000_000010_000001_000011_0100101_10#32, 0b00000_0_0_0_0_0_0_0_0_000_0000_000001_000000#32, 0b00000000_000000000000000000000000#32], .srem ⟨0, 0, 0, 2, 1, 3, .ext { Word1.zero with sub := 1 } Word2.zero⟩),
    ([0b0_0_000_000010_000001_000011_0100110_10#32, 0b11111_0_0_0_0_0_0_0_0_000_0000_000000_000000#32, 0b00000000_000000000000000000000000#32], .saddr ⟨0, 0, 0, 2, 1, 3, .ext { Word1.zero with mod := 31 } Word2.zero⟩),
    ([0b0_0_000_000010_000001_000011_0101000_10#32, 0b00000_0_0_0_0_0_0_0_0_000_0000_000000_000000#32, 0b00000000_000000000000000000000000#32], .pand ⟨0, 0, 0, 2, 1, 3, .ext { Word1.zero with sub := 0 } Word2.zero⟩),
    ([0b0_0_000_000010_000001_000011_0101000_10#32, 0b00000_0_0_0_0_0_0_0_0_000_0000_000001_000000#32, 0b00000000_000000000000000000000000#32], .por ⟨0, 0, 0, 2, 1, 3, .ext { Word1.zero with sub := 1 } Word2.zero⟩),
    ([0b0_0_000_000010_000001_000011_0101000_10#32, 0b00000_0_0_0_0_0_0_0_0_000_0000_000010_000000#32, 0b00000000_000000000000000000000000#32], .pxor ⟨0, 0, 0, 2, 1, 3, .ext { Word1.zero with sub := 2 } Word2.zero⟩),
    ([0b0_0_000_000010_000001_000011_0101000_10#32, 0b00000_0_0_0_0_0_0_0_0_000_0000_000011_000000#32, 0b00000000_000000000000000000000000#32], .pandn ⟨0, 0, 0, 2, 1, 3, .ext { Word1.zero with sub := 3 } Word2.zero⟩),
    ([0b0_0_000_000000_000001_000011_0101000_10#32, 0b00000_0_0_0_0_0_0_0_0_000_0000_000100_000000#32, 0b00000000_000000000000000000000000#32], .pnot ⟨0, 0, 0, 0, 1, 3, .ext { Word1.zero with sub := 4 } Word2.zero⟩),
    ([0b0_0_000_000000_000001_111001_0101001_10#32, 0b00000_0_0_0_0_0_0_0_0_000_0000_000000_000000#32, 0b00000000_000000000000000000000000#32], .pmovToScalar ⟨0, 0, 0, 0, 1, 57, .ext { Word1.zero with sub := 0 } Word2.zero⟩),
    ([0b0_0_000_000000_111101_000011_0101001_10#32, 0b00000_0_0_0_0_0_0_0_0_000_0000_000001_000000#32, 0b00000000_000000000000000000000000#32], .pmovToPredicate ⟨0, 0, 0, 0, 61, 3, .ext { Word1.zero with sub := 1 } Word2.zero⟩),
    ([0b0_0_000_000000_000001_111010_0101010_00#32], .ballot ⟨0, 0, 0, 0, 1, 58, .base⟩),
    ([0b0_0_000_000000_000001_000011_0101011_00#32], .ppopc ⟨0, 0, 0, 0, 1, 3, .base⟩),
    ([0b0_0_000_000000_000001_000011_0101100_00#32], .pfirst ⟨0, 0, 0, 0, 1, 3, .base⟩),
    ([0b0_0_000_000000_000001_000011_0101101_10#32, 0b00000_0_0_0_0_0_0_0_0_000_0000_000010_000000#32, 0b00000000_000000000000000000000000#32], .ptest ⟨0, 0, 0, 0, 1, 3, .ext { Word1.zero with sub := 2 } Word2.zero⟩)] = true := by decide +kernel

/-- R65, R66, R84: words written out from the layouts, the fields in the order of the format. -/
theorem test_decode_vectorInteger : decodesTo [
    ([0b0_1_100_000010_000001_000011_0110000_00#32], .vadd ⟨0, 1, 4, 2, 1, 3, .base⟩),
    ([0b0_1_100_000010_000001_000011_0110001_00#32], .vsub ⟨0, 1, 4, 2, 1, 3, .base⟩),
    ([0b0_1_100_000010_000001_000011_0110010_00#32], .vmul ⟨0, 1, 4, 2, 1, 3, .base⟩),
    ([0b0_1_100_000010_000001_000011_0110011_00#32], .vmulh ⟨0, 1, 4, 2, 1, 3, .base⟩),
    ([0b0_0_000_000010_000001_000011_0110100_10#32, 0b00000_0_0_0_0_0_0_0_0_000_0101_000000_111111#32, 0b00000000_000000000000000000000000#32], .vmad ⟨0, 0, 0, 2, 1, 3, .ext { Word1.zero with c := 63, ty := 5 } Word2.zero⟩),
    ([0b1_0_000_000010_000001_000011_0110101_00#32], .vand ⟨1, 0, 0, 2, 1, 3, .base⟩),
    ([0b1_0_000_000010_000001_000011_0110110_00#32], .vor ⟨1, 0, 0, 2, 1, 3, .base⟩),
    ([0b1_0_000_000010_000001_000011_0110111_00#32], .vxor ⟨1, 0, 0, 2, 1, 3, .base⟩),
    ([0b1_0_000_000010_000001_000011_0111000_00#32], .vandn ⟨1, 0, 0, 2, 1, 3, .base⟩),
    ([0b1_0_000_000010_000001_000011_0111001_00#32], .vshl ⟨1, 0, 0, 2, 1, 3, .base⟩),
    ([0b1_0_000_000010_000001_000011_0111010_00#32], .vshr ⟨1, 0, 0, 2, 1, 3, .base⟩),
    ([0b1_0_000_000010_000001_000011_0111011_00#32], .vsra ⟨1, 0, 0, 2, 1, 3, .base⟩),
    ([0b1_0_000_000010_000001_000011_0111100_00#32], .vmin ⟨1, 0, 0, 2, 1, 3, .base⟩),
    ([0b1_0_000_000010_000001_000011_0111101_00#32], .vmax ⟨1, 0, 0, 2, 1, 3, .base⟩),
    ([0b0_0_000_000000_000001_000011_0111110_00#32], .vabs ⟨0, 0, 0, 0, 1, 3, .base⟩),
    ([0b0_0_000_000000_000001_000011_0111111_10#32, 0b00000_0_0_0_0_0_0_0_1_000_0010_000000_000000#32, 0b00000000_000000000000000000000000#32], .vneg ⟨0, 0, 0, 0, 1, 3, .ext { Word1.zero with sat := 1, ty := 2 } Word2.zero⟩),
    ([0b0_0_000_000010_000001_000011_1000000_10#32, 0b00000_0_0_0_0_0_0_0_0_000_0001_001001_000000#32, 0b00000000_000000000000000000000000#32], .vcmp ⟨0, 0, 0, 2, 1, 3, .ext { Word1.zero with sub := 9, ty := 1 } Word2.zero⟩),
    ([0b0_0_000_000010_000001_000011_1000001_10#32, 0b00000_0_0_0_0_0_0_0_0_000_0000_000000_000111#32, 0b00000000_000000000000000000000000#32], .vsel ⟨0, 0, 0, 2, 1, 3, .ext { Word1.zero with c := 7 } Word2.zero⟩),
    ([0b0_0_000_000010_000000_000011_1000010_00#32], .vmov ⟨0, 0, 0, 2, 0, 3, .base⟩),
    ([0b0_0_000_000000_000001_000011_1000011_00#32], .vpopc ⟨0, 0, 0, 0, 1, 3, .base⟩),
    ([0b0_0_000_000000_000001_000011_1000100_00#32], .vclz ⟨0, 0, 0, 0, 1, 3, .base⟩),
    ([0b0_0_000_000010_000001_000011_1000101_10#32, 0b00000_0_0_0_0_0_0_0_0_000_0000_000000_000000#32, 0b00000000_000000000000000000000000#32], .vbfe ⟨0, 0, 0, 2, 1, 3, .ext Word1.zero Word2.zero⟩),
    ([0b0_0_000_000010_000001_000011_1000110_10#32, 0b00000_0_0_0_0_0_0_0_0_000_0000_000000_000100#32, 0b00000000_000000000000000000000000#32], .vbfi ⟨0, 0, 0, 2, 1, 3, .ext { Word1.zero with c := 4 } Word2.zero⟩),
    ([0b0_0_000_000000_000001_000011_1000111_00#32], .vhash ⟨0, 0, 0, 0, 1, 3, .base⟩)] = true := by decide +kernel

/-- R68, R84, R175: words written out from the layouts, the fields in the order of the format. -/
theorem test_decode_vectorFloat : decodesTo [
    ([0b0_0_000_000010_000001_000011_1001000_00#32], .vfadd ⟨0, 0, 0, 2, 1, 3, .base⟩),
    ([0b0_0_000_000010_000001_000011_1001001_00#32], .vfsub ⟨0, 0, 0, 2, 1, 3, .base⟩),
    ([0b0_0_000_000010_000001_000011_1001010_00#32], .vfmul ⟨0, 0, 0, 2, 1, 3, .base⟩),
    ([0b0_0_000_000010_000001_000011_1001100_00#32], .vfmin ⟨0, 0, 0, 2, 1, 3, .base⟩),
    ([0b0_0_000_000010_000001_000011_1001101_00#32], .vfmax ⟨0, 0, 0, 2, 1, 3, .base⟩),
    ([0b0_0_000_000010_000001_000011_1001011_10#32, 0b00001_0_0_0_1_0_0_1_0_010_0110_000000_000100#32, 0b00000000_000000000000000000000000#32], .vfma ⟨0, 0, 0, 2, 1, 3, .ext { Word1.zero with c := 4, ty := 6, mod := 1, negA := 1, absB := 1, rnd := 2 } Word2.zero⟩),
    ([0b0_0_000_000010_000001_000011_1011010_10#32, 0b00000_0_0_0_0_0_0_0_0_000_1000_000000_000100#32, 0b00000000_000000000000000000000000#32], .vfdot2 ⟨0, 0, 0, 2, 1, 3, .ext { Word1.zero with c := 4, ty := 8 } Word2.zero⟩),
    ([0b0_0_000_000010_000001_000011_1001110_10#32, 0b00000_0_0_0_0_0_0_0_0_000_0110_000111_000000#32, 0b00000000_000000000000000000000000#32], .vfcmp ⟨0, 0, 0, 2, 1, 3, .ext { Word1.zero with sub := 7, ty := 6 } Word2.zero⟩),
    ([0b0_0_000_000000_000001_000011_1001111_00#32], .vfclass ⟨0, 0, 0, 0, 1, 3, .base⟩),
    ([0b0_0_000_000000_000001_000011_1010000_00#32], .vfrcp ⟨0, 0, 0, 0, 1, 3, .base⟩),
    ([0b0_0_000_000000_000001_000011_1010001_00#32], .vfrsq ⟨0, 0, 0, 0, 1, 3, .base⟩),
    ([0b0_0_000_000000_000001_000011_1010010_00#32], .vfsqrt ⟨0, 0, 0, 0, 1, 3, .base⟩),
    ([0b0_0_000_000000_000001_000011_1010011_00#32], .vfexp2 ⟨0, 0, 0, 0, 1, 3, .base⟩),
    ([0b0_0_000_000000_000001_000011_1010100_00#32], .vflog2 ⟨0, 0, 0, 0, 1, 3, .base⟩),
    ([0b0_0_000_000000_000001_000011_1010101_00#32], .vfsin ⟨0, 0, 0, 0, 1, 3, .base⟩),
    ([0b0_0_000_000000_000001_000011_1010110_00#32], .vfcos ⟨0, 0, 0, 0, 1, 3, .base⟩),
    ([0b0_0_000_000000_000001_000011_1010111_10#32, 0b00000_0_0_1_0_0_0_0_1_000_0111_000000_000000#32, 0b00000000_000000000000000000000000#32], .vftanh ⟨0, 0, 0, 0, 1, 3, .ext { Word1.zero with ty := 7, fs := 1, sat := 1 } Word2.zero⟩),
    ([0b0_0_000_000000_000001_000011_1011000_10#32, 0b00010_0_0_0_0_0_0_0_0_100_0110_000000_000000#32, 0b00000000_000000000000000000000000#32], .vfcvt ⟨0, 0, 0, 0, 1, 3, .ext { Word1.zero with ty := 6, mod := 2, rnd := 4 } Word2.zero⟩),
    ([0b0_0_000_000000_000001_000011_1011001_10#32, 0b00000_0_0_0_0_0_0_0_0_000_0110_000000_000000#32, 0b00000000_000000000000000000000000#32], .vicvt ⟨0, 0, 0, 0, 1, 3, .ext { Word1.zero with ty := 6, mod := 0 } Word2.zero⟩),
    ([0b0_0_000_000010_000001_000011_1011011_10#32, 0b00000_0_0_0_0_0_0_0_0_000_0111_000000_000000#32, 0b00000000_000000000000000000000000#32], .vfpack ⟨0, 0, 0, 2, 1, 3, .ext { Word1.zero with ty := 7, mod := 0 } Word2.zero⟩),
    ([0b0_0_000_000000_000001_000011_1011101_10#32, 0b00000_0_0_0_0_0_0_0_0_001_0110_000000_000000#32, 0b00000000_000000000000000000000000#32], .vfrnd ⟨0, 0, 0, 0, 1, 3, .ext { Word1.zero with ty := 6, rnd := 1 } Word2.zero⟩),
    ([0b0_0_000_000000_000001_000011_1011100_10#32, 0b00000_0_0_0_0_0_0_0_0_000_0110_000000_000000#32, 0b00000001_111111111111111111111011#32], .vfscale ⟨0, 0, 0, 0, 1, 3, .ext { Word1.zero with ty := 6 } ⟨1, -5⟩⟩)] = true := by decide +kernel

/-- R84, R85: words written out from the layouts, the fields in the order of the format. -/
theorem test_decode_crossLane : decodesTo [
    ([0b0_0_000_000010_000001_000011_1100000_10#32, 0b00000_0_0_0_0_0_0_0_0_000_0000_000011_000000#32, 0b00000000_000000000000000000000000#32], .vshuf ⟨0, 0, 0, 2, 1, 3, .ext { Word1.zero with sub := 3 } Word2.zero⟩),
    ([0b1_0_000_000010_000001_000011_1100001_00#32], .vbcast ⟨1, 0, 0, 2, 1, 3, .base⟩),
    ([0b0_0_000_000000_000001_000011_1100010_10#32, 0b00000_0_0_0_0_0_0_0_0_000_0000_000101_000000#32, 0b00000000_000000000000000000000000#32], .vred ⟨0, 0, 0, 0, 1, 3, .ext { Word1.zero with sub := 5 } Word2.zero⟩),
    ([0b0_0_000_000000_000001_000011_1100011_10#32, 0b00001_0_0_0_0_0_0_0_0_000_0110_000010_000000#32, 0b00000000_000000000000000000000000#32], .vscan ⟨0, 0, 0, 0, 1, 3, .ext { Word1.zero with sub := 2, ty := 6, mod := 1 } Word2.zero⟩),
    ([0b0_0_000_000000_111110_000011_1100100_10#32, 0b00001_0_0_0_0_0_0_0_0_000_0000_000000_000111#32, 0b00000000_000000000000000000000000#32], .vmatch ⟨0, 0, 0, 0, 62, 3, .ext { Word1.zero with c := 7, mod := 1 } Word2.zero⟩),
    ([0b0_0_000_000000_000001_000011_1100101_00#32], .vcompact ⟨0, 0, 0, 0, 1, 3, .base⟩),
    ([0b0_0_000_000000_000001_000011_1100110_00#32], .vexpand ⟨0, 0, 0, 0, 1, 3, .base⟩),
    ([0b0_0_000_000010_000001_000011_1100111_00#32], .vrot ⟨0, 0, 0, 2, 1, 3, .base⟩),
    ([0b0_0_000_000000_000001_000000_1101000_10#32, 0b00000_0_0_0_0_0_0_0_0_000_0000_000000_000000#32, 0b00000000_000000000000000000000000#32], .atload ⟨0, 0, 0, 0, 1, 0, .ext Word1.zero Word2.zero⟩),
    ([0b0_0_000_000000_000001_000011_1101001_00#32], .ateval ⟨0, 0, 0, 0, 1, 3, .base⟩)] = true := by decide +kernel

/-- R65, R84, R192 to R218: words written out from the layouts, the fields in the order of the format. -/
theorem test_decode_memory : decodesTo [
    ([0b0_0_000_000000_000001_000011_1110000_10#32, 0b00011_0_1_0_0_0_0_0_0_000_0000_000000_000000#32, 0b00001100_111111111111111111111000#32], .ld ⟨0, 0, 0, 0, 1, 3, .ext { Word1.zero with mod := 3, acq := 1 } ⟨12, -8⟩⟩),
    ([0b0_0_000_000000_000001_000011_1110001_10#32, 0b00001_1_0_0_0_0_0_0_0_000_0000_000000_000000#32, 0b00000010_000000000000000000001000#32], .st ⟨0, 0, 0, 0, 1, 3, .ext { Word1.zero with mod := 1, rel := 1 } ⟨2, 8⟩⟩),
    ([0b11111111000_000001_000011_1110010_00#32], .lds ⟨-8, 1, 3⟩),
    ([0b00000001000_000001_000011_1110011_00#32], .sts ⟨8, 1, 3⟩),
    ([0b0_0_000_000000_000001_000011_1110010_10#32, 0b00010_0_0_0_0_0_0_0_0_000_0000_000000_000000#32, 0b00000011_000000000000000000000000#32], .ldsExt ⟨0, 0, 0, 0, 1, 3, .ext { Word1.zero with mod := 2 } ⟨3, 0⟩⟩),
    ([0b0_0_000_000000_000001_000011_1110011_10#32, 0b00000_0_0_1_0_0_0_0_0_000_0000_000000_000000#32, 0b00000000_000000000000000000000000#32], .stsExt ⟨0, 0, 0, 0, 1, 3, .ext { Word1.zero with fs := 1 } Word2.zero⟩),
    ([0b0_0_000_000010_000001_000011_1110100_10#32, 0b00000_0_0_0_0_0_0_0_0_000_0000_001001_000100#32, 0b00000011_000000000000000000000000#32], .atom ⟨0, 0, 0, 2, 1, 3, .ext { Word1.zero with c := 4, sub := 9 } ⟨3, 0⟩⟩),
    ([0b0_0_000_000010_000001_000000_1110101_10#32, 0b00001_0_0_0_0_0_0_0_0_000_0000_000001_000000#32, 0b00000010_000000000000000000000000#32], .red ⟨0, 0, 0, 2, 1, 0, .ext { Word1.zero with sub := 1, mod := 1 } ⟨2, 0⟩⟩),
    ([0b0_0_000_000010_000001_000000_1110101_10#32, 0b00010_0_0_0_0_0_0_0_0_000_0000_001000_000100#32, 0b00000010_000000000000000000000000#32], .redFadd ⟨0, 0, 0, 2, 1, 0, .ext { Word1.zero with c := 4, sub := 8, mod := 2 } ⟨2, 0⟩⟩),
    ([0b0_0_000_000000_000000_000000_1110110_10#32, 0b00000_0_0_0_0_0_0_0_0_000_0000_000000_000000#32, 0b00000000_000000000000000000000000#32], .fenceAcq ⟨0, 0, 0, 0, 0, 0, .ext { Word1.zero with sub := 0 } Word2.zero⟩),
    ([0b0_0_000_000000_000000_000000_1110110_10#32, 0b00000_0_0_0_0_0_0_0_0_000_0000_000001_000000#32, 0b00000000_000000000000000000000000#32], .fenceRel ⟨0, 0, 0, 0, 0, 0, .ext { Word1.zero with sub := 1 } Word2.zero⟩),
    ([0b0_0_000_000000_000000_000000_1110110_10#32, 0b00000_0_0_0_0_0_0_0_0_000_0000_000010_000000#32, 0b00000000_000000000000000000000000#32], .fenceAr ⟨0, 0, 0, 0, 0, 0, .ext { Word1.zero with sub := 2 } Word2.zero⟩),
    ([0b0_0_000_000000_000000_000000_1110110_10#32, 0b00000_0_0_0_0_0_0_0_0_000_0000_000011_000000#32, 0b00000000_000000000000000000000000#32], .fenceCopy ⟨0, 0, 0, 0, 0, 0, .ext { Word1.zero with sub := 3 } Word2.zero⟩),
    ([0b0_0_000_000000_000000_000000_1110110_10#32, 0b00000_0_0_0_0_0_0_0_0_000_0000_000100_000000#32, 0b00000000_000000000000000000000000#32], .fenceTier ⟨0, 0, 0, 0, 0, 0, .ext { Word1.zero with sub := 4 } Word2.zero⟩),
    ([0b0_0_000_000000_000001_000000_1110111_10#32, 0b00001_0_0_0_0_0_0_0_0_000_0000_000000_000000#32, 0b11111111_000000000000000001000000#32], .pref ⟨0, 0, 0, 0, 1, 0, .ext { Word1.zero with mod := 1 } ⟨255, 64⟩⟩),
    ([0b0_0_000_000000_000000_000000_1111000_10#32, 0b00000_0_0_0_0_0_0_0_0_000_0000_000000_000000#32, 0b00000000_000000000000000000101111#32], .barArrive ⟨0, 0, 0, 0, 0, 0, .ext { Word1.zero with sub := 0 } ⟨0, 47⟩⟩),
    ([0b0_0_000_000000_000000_000000_1111000_10#32, 0b00000_0_0_0_0_0_0_0_0_000_0000_000001_000000#32, 0b00000000_000000000000000000101111#32], .barWait ⟨0, 0, 0, 0, 0, 0, .ext { Word1.zero with sub := 1 } ⟨0, 47⟩⟩),
    ([0b0_0_000_000000_000000_000000_1111000_10#32, 0b00000_0_0_0_0_0_0_0_0_000_0000_000010_000000#32, 0b00000000_000000000000000000101111#32], .barSync ⟨0, 0, 0, 0, 0, 0, .ext { Word1.zero with sub := 2 } ⟨0, 47⟩⟩),
    ([0b0_0_000_000000_000000_000000_1111000_10#32, 0b00000_0_0_0_0_0_0_0_0_000_0000_000011_000000#32, 0b00000000_000000000000000000101111#32], .barDrop ⟨0, 0, 0, 0, 0, 0, .ext { Word1.zero with sub := 3 } ⟨0, 47⟩⟩),
    ([0b0_0_000_000000_000000_000011_1111000_10#32, 0b00000_0_0_0_0_0_0_0_0_000_0000_000100_000000#32, 0b00000000_000000000000000000101111#32], .barQuery ⟨0, 0, 0, 0, 0, 3, .ext { Word1.zero with sub := 4 } ⟨0, 47⟩⟩),
    ([0b0_0_000_000000_000000_000000_1111001_10#32, 0b00000_0_0_0_0_0_0_0_0_000_0000_000000_000000#32, 0b00000000_000000000000000000111111#32], .lockAcq ⟨0, 0, 0, 0, 0, 0, .ext { Word1.zero with sub := 0 } ⟨0, 63⟩⟩),
    ([0b0_0_000_000000_000000_000011_1111001_10#32, 0b00000_0_0_0_0_0_0_0_0_000_0000_000001_000000#32, 0b00000000_000000000000000000111111#32], .lockTry ⟨0, 0, 0, 0, 0, 3, .ext { Word1.zero with sub := 1 } ⟨0, 63⟩⟩),
    ([0b0_0_000_000000_000000_000000_1111001_10#32, 0b00000_0_0_0_0_0_0_0_0_000_0000_000010_000000#32, 0b00000000_000000000000000000111111#32], .lockRel ⟨0, 0, 0, 0, 0, 0, .ext { Word1.zero with sub := 2 } ⟨0, 63⟩⟩)] = true := by decide +kernel

/-- R84, R235, R252: words written out from the layouts, the fields in the order of the format. -/
theorem test_decode_ring : decodesTo [
    ([0b0_0_000_000000_000000_111010_1111010_10#32, 0b00000_0_0_0_0_0_0_0_0_000_0000_000000_000000#32, 0b00000000_000000000000000000001111#32], .ringReserve ⟨0, 0, 0, 0, 0, 58, .ext { Word1.zero with sub := 0 } ⟨0, 15⟩⟩),
    ([0b0_0_000_000000_000001_000000_1111010_10#32, 0b00000_0_0_0_0_0_0_0_0_000_0000_000001_000000#32, 0b00000000_000000000000000000001111#32], .ringCommit ⟨0, 0, 0, 0, 1, 0, .ext { Word1.zero with sub := 1 } ⟨0, 15⟩⟩),
    ([0b0_0_000_000000_000001_111010_1111010_10#32, 0b00000_0_0_0_0_0_0_0_0_000_0000_000010_000000#32, 0b00000000_000000000000000000000000#32], .ringWait ⟨0, 0, 0, 0, 1, 58, .ext { Word1.zero with sub := 2 } Word2.zero⟩),
    ([0b0_0_000_000000_000001_000000_1111010_10#32, 0b00000_0_0_0_0_0_0_0_0_000_0000_000011_000000#32, 0b00000000_000000000000000000000001#32], .ringFree ⟨0, 0, 0, 0, 1, 0, .ext { Word1.zero with sub := 3 } ⟨0, 1⟩⟩),
    ([0b0_0_000_000000_000000_111111_1111010_10#32, 0b00000_0_0_0_0_0_0_0_0_000_0000_000100_000000#32, 0b00000000_000000000000000000000010#32], .ringQuery ⟨0, 0, 0, 0, 0, 63, .ext { Word1.zero with sub := 4 } ⟨0, 2⟩⟩),
    ([0b0_0_000_000000_000000_000000_1111010_10#32, 0b00000_0_0_0_0_0_0_0_0_000_0000_000101_000000#32, 0b00000000_000000000000000000000111#32], .ringLogwait ⟨0, 0, 0, 0, 0, 0, .ext { Word1.zero with sub := 5 } ⟨0, 7⟩⟩),
    ([0b0_0_000_000000_000000_000011_1111010_10#32, 0b00000_0_0_0_0_0_0_0_0_000_0000_000110_000000#32, 0b00000000_000000000000000000000111#32], .ringLogpop ⟨0, 0, 0, 0, 0, 3, .ext { Word1.zero with sub := 6 } ⟨0, 7⟩⟩),
    ([0b0_0_000_000010_000001_000000_1111011_10#32, 0b00000_0_0_0_0_0_0_0_0_000_0000_000000_000100#32, 0b00000000_000000000000000000000000#32], .tcopy ⟨0, 0, 0, 2, 1, 0, .ext { Word1.zero with sub := 0, c := 4 } Word2.zero⟩),
    ([0b0_0_000_000010_000001_000000_1111011_10#32, 0b00000_0_0_0_0_0_0_0_0_000_0000_000001_000100#32, 0b00000000_000000000000000000000000#32], .tcopyMc ⟨0, 0, 0, 2, 1, 0, .ext { Word1.zero with sub := 1, c := 4 } Word2.zero⟩),
    ([0b0_0_000_000010_000001_000000_1111011_10#32, 0b00000_0_0_0_0_0_0_0_0_000_0000_000010_000100#32, 0b00000000_000000000000000000000000#32], .tcopyCh ⟨0, 0, 0, 2, 1, 0, .ext { Word1.zero with sub := 2, c := 4 } Word2.zero⟩),
    ([0b0_0_000_000010_000001_000000_1111011_10#32, 0b00000_0_0_0_0_0_0_0_0_000_0000_000011_000100#32, 0b00000000_000000000000000000000000#32], .gthr ⟨0, 0, 0, 2, 1, 0, .ext { Word1.zero with sub := 3, c := 4 } Word2.zero⟩),
    ([0b0_0_000_000000_000000_000000_1111011_10#32, 0b00000_0_0_0_0_0_0_0_0_000_0000_000100_000000#32, 0b00000000_000000000000000000000000#32], .cquiesce ⟨0, 0, 0, 0, 0, 0, .ext { Word1.zero with sub := 4 } Word2.zero⟩),
    ([0b0_0_000_000010_000000_000000_1111011_10#32, 0b00011_0_0_0_0_0_0_0_0_000_0000_000100_000000#32, 0b00000000_000000000000000000001111#32], .cquiesceSet ⟨0, 0, 0, 2, 0, 0, .ext { Word1.zero with sub := 4, mod := 3 } ⟨0, 15⟩⟩)] = true := by decide +kernel

/-- R84, R263, R324: words written out from the layouts, the fields in the order of the format. -/
theorem test_decode_matrix : decodesTo [
    ([0b0_0_000_000010_000001_001111_1111100_10#32, 0b01010_0_0_0_0_0_0_0_0_000_0000_000000_000000#32, 0b00000000_000000000001000000001000#32], .mma ⟨0, 0, 0, 2, 1, 15, .ext { Word1.zero with sub := 0, mod := 10 } ⟨0, 4104⟩⟩),
    ([0b0_0_000_000000_000000_001111_1111100_10#32, 0b00001_0_0_0_0_0_0_0_0_000_0000_000001_000000#32, 0b00000000_000000000000000000000000#32], .mzero ⟨0, 0, 0, 0, 0, 15, .ext { Word1.zero with sub := 1, mod := 1 } Word2.zero⟩),
    ([0b0_0_000_000010_000001_000011_1111100_10#32, 0b00000_0_0_0_0_0_0_0_0_000_0000_000010_000100#32, 0b00000000_000000000000000000000000#32], .mdrain ⟨0, 0, 0, 2, 1, 3, .ext { Word1.zero with sub := 2, c := 4 } Word2.zero⟩),
    ([0b0_0_000_000000_000000_000011_1111100_10#32, 0b00001_0_0_0_0_0_0_0_0_000_0000_000010_000100#32, 0b00000000_000000000000000000001111#32], .mdrainRing ⟨0, 0, 0, 0, 0, 3, .ext { Word1.zero with sub := 2, c := 4, mod := 1 } ⟨0, 15⟩⟩),
    ([0b0_0_000_000000_000001_000000_1111100_10#32, 0b00000_0_0_0_0_0_0_0_0_000_0000_000011_000000#32, 0b00000000_000000000000000000000000#32], .epibind ⟨0, 0, 0, 0, 1, 0, .ext { Word1.zero with sub := 3 } Word2.zero⟩),
    ([0b0_0_000_000010_000001_000011_1111100_10#32, 0b00000_0_0_0_0_0_0_0_0_000_0000_000100_000000#32, 0b00000000_000000000000000000000000#32], .mload ⟨0, 0, 0, 2, 1, 3, .ext { Word1.zero with sub := 4 } Word2.zero⟩),
    ([0b0_0_000_000000_000000_000000_1111100_10#32, 0b00000_0_0_1_0_0_0_0_0_000_0000_000101_000000#32, 0b00000000_000000000000000000000000#32], .msync ⟨0, 0, 0, 0, 0, 0, .ext { Word1.zero with sub := 5, fs := 1 } Word2.zero⟩),
    ([0b0_0_000_000000_000001_000011_1111101_10#32, 0b00000_0_0_0_0_0_0_0_0_000_0000_000000_000000#32, 0b00000000_000000000000000000000000#32], .voci ⟨0, 0, 0, 0, 1, 3, .ext { Word1.zero with sub := 0 } Word2.zero⟩),
    ([0b0_0_000_000010_000001_000011_1111101_10#32, 0b00001_0_0_0_0_0_0_0_0_000_0000_000000_000000#32, 0b00000000_000000000000000000000000#32], .vociSpill ⟨0, 0, 0, 2, 1, 3, .ext { Word1.zero with sub := 0, mod := 1 } Word2.zero⟩),
    ([0b0_0_000_000010_000001_000011_1111101_10#32, 0b00010_0_0_0_0_0_0_0_0_000_0000_000001_000100#32, 0b00000000_000000000000000001000000#32], .vocf ⟨0, 0, 0, 2, 1, 3, .ext { Word1.zero with c := 4, sub := 1, mod := 2 } ⟨0, 64⟩⟩),
    ([0b0_0_000_000010_000001_000011_1111101_10#32, 0b00000_0_0_0_0_0_0_0_0_000_0000_000010_000100#32, 0b00000000_000000000000000001000000#32], .vocb ⟨0, 0, 0, 2, 1, 3, .ext { Word1.zero with c := 4, sub := 2 } ⟨0, 64⟩⟩),
    ([0b0_0_000_000000_000001_000011_1111101_10#32, 0b00000_0_0_0_0_0_0_0_0_000_0000_000011_000000#32, 0b00000000_000000000000000000000000#32], .vocm ⟨0, 0, 0, 0, 1, 3, .ext { Word1.zero with sub := 3 } Word2.zero⟩),
    ([0b0_0_000_000000_000001_000011_1111101_10#32, 0b00000_0_0_0_0_0_0_0_0_000_0000_000100_000000#32, 0b00000000_000000000000000000000000#32], .vocr ⟨0, 0, 0, 0, 1, 3, .ext { Word1.zero with sub := 4 } Word2.zero⟩)] = true := by decide +kernel

/-- R72, R84, R304: words written out from the layouts, the fields in the order of the format. -/
theorem test_decode_fabric : decodesTo [
    ([0b0_0_000_000010_000001_000000_1111110_10#32, 0b00000_0_0_0_0_0_0_0_0_000_0000_000000_000100#32, 0b00000000_000000000000000000000000#32], .put ⟨0, 0, 0, 2, 1, 0, .ext { Word1.zero with c := 4, sub := 0 } Word2.zero⟩),
    ([0b0_0_000_000010_000001_000011_1111110_10#32, 0b00000_0_0_0_0_0_0_0_0_000_0000_000001_000100#32, 0b00000000_000000000000000000000001#32], .putsig ⟨0, 0, 0, 2, 1, 3, .ext { Word1.zero with c := 4, sub := 1 } ⟨0, 1⟩⟩),
    ([0b0_0_000_000010_000001_000000_1111110_10#32, 0b00000_0_0_0_0_0_0_0_0_000_0000_000010_000100#32, 0b00000000_000000000000000000000000#32], .get ⟨0, 0, 0, 2, 1, 0, .ext { Word1.zero with c := 4, sub := 2 } Word2.zero⟩),
    ([0b0_0_000_000010_000001_000000_1111110_10#32, 0b00000_0_0_0_0_0_0_0_0_000_0000_000011_000000#32, 0b00000011_000000000000000000000000#32], .radd ⟨0, 0, 0, 2, 1, 0, .ext { Word1.zero with sub := 3 } ⟨3, 0⟩⟩),
    ([0b0_0_000_000010_000001_000000_1111110_10#32, 0b00010_0_0_0_0_0_0_0_0_000_0110_000011_000100#32, 0b00000010_000000000000000000000000#32], .raddSequenced ⟨0, 0, 0, 2, 1, 0, .ext { Word1.zero with c := 4, sub := 3, ty := 6, mod := 2 } ⟨2, 0⟩⟩),
    ([0b0_0_000_000010_000001_000011_1111110_10#32, 0b00001_0_0_0_0_0_0_0_0_000_0000_000100_000000#32, 0b00000000_000000000000000000000000#32], .sigwait ⟨0, 0, 0, 2, 1, 3, .ext { Word1.zero with sub := 4, mod := 1 } Word2.zero⟩),
    ([0b0_0_000_000000_000001_000011_1111110_10#32, 0b00000_0_0_0_0_0_0_0_0_000_0000_000101_000000#32, 0b00000000_000000000000000000000000#32], .sigread ⟨0, 0, 0, 0, 1, 3, .ext { Word1.zero with sub := 5 } Word2.zero⟩),
    ([0b0_0_000_000000_000001_000000_1111110_10#32, 0b00000_0_0_0_0_0_0_0_0_000_0000_000110_000000#32, 0b00000000_000000000000000000001111#32], .coll ⟨0, 0, 0, 0, 1, 0, .ext { Word1.zero with sub := 6 } ⟨0, 15⟩⟩),
    ([0b0_0_000_000000_000000_000011_1111110_10#32, 0b00000_0_0_0_0_0_0_0_0_000_0000_000111_000000#32, 0b00000000_000000000000000000001111#32], .collwait ⟨0, 0, 0, 0, 0, 3, .ext { Word1.zero with sub := 7 } ⟨0, 15⟩⟩),
    ([0b0_0_000_000010_000001_000000_1111110_10#32, 0b00000_0_0_0_0_0_0_0_0_000_0000_001000_000100#32, 0b00000000_000000000000000000000000#32], .seal ⟨0, 0, 0, 2, 1, 0, .ext { Word1.zero with c := 4, sub := 8 } Word2.zero⟩),
    ([0b0_0_000_000000_000001_000000_1111110_10#32, 0b00000_0_0_0_0_0_0_0_0_000_0000_001001_000000#32, 0b00000000_000000000000000000000000#32], .unseal ⟨0, 0, 0, 0, 1, 0, .ext { Word1.zero with sub := 9 } Word2.zero⟩),
    ([0b0_0_000_000000_000001_000000_1111110_10#32, 0b00000_0_0_0_0_0_0_0_0_000_0000_010000_000000#32, 0b00000000_000000000000000000000000#32], .qspawn ⟨0, 0, 0, 0, 1, 0, .ext { Word1.zero with sub := 16 } Word2.zero⟩),
    ([0b0_0_000_000000_000001_000000_1111110_10#32, 0b00001_0_0_0_0_0_0_0_0_000_0000_010000_000100#32, 0b00000000_000000000000000000000000#32], .qspawnV ⟨0, 0, 0, 0, 1, 0, .ext { Word1.zero with c := 4, sub := 16, mod := 1 } Word2.zero⟩),
    ([0b0_0_000_000010_000001_000011_1111110_10#32, 0b00000_0_0_0_0_0_0_0_0_000_0000_010001_000000#32, 0b00000000_000000000000000000000000#32], .qsteal ⟨0, 0, 0, 2, 1, 3, .ext { Word1.zero with sub := 17 } Word2.zero⟩),
    ([0b0_0_000_000010_000001_000011_1111110_10#32, 0b00000_0_0_0_0_0_0_0_0_000_0000_010010_000000#32, 0b00000000_000000000000000000000000#32], .qtake ⟨0, 0, 0, 2, 1, 3, .ext { Word1.zero with sub := 18 } Word2.zero⟩),
    ([0b0_0_000_000000_000001_000011_1111110_10#32, 0b00000_0_0_0_0_0_0_0_0_000_0000_010011_000000#32, 0b00000000_000000000000000000000000#32], .glaunch ⟨0, 0, 0, 0, 1, 3, .ext { Word1.zero with sub := 19 } Word2.zero⟩),
    ([0b0_0_000_000000_000001_000000_1111110_10#32, 0b00000_0_0_0_0_0_0_0_0_000_0000_010100_000000#32, 0b00000000_000000000000000000000000#32], .gjoin ⟨0, 0, 0, 0, 1, 0, .ext { Word1.zero with sub := 20 } Word2.zero⟩),
    ([0b00000000000_0000_0110_1_010_1111111_10#32, 0b0_000000_000010_000001_000011_1001000#32, 0b1_000000_000101_000110_000111_0111001#32], .pair ⟨0, 0, 6, 1, 2, ⟨0, 0, 2, 1, 3, 0x48⟩, ⟨1, 0, 5, 6, 7, 0x39⟩⟩)] = true := by decide +kernel

/-! ### Witnesses

Each `witness_<name>` gives, clause by clause, a state and operands that meet the hypotheses of the statement of that name. -/

/-- A machine in which group 0 of team 0, in context 1, issues; one page of memory is mapped, and the link is up. -/
def base : State :=
  let s := State.reset.withProgram [0]
  { s with hst := { s.hst with link := 2 } }

/-- `base` with its group, its team and then the machine changed. -/
def mk (fg : Group → Group := id) (ft : Team → Team := id) (fs : State → State := id) : State :=
  fs { base with teams := base.teams.map fun x => (x.1, ft { x.2 with groups := x.2.groups.map fg }) }

/-- The issuing group of `s`, with its team and number, meets `P`. -/
def at_ (s : State) (P : GRef → Team → Group → Bool) : Bool := match s.current with | some (r, t, g) => P r t g | none => false

/-- The outcome is a next state. -/
def nexts (o : Host.Outcome State Fault Refusal) : Bool := match o with | .next _ => true | _ => false

/-- The value of a result meets `P`. -/
def oks {ε α : Type} (x : Except ε α) (P : α → Bool) : Bool := match x with | .ok a => P a | .error _ => false

/-- The error of a result meets `P`. -/
def errs {ε α : Type} (x : Except ε α) (P : ε → Bool) : Bool := match x with | .ok _ => false | .error e => P e

/-- The value that is present meets `P`. -/
def has {α : Type} (x : Option α) (P : α → Bool) : Bool := match x with | some a => P a | none => false

/-- Format BR of the test machine: s3, s1, s2 and v3, v1, v2. -/
def f0 : FmtBR := br .base

/-- The state meets the hypotheses common to the statements about an instruction. -/
theorem witness_current : at_ base (fun r t g => r = ⟨0, 0⟩ && t.index = 0 && g.mask = Mask.all && base.linkUp) = true := by decide +kernel

theorem witness_ScalarResults : (at_ base fun _ _ _ => true) = true := by decide +kernel

/-- R145: neither DZT nor a zero divisor; a zero divisor with DZT; the one quotient that does not fit. -/
theorem witness_DivisionResults :
    (at_ base fun _ _ g => g.opS f0 false = 0 && !g.cfg.getLsbD 1) = true ∧
    (at_ (mk fun g => { g with cfg := 2 }) fun _ _ g => g.opS f0 false = 0 && g.cfg.getLsbD 1) = true ∧
    (at_ (mk fun g => { (g.setS 1 0x8000000000000000).setS 2 0xFFFFFFFFFFFFFFFF with cfg := 2 }) fun _ _ g =>
      f0.sub ≠ 1 && g.s 1 = 0x8000000000000000 && g.opS f0 false = 0xFFFFFFFFFFFFFFFF) = true := by decide +kernel

theorem witness_ScmpResult : (at_ base fun _ _ _ => true) = true ∧
    (∀ d ∈ [0, 1, 7], wellFormed (.scmp ⟨0, 0, 0, 2, 1, BitVec.ofNat 6 d, .ext Word1.zero Word2.zero⟩) = true) := by decide +kernel

theorem witness_PredicateResults : (at_ base fun _ _ _ => true) = true := by decide +kernel

/-- R33, R34, R66: the first and last scalar, mask, predicate and vector registers, and another beside each; the last lane. -/
theorem witness_RegisterFile :
    (∀ d ∈ [0, 59], d < 60) ∧ (∀ d ∈ [60, 62], 60 ≤ d ∧ d < 63) ∧ (62 : Nat) ≠ 63 ∧ (∀ d ∈ [1, 7], 0 < d ∧ d < 8) ∧ (63 : Nat) < 64 ∧ (95 : Nat) < 96 := by
  decide

theorem witness_NextSlot :
    (at_ (mk fun g => { g with clause := some ⟨0, 1, 2, 0, [4, 4], 0⟩ }) fun _ _ g =>
      (has g.clause fun c => c.slot + 1 < c.count) && g.mask ≠ 0) = true ∧ (at_ base fun _ _ _ => true) = true := by decide +kernel

/-- R137: a held stack, and an instruction that answers a next state. -/
def held (s : State) (i : Instr) : Bool :=
  at_ s fun _ _ g => g.divSpilled = 0 && g.divTop.length ≤ 16 && nexts (exec i s)

theorem witness_ScalarFrame :
    (∀ i ∈ ([.sadd f0, .sdiv f0, .srem f0, .ballot f0, .pmovToScalar f0, .scmp f0, .pmovToPredicate f0, .ptest f0] : List Instr), held base i = true) ∧
    (∀ i ∈ ([.sdiv f0, .srem f0] : List Instr), held (mk fun g => { g with cfg := 2, trapvec := 0x400000 }) i = true) := by decide +kernel

theorem witness_VectorIntegerResults : (at_ base fun _ _ _ => true) = true := by decide +kernel

/-- R172, R173: a NaN operand; a flag that is full, one that is not with no lane selected, and one with lanes. -/
theorem witness_VectorFloatResults :
    (at_ (mk fun g => g.setV 1 Mask.all fun _ => 0x7FC00000) fun _ _ g => fopA f0 g 0 0 = .nan) = true ∧
    (at_ (mk fun g => { g with flag := g.flag.set 0 63 }) fun _ _ g => g.flagFull false) = true ∧
    (at_ (mk fun g => g.setMask 0) fun _ _ g => !g.flagFull false && (g.sel f0).lanes = []) = true ∧
    (at_ base fun _ _ g => !g.flagFull false && (g.sel f0).lanes ≠ []) = true := by decide +kernel

/-- A conversion with TYPE `ty` and MOD `mod`. -/
def conv (ty mod : Nat) : FmtBR := ⟨0, 0, 0, 0, 1, 3, .ext { Word1.zero with ty := BitVec.ofNat 4 ty, mod := BitVec.ofNat 5 mod } Word2.zero⟩

/-- R43, R175 to R179: a mode that is not stochastic, and the stochastic one, taken from %cvm; each type and each destination, the last part of a
word among them. -/
theorem witness_ConversionResults :
    (at_ base fun _ _ g => roundCode 0 g.cvm (cvtDst 2) ≠ 5) = true ∧ (at_ (mk fun g => { g with cvm := 5 }) fun _ _ g => roundCode 0 g.cvm (cvtDst 2) = 5) = true ∧
    ([(4, 0), (5, 1), (6, 2), (7, 3), (8, 4), (6, 28), (4, 24)].all fun p => wellFormed (.vfcvt (conv p.1 p.2))) = true ∧
    ([(0, 0), (1, 1), (2, 2), (3, 3), (4, 4), (5, 5), (4, 6), (5, 7), (6, 29), (7, 13), (8, 12), (5, 30)].all fun p => wellFormed (.vicvt (conv p.1 p.2))) = true ∧
    ([(7, 0), (8, 0), (6, 1), (6, 10), (6, 3), (6, 4), (6, 5), (6, 6), (6, 7)].all fun p => wellFormed (.vfpack (conv p.1 p.2))) = true := by
  decide +kernel

/-- R180 to R184: a lane that is selected, on FP keys and integers. -/
theorem witness_CrossLaneResults : (at_ base fun _ _ g => (g.sel f0).bit 95) = true ∧ (brX { Word1.zero with ty := 6 }).ty = 6 := by decide +kernel

theorem witness_BroadcastAndRotate : (at_ base fun _ _ _ => true) = true := by decide +kernel

/-- R73: X with OP `x` from v1 and v2 to v3, and Y with OP `y` from v1 and `b` to v4. -/
def pairOf (x y : BitVec 7) (tx ty : BitVec 4) (b : BitVec 6) : FmtPair := ⟨0, ty, tx, 0, 0, ⟨0, 0, 2, 1, 3, x⟩, ⟨0, 0, b, 1, 4, y⟩⟩

/-- R74: well-formed pairs of each kind of Y; an SFU operation with a full flag, with room, and with no lane selected. -/
theorem witness_PairResult :
    ([((0x30 : BitVec 7), (0 : BitVec 4)), (0x48, 6)].all fun x => [((0x35 : BitVec 7), (0 : BitVec 4), (2 : BitVec 6)), (0x47, 0, 0), (0x4E, 6, 2), (0x50, 6, 0),
      (0x57, 6, 0)].all fun y => wellFormed (.pair (pairOf x.1 y.1 x.2 y.2.1 y.2.2))) = true ∧
    (at_ (mk fun g => { g with flag := g.flag.set 0 63 }) fun _ _ g => g.flagFull false) = true ∧ (at_ base fun _ _ g => !g.flagFull false) = true ∧
    (at_ (mk fun g => g.setMask 0) fun _ _ g => (g.sel f0).lanes = []) = true := by decide +kernel

theorem witness_VectorFrame :
    (∀ i ∈ ([.vadd f0, .vfadd f0, .vshuf f0, .ateval f0, .vcmp f0, .vfcmp f0, .vred f0, .vcompact f0, .vmatch f0, .vfcvt f0, .pair (pairOf 0x30 0x35 0 0 2)] : List Instr),
      held base i = true) ∧ (held (mk fun g => g.setMask 0) (.vfrcp f0) = true) := by decide +kernel

/-- The group at a clause boundary. -/
def atHeader : State := mk fun g => { g with clause := none }

theorem witness_SequencerResults :
    (at_ base fun _ _ g => g.flagsClear 2 && g.clause.isSome && g.mask ≠ 0 && g.divSpilled = 0 && g.divTop = []) = true ∧
    (at_ (mk fun g => { g with flag := g.flag.set 1 1 }) fun _ _ g => g.flagsClear 2 = false) = true ∧
    (∀ w ∈ [(0, true), (2, false)], (at_ (mk fun g => { g with clause := none, flag := g.flag.set 1 1 }) fun r t g =>
      let f : FmtBC := ⟨0, 1, 0, BitVec.ofNat 12 w.1⟩
      g.clause = none && g.resume = none && firstBad (clauseChecks f) = none && (g.flagsClear f.wait == w.2) &&
      oks (base.readClause t t.shape.v (t.shape.roleOf r.grp) (f.count.toNat + 1) (g.pc.toNat + 4) 0 (f.count.toNat + 1)) fun _ => true) = true) ∧
    (at_ (mk id fun t => { t with isTask := false }) fun _ t _ => t.isTask = false) = true ∧
    (at_ (mk fun g => g.setS 1 1) fun _ t g => t.isTask && (g.s 1).toNat % 64 ≠ 0) = true ∧
    (∀ n ∈ [0, 1], (at_ (mk (fun g => g.setS 1 0x400000) fun t => { t with successor := if n = 0 then none else some 0x400000 }) fun _ t g =>
      t.isTask && (g.s 1).toNat % 64 = 0 && (t.successor = none || t.successor = some (g.s 1)) &&
      oks (base.where_ t.coreN (g.s 1) 64) fun _ => true) = true) ∧
    (let s := mk fun g => { g with sleepUntil := some 0 };
      has (s.group? ⟨0, 0⟩) fun g => has g.sleepUntil fun n => n ≤ s.ref) = true := by decide +kernel

/-- The group with half its lanes true in p1, its stack as given. -/
def halves (st : List DivEntry) : State := mk fun g => { g.setP 1 0xFFFFFFFFFFFF with divTop := st }

theorem witness_BranchResults :
    (at_ base fun _ _ g => g.mask &&& g.guard 1 0 = 0 && g.mask &&& g.guard 0 0 ≠ 0 && g.mask &&& ~~~(g.guard 0 0) = 0) = true ∧
    (at_ (halves []) fun _ _ g => g.mask &&& g.guard 1 0 ≠ 0 && g.mask &&& ~~~(g.guard 1 0) ≠ 0 && !g.cfg.getLsbD 0 && g.divSpilled = 0 &&
      g.divTop = []) = true ∧
    (∀ x ∈ [(-1, true), (0, false)], (at_ base fun _ t g => oks (base.fetchWord t (g.here + ((BitVec.ofInt 24 x.1).signExtend 64 <<< 2)).toNat) fun w =>
      isHeader w.1 = x.2) = true) ∧
    (∀ a ∈ [0, 2 ^ 56 - 4], a % 4 = 0 ∧ a < 2 ^ 56) ∧ (2 ^ 56 % 4 = 0 ∧ 2 ^ 56 ≤ 2 ^ 56) ∧ 2 ^ 56 % 4 ≠ 1 ∧ (2 ^ 56 + 1) % 4 ≠ 0 ∧
    (at_ (halves (List.replicate 15 ⟨0, 1, .path⟩)) fun _ _ g => g.divSpilled = 0 && g.divTop.length < 16 && g.divTop.all (·.kind ≠ .call)) = true ∧
    (at_ (halves (⟨0, 1, .path⟩ :: ⟨0, 1, .call⟩ :: List.replicate 14 ⟨0, 1, .join⟩)) fun _ _ g => g.divSpilled = 0 && g.divTop.length ≤ 16 &&
      (g.divTop.take 1).all (·.kind ≠ .call) && has g.divTop[1]? (·.kind = .call)) = true := by decide +kernel

theorem witness_TrapEntry :
    (at_ (mk fun g => { g with trapvec := 0x400000 }) fun _ _ g => !g.intrap && g.trapvec ≠ 0 && g.mask ≠ 0 && g.divSpilled = 0 && g.divTop = []) = true ∧
    (∀ b ∈ [true, false], (at_ (mk fun g => { g with intrap := b }) fun _ t g => (g.intrap || g.trapvec = 0) &&
      has (base.ctx? t.ctx) fun c => c.state = .live && c.pending = none) = true) ∧
    (at_ base fun _ _ g => g.intrap = false) = true ∧
    (at_ (mk fun g => { g with intrap := true, divTop := List.replicate 16 ⟨0, 1, .path⟩ }) fun _ _ g => g.intrap && g.divSpilled = 0 &&
      g.divTop.length ≤ 16) = true := by decide +kernel

theorem witness_SpecialRegisterReads :
    (at_ base fun _ _ _ => true) = true ∧ cvmOk 0 = true ∧ cvmOk 7 = false ∧ cfgOk 0 = true ∧ cfgOk 0x8000000000000000 = false ∧
    ((2 : Nat) ^ 56 - 4) % 4 = 0 ∧
    wellFormed (.srd ⟨0, 0x26, 3⟩) = true ∧ ([(0x12 : Nat), 0x00, 0x26].all fun n => wellFormed (.swr ⟨0, BitVec.ofNat 8 n, 3⟩)) = true := by decide +kernel

theorem witness_ControlFrame :
    (∀ i ∈ ([.nop 0, .jmp 0, .yield 0, .ret 0, .waitf ⟨0, 2⟩, .sleep ⟨1, 0, 0⟩, .exit f0, .brx f0, .exitS f0, .clause ⟨0, 1, 0, 0⟩,
      .sleepExpiry ⟨0, 0⟩, .bra ⟨0, 1, 0, 1⟩, .call 1, .srd ⟨0, 0, 3⟩, .srd ⟨0, 0x25, 3⟩, .swr ⟨0, 0x10, 3⟩] : List Instr), held base i = true) ∧
    (at_ base fun _ _ g => g.divTop.length ≤ 14) = true := by decide +kernel

/-- A team with 8 KiB of memory, and its table unit as given. -/
def tables (u : TableUnit) (q : List AtLoad) (a : DWord) (m : Mask) : State :=
  mk (fun g => (g.setS 1 a).setMask m) fun t => { t with shape := { t.shape with mem := 8192 }, unit := u, atq := q }

theorem witness_TableResults :
    (at_ (tables .idle [] 0 0) fun _ _ g => !g.waiting && g.sel f0 = 0) = true ∧
    (at_ (tables .idle [] 4080 Mask.all) fun _ t g => !g.waiting && g.sel f0 ≠ 0 && (g.s 1).toNat % 16 = 0 && (g.s 1).toNat + tableBytes ≤ t.shape.mem) = true ∧
    (at_ (tables .idle [] 8 Mask.all) fun _ _ g => g.sel f0 ≠ 0 && (g.s 1).toNat % 16 ≠ 0) = true ∧
    (at_ (tables .idle [] 4096 Mask.all) fun _ t g => g.sel f0 ≠ 0 && (g.s 1).toNat % 16 = 0 && t.shape.mem < (g.s 1).toNat + tableBytes) = true ∧
    (let s := tables .idle [⟨0, 0⟩] 0 Mask.all;
      has (s.team? 0) fun t => t.unit = .idle && t.atq = [⟨0, 0⟩] && t.core ≠ none && s.bankUsed 0 (1 - t.cur) = false) = true ∧
    (∀ p ∈ [(1, true), (0, false)], (let s := tables (.writing 0 p.1 (if p.2 then List.replicate 12 2 else [])) [] 0 Mask.all;
      has (s.team? 0) fun t => (match t.unit with | .writing g b img => t.groups[g]?.isSome && b = p.1 && tableBad img = p.2 | _ => false)) = true) := by
  decide +kernel

/-- The group with lane 0 active and `a` in s1. -/
def addressed (a : DWord) : State := mk fun g => (g.setMask 1).setS 1 a

/-- LD and ST of 32 bits at s1, LDS and ATOM at s1. -/
def fLd : FmtBR := ⟨0, 0, 0, 0, 1, 3, .ext Word1.zero ⟨10, 0⟩⟩
def fAt (sub : BitVec 6) : FmtBR := ⟨0, 0, 0, 2, 1, 3, .ext { Word1.zero with sub := sub } ⟨2, 0⟩⟩

/-- One unit: of a scratchpad, or of memory. -/
def oneUnit (spad : Bool) (us : List LaneUnit) : Bool :=
  match us with
  | [⟨_, _, .spad _, _⟩] => spad
  | [⟨_, _, .phys _ _ _, _⟩] => !spad
  | _ => false

/-- The issuing group of `s` may access one unit at s1. -/
def accesses (s : State) (n : Nat) (k : AccKind) (spad stalled : Bool) : Bool :=
  at_ s fun r t g => oks (s.checkOne t r.grp 0 n k (g.s 1).toNat) fun us => oneUnit spad us && s.memStalled r g false false n us = stalled
    && s.outstanding r = [] && (us.all fun u => match u.unit with | .phys p _ _ => s.l1Take r t.coreN k.atom p n = none && p.pa % 128 + n ≤ 128 | _ => true) && !s.late

/-- As `accesses`, for LD and ST. -/
def accessesV (s : State) (k : AccKind) (P : List LaneUnit → Bool) : Bool :=
  at_ s fun r t g => oks (s.checkAll t r.grp fLd.mod.toNat (accBytes fLd) k ((g.sel fLd).lanes.map fun l => (l, laneX fLd g l))) fun us =>
    P us && !s.memStalled r g false false (accBytes fLd) us

/-- An address in the team's memory, and one in the mapped page. -/
def spadN : Nat := 0x4000000000000000
def pageN : Nat := 0x400100
def spadAt : DWord := BitVec.ofNat 64 spadN
def pageAt : DWord := BitVec.ofNat 64 pageN

/-- The same, with its flag full. -/
def flagged (s : State) : State :=
  { s with teams := s.teams.map fun x => (x.1, { x.2 with groups := x.2.groups.map fun g => { g with flag := g.flag.set 0 63 } }) }

theorem witness_LoadResults :
    (∀ a ∈ [(spadN, true), (pageN, false)], ∀ n ∈ [4, 8], accesses (addressed (BitVec.ofNat 64 a.1)) n { write := false } a.2 false = true ∧
      accesses (flagged (addressed (BitVec.ofNat 64 a.1))) n { write := false } a.2 true = true) ∧
    (∀ a ∈ [(spadN, true), (pageN, false)], accessesV (addressed (BitVec.ofNat 64 a.1)) { write := false } (oneUnit a.2) = true) ∧
    accessesV (mk fun g => g.setMask 0) { write := false } (· = []) = true ∧
    (at_ (addressed pageAt) fun _ t g => !g.flagFull false && oks (base.where_ t.coreN (g.s 1) 1) fun w => match w with | .virt _ _ => true | _ => false) = true ∧
    (at_ base fun r t _ => oks (base.space t r.grp 0 0x400001) fun a => oks (base.where_ t.coreN a 4) fun _ => a.toNat % 4 ≠ 0) = true := by
  decide +kernel

theorem witness_StoreResults :
    (∀ a ∈ [(spadN, true), (pageN, false)], ∀ n ∈ [4, 8], accesses (addressed (BitVec.ofNat 64 a.1)) n { write := true } a.2 false = true ∧
      accesses (flagged (addressed (BitVec.ofNat 64 a.1))) n { write := true } a.2 true = true) ∧
    (∀ a ∈ [(spadN, true), (pageN, false)], accessesV (addressed (BitVec.ofNat 64 a.1)) { write := true } (oneUnit a.2) = true) ∧
    accessesV (mk fun g => g.setMask 0) { write := true } (· = []) = true := by decide +kernel

theorem witness_AtomicResults :
    (∀ a ∈ [(spadN, true), (pageN, false)], accesses (addressed (BitVec.ofNat 64 a.1)) 4 { write := true, atom := true } a.2 false = true ∧
      accesses (addressed (BitVec.ofNat 64 a.1)) 4 { write := true, red := true } a.2 false = true) ∧
    accesses (addressed pageAt) 4 { write := true, red := true, seq := true } false false = true ∧ base.allDone [] = true := by decide +kernel

/-- Every instruction of the list answers a next state. -/
def heldAll (s : State) (l : List Instr) : Bool := l.all fun i => held s i

/-- The instructions of this section that R196 checks at s1. -/
def accessList : List Instr := [.ld fLd, .lds ⟨0, 1, 3⟩, .ldsExt (fAt 0), .st fLd, .sts ⟨0, 1, 3⟩, .stsExt (fAt 0), .atom (fAt 0), .red (fAt 0)]

theorem witness_MemoryIssueFrame :
    (addressed spadAt).memWf = true ∧ heldAll (addressed spadAt) accessList = true ∧ (addressed pageAt).memWf = true ∧
    heldAll (addressed pageAt) accessList = true ∧ heldAll (addressed pageAt) [.redFadd (fAt 8)] = true := by decide +kernel

/-- A request of the issuing group to the byte at `a`. -/
def req (a : Nat) (k : ReqKind) (op : Option Nat := none) : Req :=
  { owner := some ⟨0, 0⟩, ctx := 1, world := 2, core := 0, op := op, addr := a, kind := k, nc := false, after := [], phase := 0, stalled := false,
    va := a, lane := 0, hdr := 0x400000, slot := 0, msg := none }

/-- An outstanding instruction of the issuing group. -/
def op (k : OpKind := .plain) : Op :=
  { owner := ⟨0, 0⟩, flag := some 0, kind := k, need := [], acq := false, writes := [], hdr := 0x400000, slot := 0, far := false }

/-- `base` with request 5 outstanding, for instruction 6. -/
def sent (q : Req) : State := { base with reqs := [(5, q)], ops := [(6, { op .load with need := [5] })], nextId := 7 }

/-- The request at 5 is first, and waits for nothing. -/
def mayGo (s : State) (P : Req → Bool) : Bool := has (s.reqs.get? 5) fun q => s.allDone q.after && s.reqFirst 5 q && P q

theorem witness_HomeArrival :
    mayGo (sent (req 0 (.spadWrite [⟨0, [1], none⟩]))) (·.atSpad) = true ∧
    (let s := sent (req 0x400100 (.read [⟨0x400100, 4, false, 3, 0⟩]));
      mayGo { s with stk := { s.stk with fenced := [2] } } (fun q => !q.atSpad && has (State.homeBad { s with stk := { s.stk with fenced := [2] } } q.addr) fun _ => true) = true ∧
      mayGo s (fun q => !q.atSpad && (s.homeBad q.addr).isNone && q.isRead && !s.stk.migrating && q.phase = s.stk.mphase.toNat) = true ∧
      s.memWf = true ∧ s.partials = [] ∧ (s.ops.get? 6).isSome = true) ∧
    (let s := sent (req 0x400100 (.write [⟨0x400100, [1, 2], none⟩]));
      mayGo s (fun q => !q.atSpad && (s.homeBad q.addr).isNone && !q.isRead && !s.sealedAt q.addr && !s.stk.migrating) = true ∧
      (let u : State := { s with fab := { s.fab with seals := [⟨0x400000, 0x10000, 1, [0x40]⟩] } };
        mayGo u (fun q => !q.atSpad && (u.homeBad q.addr).isNone && !q.isRead && u.sealedAt q.addr) = true)) ∧
    (∀ k ∈ [ReqKind.write [⟨0x400100, [1], none⟩], .atom 9 8 1 2 63, .atom 0 4 1 0 3, .red 1 true 4 5], (sent (req 0x400100 k)).memWf = true ∧
      (sent (req 0x400100 k)).locks = [] ∧ (sent (req 0x400100 k)).l1 = [] ∧
      (sent (req 0x400100 k)).stk.mig.get? (frameOf 0x400100) ≠ some .drain) := by decide +kernel

theorem witness_HomeStoreFrame :
    let s := { sent (req 0x400100 (.write [⟨0x400100, [1, 2], none⟩])) with partials := [⟨1, 0x400200, 4, 0, false, 7, 1, 0⟩], l1 := [(0x400300 / 4, .d 9)] }
    s.memWf = true ∧ s.homeBad 0x400100 = none ∧ s.sealedAt 0x400100 = false ∧ nexts (exec (.homeRequestArrival 5) s) = true ∧
    (0x400102 < 0x400200 ∧ 0x400100 + 2 ≤ 0x400102 ∧ 0x400300 / 4 ∉ wordsOf 0x400100 2) := by decide +kernel

/-- A contribution to the word at 0x400100. -/
def contrib (i : Nat) (first : Bool) : Contrib :=
  { ctx := 1, world := 2, unit := 0x400100, index := i, bf16 := false, value := 0x3F800000, first := first, last := false, owner := some ⟨0, 0⟩,
    op := none, copy := none, held := false, waits := false, stalled := false, va := 0x400100, hdr := 0x400000, slot := 0, since := 0 }

/-- `base` at a later time, with these contributions outstanding. -/
def contribs (l : List Contrib) : State := { base with contribs := (List.range l.length).zip l, ref := 2 ^ 26 }

theorem witness_SequencedReductions :
    (let s := contribs [contrib 0 true]; has (s.contribs.get? 0) fun c => !c.held && !c.waits && s.homeBad c.unit = none && !s.stk.migrating && s.eligible c) = true ∧
    (let s := contribs [contrib 2 false]; has (s.contribs.get? 0) fun c => !c.held && !c.waits && !s.eligible c && s.reorderUsed (s.sliceOf c.unit) < 4096) = true ∧
    (let s := contribs [{ contrib 2 false with waits := true }]; has (s.contribs.get? 0) fun c => c.waits && s.reorderUsed (s.sliceOf c.unit) < 4096) = true ∧
    (let s := contribs [{ contrib 2 false with held := true }]; has (s.contribs.get? 0) fun c => c.held && !s.eligible c &&
      has (s.ctx? c.ctx) fun x => x.state = .live && x.pending = none && c.since + x.lookout ≤ s.ref) = true := by decide +kernel

theorem witness_SequencedReductions_full :
    (let s := contribs (contrib 2 false :: List.replicate 4096 { contrib 3 false with held := true });
      has (s.contribs.get? 0) fun c => !c.held && !c.waits && !s.eligible c && 4096 ≤ s.reorderUsed (s.sliceOf c.unit)) = true := by decide +kernel

/-- A fence of R113 has nothing to wait for; each kind of thing that one waits for. -/
theorem witness_FenceResults :
    (at_ base fun r _ _ => !base.loadsOut r && (base.outstanding r).isEmpty && !base.copiesOut r && !base.farOut r) = true ∧
    (let s := sent (req 0x400100 (.read [⟨0x400100, 4, false, 3, 0⟩]));
      at_ s fun r _ _ => s.loadsOut r && !(s.outstanding r).isEmpty) = true := by decide +kernel

/-- A barrier of team 0 that expects `n` and has `a` arrivals; whether its member, group 0, is in the phase. -/
def bar (n a : Nat) (inPhase : Bool) (last : Option Nat := none) : Barrier :=
  { id := 1, level := 0, grid := none, scope := 0, ctx := 1, expected := n, arrivals := a, phase := 0xFFFF, drops := 0,
    members := [⟨⟨0, 0⟩, last, inPhase, false, none⟩], ids := [], open_ := [], waiters := [], lookout := 0, inert := false }

/-- The team has declared barrier 1, kept under 7. -/
def barred (b : Barrier) (w : Bool := false) : State :=
  mk (fun g => { g with waiting := w }) (fun t => { t with bars := [(1, 7)] }) fun s => { s with bars := [(7, b)], ref := 2 ^ 26 }

def fBar : FmtBR := ⟨0, 0, 0, 0, 0, 0, .ext Word1.zero ⟨0, 1⟩⟩

theorem witness_BarrierResults :
    (∀ x ∈ [(2, 0, false), (1, 0, false), (2, 1, false), (2, 1, true)], (let s := barred (bar x.1 x.2.1 x.2.2);
      at_ s fun r t g => has (t.bars.get? fBar.w2.imm.toNat) fun k => has (s.bars.get? k) fun b => has (b.member? r) fun m =>
        !b.inert && !g.waiting && m.inPhase = x.2.2 && m.arrived = none) = true) ∧
    (let s := barred (bar 2 0 false) true;
      at_ s fun r t g => has (t.bars.get? fBar.w2.imm.toNat) fun k => has (s.bars.get? k) fun b => g.waiting && b.waiters.all fun w => w.1 ≠ r) = true ∧
    (at_ base fun _ t _ => t.bars.get? fBar.w2.imm.toNat = none) = true ∧
    (let p : BarPhase := ⟨0, []⟩; let s := { barred { bar 2 0 false with open_ := [⟨9, [5]⟩, p] } with reqs := [(5, req 0 (.read []))] };
      has (s.bars.get? 7) fun b => b.open_ = [⟨9, [5]⟩, p] && s.allDone [5] = false && s.allDone p.ids) = true ∧
    (let s := barred { bar 2 1 true with waiters := [(⟨0, 0⟩, 0xFFFF)], lookout := 2 ^ 26 } true;
      at_ s fun r _ g => has (s.bars.get? 7) fun b => b.waiters.any (fun w => w.1 = r) && g.waiting && g.waitFrom + 256 ≤ s.ref &&
        s.lookoutRuns b && has (s.ctx? b.ctx) fun c => c.state = .live && c.pending = none && c.lookout ≤ b.lookout) = true := by decide +kernel

/-- A lock of team 0. -/
def lock (h : Option GRef) (q : List LockWaiter) (pushing : Bool) : Lock :=
  { cluster := 0, grid := none, team := 0, id := 1, ctx := 1, ranges := [(0x400080, 128)], phys := [], holder := h, pushing := pushing, ids := [],
    queue := q }

/-- Lock 1 of team 0, kept under 7. -/
def locked (h : Option GRef) (q : List LockWaiter) (pushing : Bool := false) : State :=
  mk id (fun t => { t with locks := [(1, 7)] }) fun s => { s with locks := [(7, lock h q pushing)] }

theorem witness_LockResults :
    (∀ x ∈ [(none, [], false), (some ⟨0, 9⟩, [], false), (none, [⟨⟨0, 9⟩, 3⟩], false), (some ⟨0, 0⟩, [], true), (none, [⟨⟨0, 0⟩, 3⟩], true)],
      (let s := locked x.1 x.2.1;
        at_ s fun r t g => has (t.locks.get? fBar.w2.imm.toNat) fun k => has (s.locks.get? k) fun l => !g.flagFull false && l.has r = x.2.2 && !l.pushing) = true) ∧
    (let s := locked none [⟨⟨0, 0⟩, 3⟩];
      has (s.locks.get? 7) fun l => l.holder = none && !l.pushing && has l.queue.head? fun w => (s.team? w.who.team).isSome) = true ∧
    (let s := locked (some ⟨0, 0⟩) [] true; has (s.locks.get? 7) fun l => l.pushing && s.allDone l.ids && l.queue = []) = true := by decide +kernel

/-- Ring 1 of two slots in these states, with slot 0 at its tail, and logbook 1. -/
def ringed (a b : SlotState) (wr rd : Nat) (slot : DWord := 0) : State :=
  mk (fun g => g.setS 1 slot) fun t => { t with rings := [(1, ⟨2, 128, 0, 0, [a, b], [false, false]⟩)], logs := [(1, ⟨4, 512, wr, rd, none⟩)] }

/-- RING on s1 and s3. -/
def fRing : FmtBR := ⟨0, 0, 0, 0, 1, 3, .ext Word1.zero ⟨0, 1⟩⟩

theorem witness_RingResults :
    (∀ st ∈ [SlotState.f, .cs, .l, .lf], (at_ (ringed st .f 0 0) fun r t g => has (t.rings.get? fRing.w2.imm.toNat) fun x =>
      (t.relq.all fun q => !(q.grp = r.grp && q.ring = 1)) && (g.s 1).toNat % 16 < x.slots && x.at 0 = st && x.phaseOf 0 = (g.s 1).getLsbD 8 &&
      (x.claim .cs).isSome = (st == .f)) = true) ∧
    (at_ (ringed .f .f 0 0 2) fun _ t g => has (t.rings.get? 1) fun x => x.slots ≤ (g.s 1).toNat % 16) = true ∧
    (∀ p ∈ [(1, 0, true), (1, 1, false)], (at_ (ringed .f .f p.1 p.2.1) fun _ t _ => has (t.logs.get? fRing.w2.imm.toNat) fun x =>
      decide (x.rd < x.wr) = p.2.2) = true) ∧
    (at_ base fun _ t _ => t.rings.get? 1 = none && t.logs.get? 1 = none) = true := by decide +kernel

/-- 64 bytes of a descriptor of one byte: DRING and LOGEN, ring 1 and logbook 1, or neither. -/
def descr (ring log : Bool) : List Byte :=
  List.replicate 0x19 0 ++ [if ring then 0x80 else 0, if ring then 1 else 0, if log then 9 else 0] ++ List.replicate 36 0

/-- A copy of team 0, its descriptor read. -/
def cpy (d : List Byte) : Copy :=
  { team := 0, grp := 0, sub := 0, sdelta := 0x4000000000000040, ddelta := spadAt, cvm := 0, seed := 0, step0 := 0, hdr := 0x400000, slot := 0, op := none,
    descAt := 0, desc := some d, idx := [], after := [], started := false, aside := false, flags := 0, claim := none, recv := [], pos := 0, placed := 0,
    buf := [], need := [], fault := none, committed := false, token := 0, blockedFrom := none, asked := false, reads := [], data := none, parked := false }

/-- The machine with copy 5 and the rings of `ringed`. -/
def copying (c : Copy) (st : SlotState := .f) : State := { ringed st .f 0 0 with copies := [(5, c)], ref := 8192 }

/-- Copy 5 meets `P`, with its team. -/
def copyAt (s : State) (P : Team → Copy → CopyDesc → Bool) : Bool :=
  has (s.copies.get? 5) fun c => has (s.team? c.team) fun t => t.core ≠ none && has c.desc fun b => !c.parked && P t c (CopyDesc.parse b)

theorem witness_CopyIssue_issue :
    (∀ a ∈ [((0 : DWord), 0), (960, 0)], (at_ (mk fun g => g.setS 1 a.1) fun r t g => !g.flagFull false && (g.s 1).toNat % 64 = 0 && (g.s 2).toNat % 4 = 0 &&
      (g.s 1).toNat + 64 ≤ t.shape.mem && (base.copyQueue r.team).length < 16 && !base.quiesceOut r.team && !base.entryUsed t r.team 1 15 &&
      !base.entryUsed t r.team 2 0 && (g.s 2).toNat < 256) = true) ∧
    (at_ (mk fun g => g.setS 1 32) fun _ _ g => !g.flagFull false && (g.s 1).toNat % 64 ≠ 0) = true ∧
    (chainOf 0xFFFFFFFFFFFF0100).isSome = true := by decide +kernel

theorem witness_CopyIssue_place :
    (∀ p ∈ [(spadN + 64, true), (pageN, false)], copyAt (copying { cpy (descr false false) with sdelta := BitVec.ofNat 64 p.1 }) (fun t c d =>
      d.conv = 0 && d.rmode = 0 && d.etype ≤ 3 && !d.side && !d.dring && c.sub = 0 && d.sizes ≠ [] &&
      (oks (base.copyUnit t c.grp d.dsize d.dstKind d.dstk (c.effDst d) (d.dstOff 0)) fun x => match x.2 with | .spad _ => true | _ => false) &&
      oks (base.copyUnit t c.grp d.esize { write := false } d.srck (c.effSrc d) 0) fun x =>
        match x.2 with | .spad _ => p.2 | .phys _ _ _ => !p.2 | _ => false) = true) := by decide +kernel

theorem witness_CopyIssue_engine :
    (∀ p ∈ [(false, SlotState.f, true), (true, .f, true), (true, .ce, false)], (let s := copying (cpy (descr p.1 false)) p.2.1;
      copyAt s fun t c _ => !t.allRetired && (s.copies.all fun x => x.2.desc.isSome) && s.executing t.coreN < 16 && c.claims.isSome == p.1 &&
        (if p.2.2 then has (s.copyNext 0 t) (fun x => x.1 = 5) && s.copyTurn t.coreN = some 0
          else s.copyNext 0 t = none && has (s.copyFirsts 0).2 fun x => x.1 = 5)) = true) ∧
    (∀ fault ∈ [none, some (FaultCode.align, (0 : DWord))], ∀ claim ∈ [none, some 0],
      (let s := copying { cpy (descr true false) with started := true, asked := true, pos := 1, fault := fault, claim := claim } .ce;
        copyAt s fun _ c d => c.started && !c.committed && c.asked && c.sub = 0 && c.recv = [] && d.count ≤ c.pos && s.allDone c.reads && s.allDone c.need
          && !d.logen) = true) ∧
    copyAt (copying { cpy (descr false true) with committed := true }) (fun t c d => c.committed && d.logen && has (t.logs.get? d.log) fun x => x.room) = true ∧
    (∀ sub ∈ [1, 2], copyAt (copying { cpy (descr true false) with sub := sub, asked := true, data := some [1], recv := [⟨0, 0, none, false, false⟩] })
      (fun t c d => c.asked && c.data = some [1] && has c.recv[0]? (fun x => x.core = 0 && !x.committed && x.team = 0) && !t.allRetired && c.sub = sub && c.recv.length = 1 &&
        has (t.rings.get? d.ring) fun y => (y.claim .ce).isSome) = true) := by decide +kernel

theorem witness_CopyIssue_sounding :
    (let s := copying { cpy (descr true false) with blockedFrom := some 0 } .ce;
      (has (s.copyHead 0) fun x => has x.2.blockedFrom fun n => n + 4096 ≤ s.ref) = true ∧ (has (s.team? 0) fun t => t.tokenAt ≤ 0) = true ∧
      (s.tokenEdges (.copyQueue 0)).isEmpty = false ∧ TokNode.copyQueue 0 ≠ .copyQueue 9 ∧ (has (s.blockedHead 0) fun x => x.1 = 5) = true ∧ (copying (cpy (descr true false)) .ce).blockedHead 0 = none ∧ (∀ x ∈ s.copies, ¬ (x.2.team = 0 ∧ x.2.aside = true))) := by
  decide +kernel

/-! The matrix engine: tiles 0 to 3, tile 3 a state tile; a TEP program that stores and ends stands at offset 0 of team memory, a setup block at 0x200 and a
block of VOCB at 0x300. -/

/-- 128 bytes of an image: ESTORE to the drain's destination, EEND. -/
def image : List Byte := [0, 0xB0] ++ List.replicate 126 0

/-- The team of the tiles, with this issue state of tile 3. -/
def tileTeam (v : VocIssue) (t : Team) : Team :=
  { t with shape := { t.shape with mem := 0x40000, tiles := 15 }, phys := [0, 1, 2, 3], tileTy := [.f32, .f32, .f32, .state], tep := some image,
           voc := [(3, v)], rings := [(1, ⟨2, 24576, 0x20000, 0, [.f, .f], [false, false]⟩)] }

/-- The bytes of team memory. -/
def tileSpad : Memory := [(1, 0xB0), (0x202, 0x80), (0x203, 0x3F), (0x204, 1), (0x20C, 1), (0x30C, 1), (0x30D, 2)]

/-- The machine, with this issue state of tile 3. -/
def tiled (v : VocIssue := ⟨1, 1, 0, 0, 0⟩) (m : Mask := Mask.all) (s1 : DWord := spadAt) (s2 : DWord := 256) (fs : State → State := id) : State :=
  mk (fun g => ((g.setMask m).setS 1 s1).setS 2 s2) (tileTeam v) fun s => fs { s with spad := tileSpad, ref := 1024 }

/-- The machine of the tiles as it stands. -/
def tiles : State := tiled

/-- MATRIX and VOC instructions on tile `d`, from s1 and s2, C = 63 or 4, and IMM24. -/
def fTile (d : Nat) (c : BitVec 6 := 0) (imm : BitVec 24 := 0) : FmtBR := ⟨0, 0, 0, 2, 1, BitVec.ofNat 6 d, .ext { Word1.zero with c := c } ⟨0, imm⟩⟩

/-- A tile operation of the issuing group. -/
def tileOp (tiles : List Nat) (k : TileOpKind) : TileOp := { team := 0, grp := 0, op := 6, tiles := tiles, kind := k, hdr := 0x400000, slot := 0 }

/-- A drain of tile 0. -/
def drain (started : Bool) (out : Option (List WriteUnit × List WriteUnit)) (dest : DrainDest := .mem) : Drain :=
  { team := 0, grp := 0, tile := 0, image := image, deltas := [0, 0, 0, 0], cvm := 0, seed := 1, step0 := 0, beats := [0], dest := dest, chunks := [], op := 6,
    started := started, bank := 0, out := out, ty := .f32, at_ := spadAt, pitch := 256, hdr := 0x400000, slot := 0 }

/-- `n` drains of team 0. -/
def drains (n : Nat) (d : Drain) (s : State) : State := { s with drains := (List.range n).map fun k => (k, d) }

/-- Tile operation 5 in the window, and, for a beat of an MMA, in a pass that has started. -/
def withOp (o : TileOp) (s : State) : State :=
  { s with tileOps := [(5, o)], passes := [(1, ⟨0, 0x8000, 0, 4, [5], 0, true, 0, some 0⟩)] }

/-- A group held at an MDRAIN, in address or ring form. -/
def atDrain (mod : BitVec 5) : State :=
  let i : Instr := .mdrain ⟨0, 0, 0, 0, 1, 0, .ext { Word1.zero with sub := 2, mod := mod } Word2.zero⟩
  mk (fun g => { g with waiting := true, clause := some ⟨0, 1, 1, 0, encode i, 0⟩ }) id fun s => { s with ref := 256 }

theorem witness_MatrixIssue_mma :
    (at_ (tiled (s2 := spadAt + 0x8000)) fun r t g => !g.flagFull false && (oks (tiles.mmaCheck t g (fTile 0 0 0x404)) fun _ => true) &&
      tiles.windowUsed r.team 0 + g.beats.length ≤ 8 && g.beats ≠ []) = true ∧
    (at_ (tiled (s2 := spadAt + 0x8000) (m := 0)) fun r t g => (oks (tiles.mmaCheck t g (fTile 0 0 0x404)) fun _ => true) && tiles.windowUsed r.team 0 ≤ 8 &&
      g.beats = []) = true := by decide +kernel

theorem witness_MatrixIssue_issue :
    (at_ tiles fun r t g => !g.flagFull false && (oks (tiles.mloadCheck t g (fTile 0)) fun _ => true) && t.hasTile 0 && tiles.windowUsed r.team 0 < 8 &&
      !t.hasTile 4 && !tiles.engineHeld r) = true ∧
    (let s : State := { tiles with ops := [(6, { op .load with acq := true })] };
      at_ s fun r t g => s.engineHeld r && (oks (s.mloadCheck t g (fTile 0)) fun _ => true) && (oks (s.drainCheck t g (fTile 0) none) fun _ => true)) = true ∧
    (at_ (tiled (s1 := 0)) fun _ t g => (g.s 1).toNat % 128 = 0 && (g.s 1).toNat + 128 ≤ t.shape.mem && tepBad (tiles.teamRead t (g.s 1).toNat 128) = none) = true ∧
    (∀ p ∈ [(0, true), (3, true), (4, false)], (let s := tiled (m := 1) (fs := drains p.1 (drain false none));
      at_ s fun r t g => (oks (s.drainCheck t g (fTile 0) none) fun _ => true) && (oks (s.drainCheck t g (fTile 0 0 1) (some 1)) fun _ => true) &&
        (has (t.rings.get? 1) fun x => (x.claim .ce).isSome) && decide ((s.drainQueue r.team).length < 4) = p.2) = true) := by decide +kernel

theorem witness_MatrixIssue_effect :
    (∀ k ∈ [TileOpKind.mma 0 0 0x8000 4 4 2, .zero [0, 2], .load 0 256 [1]], (let s := withOp (tileOp [0] k) tiles;
      (has (s.tileOps.get? 5) fun o => has (s.team? o.team) fun t => s.tileMayGo 5 o && t.core ≠ none && o.tiles = [0] && s.memWf) = true)) := by decide +kernel

theorem witness_MatrixIssue_passes :
    (∀ p ∈ [([1, 2, 3, 4], 1024), ([5], 1016)], (let x : Pass := ⟨0, 0x8000, 0, 4, p.1, p.2, false, 0, none⟩;
      (!x.closed && (4 ≤ x.members.length || x.since + 8 ≤ tiles.ref)) = true)) ∧
    (let s := withOp (tileOp [0] (.drain 0)) (drains 1 (drain false none) tiles);
      (has (s.team? 0) fun t => t.core ≠ none && (s.drains.all fun x => !x.2.started) && s.tepNext t.coreN = some 0 && (s.drainReady 0).isSome) = true) ∧
    (∀ d ∈ [DrainDest.mem, .ring 1 0], (let s := tiled (fs := drains 1 (drain true (some ([⟨64, [1], none⟩], [])) d));
      (has ((s.drainQueue 0).find? fun x => x.2.started) fun x => has x.2.out fun o => o.2 = []) = true)) ∧
    (∀ sub ∈ [((0 : BitVec 5), 0), (1, 0)], (at_ (atDrain sub.1) fun _ _ g => g.waiting && g.waitFrom + 256 ≤ (atDrain 0).ref &&
        match g.instr with | some (.mdrain _) => sub.1 = 0 | some (.mdrainRing _) => sub.1 = 1 | _ => false) = true) := by decide +kernel

/-- VOC on tile 3. -/
def fVoc (c : BitVec 6) : FmtBR := fTile 3 c

theorem witness_VocabularyResults :
    (at_ (tiled (s1 := 0x200)) fun r t g => !g.flagFull false && tiles.windowUsed r.team 3 < 8 && oks (vociCheck tiles t g (fVoc 0)) fun _ => true) = true ∧
    (∀ cap ∈ [((0 : DWord), 0), (224, 0)], (at_ (tiled (s1 := 0) (s2 := cap.1)) fun _ t g => t.hasTile 3 && t.typeOf 3 = .state && (g.s 1).toNat % 16 = 0 &&
      (g.s 2).toNat ≤ 224 && (t.vocOf 3).t ≤ 32 + (g.s 2).toNat && (g.s 2 = 0 || (g.s 1).toNat + 8 * (g.s 2).toNat * (t.vocOf 3).ntok ≤ t.shape.mem)) = true) ∧
    (∀ p ∈ [(31, false), (32, true)], (at_ (tiled ⟨1, 33, 0, 0, p.1⟩ (s2 := spadAt)) fun _ t g => let v := t.vocOf 3
      (oks (vocfCheck tiles t g (fVoc 63)) fun _ => true) && decide (32 + v.cap < min v.k (v.t + (fVoc 63).vocNv)) = p.2) = true) ∧
    (at_ (tiled (s2 := spadAt)) fun _ t g => oks (vocbCheck tiles t (g.setS 4 0x300) (fVoc 4)) fun _ => true) = true ∧
    (∀ p ∈ [(32, false), (33, true)], (at_ (tiled ⟨1, p.1, 0, 0, 0⟩) fun _ t g => let v := t.vocOf 3
      (oks (vocmCheck tiles t g (fVoc 0)) fun _ => true) && decide (32 + v.cap < min v.k (v.t + v.k)) = p.2) = true) ∧
    (at_ (tiled ⟨1, 32, 0, 0, 0⟩) fun _ t g => oks (vocrCheck tiles t g (fVoc 0)) fun _ => true) = true ∧
    (let s := { withOp (tileOp [3] (.vocf 0 0 0x8000 none 32 1)) tiles with tmem := [(3 * 24576 + 0x18, 1), (3 * 24576 + 0x2A, 1), (3 * 24576 + 0x2B, 1)] };
      (has (s.tileOps.get? 5) fun o => has (s.team? o.team) fun t => let v : State := { s with tileOps := s.tileOps.del 5 }
        s.tileMayGo 5 o && t.core ≠ none && oks (vocAll (fun r => (v.vocRec t 3 r).fold (v.chunk 0 0 0x8000 none 32 1) r) (v.vocValid t 3)) fun xs =>
          xs.length = 1) = true) := by decide +kernel

/-! The fabric: rank 0 of two, in one pod; region 0 is memory from 0x400000, region 1 holds the counters from 0x500000. -/

def regions : List Region :=
  [⟨0x400000, 4, 1, true, true⟩, ⟨0x500000, 128, 2, true, true⟩, ⟨0, 0, 1, false, false⟩, ⟨0x400000, 4, 3, false, false⟩]

def chart0 : Chart :=
  { job := 1, nrank := 2, rank := 0, pod := 0, runs := [⟨0, 2, 0, 0⟩], lin := true, dim := (2, 1, 1), place := [], endpoints := 0, endTable := 0,
    cached := [], regions := regions, plans := [], jobCtx := 1 }

/-- The fabric with the chart, a torus port up with credit, and what `f` changes. -/
def fabric (f : Fabric → Fabric := id) (s : State) : State :=
  let p : Port := { resetPort with state := 2, enable := true, lanes := 15, credit := 1 }
  { s with fab := f { s.fab with chart := some chart0, ports := p :: s.fab.ports.drop 1 } }

/-- The global address of an offset in a region of the own rank. -/
def glob (region off : Nat) : DWord := BitVec.ofNat 64 (2 ^ 63 + region * 2 ^ 40 + off)

/-- The group with these values in s1 to s4. -/
def sregs (a b d c : DWord) : State := fabric id (mk fun g => (((g.setS 1 a).setS 2 b).setS 3 d).setS 4 c)

/-- FABRIC from s1, s2 and s4 to s3; IMM24 1, EXT as given. -/
def fFab (e : BitVec 8 := 0) : FmtBR := ⟨0, 0, 0, 2, 1, 3, .ext { Word1.zero with c := 4 } ⟨e, 1⟩⟩

theorem witness_PutAndGet :
    (let s := sregs (pageAt + 0x1000) pageAt (glob 1 8) 16;
      at_ s fun r t g => let a := g.s 1; let b := g.s 2; let d := g.s 3; let n := (g.s 4).toNat
        !s.fabHeld r t g false n [a, b] && firstFault (s.bytesBad t.coreN [a, b] n ++ [chk (s.isFar t.coreN b) (fabFault .tier b), s.fabricBad t [a]]) = none &&
        firstFault (s.bytesBad t.coreN [a, b] n ++ [chk (s.isFar t.coreN a) (fabFault .tier a), s.fabricBad t [b]]) = none &&
        (oks (bothChecks (s.rangeCheck t r.grp b n { write := false }) (s.rangeCheck t r.grp a n { write := true })) fun us => us ≠ []) &&
        firstFault [s.formBad t.coreN a, s.formBad t.coreN b, s.formBad t.coreN d, chk (s.kindOf a = 2) (fabFault .pageProt a),
          chk (s.kindOf b = 2) (fabFault .pageProt b), chk (regionOf d ≠ some 1) (fabFault .pageProt d),
          chk (a.toNat % 4 ≠ 0 || n % 4 ≠ 0) (fabFault .align a), chk (b.toNat % 4 ≠ 0) (fabFault .align b),
          chk (d.toNat % 8 ≠ 0) (fabFault .align d), chk (s.isFar t.coreN b) (fabFault .tier b), s.fabricBad t [a, d],
          chk (s.rankOf t.coreN d ≠ s.rankOf t.coreN a) (fabFault .illAddr d)] = none &&
        oks (bothChecks (bothChecks (s.rangeCheck t r.grp b n { write := false }) (s.rangeCheck t r.grp a n { write := true }))
          (if s.isFar t.coreN d then .ok [] else s.checkAll t r.grp 0 8 { write := true, atom := true } [(0xFF, (d.toNat : Int))])) fun us => us ≠ []) = true := by
  decide +kernel

/-- Operation 6 of the issuing group, and the seals that stand. -/
def sealing (k : OpKind) (s : State) : State := { s with ops := [(6, op k)], nextId := 7 }

theorem witness_SealResults_seal :
    (∀ n ∈ [0x10000, 0x20000], (let s := sregs (glob 0 0) (BitVec.ofNat 64 n) 0 5;
      at_ s fun r t g => let a := g.s 1; let k := (g.s 2).toNat
        s.formBad t.coreN a = none && regionOf a = some 0 && a.toNat % 2 ^ 16 = 0 && !s.isFar t.coreN a && !s.fabStalled r g false && k % 2 ^ 16 = 0 &&
        0 < k && k ≤ 2 ^ 30 && (g.s 4).toNat < 2 ^ 32 && s.fab.topVersion = none && s.fab.seals = [] && s.pendingSeals = [] && s.pendingUnseals = [] &&
        oks (s.checkAll t r.grp 0 4 { write := false } ((List.range (k / 2 ^ 16)).map fun i => (0xFF, ((a.toNat + i * 2 ^ 16 : Nat) : Int)))) fun _ => true) = true) ∧
    (let s := fabric (fun x => { x with seals := [⟨0, 0x10000, 5, [0x40]⟩] }) (sregs (glob 0 0) 0 0 0);
      (∃ x ∈ s.fab.seals, x.start = 0) ∧ 0 ∉ s.pendingUnseals) ∧
    (∀ e ∈ [true, false], (let s := sealing (.seal 0 0x10000 5 e false) (sregs 0 0 0 0);
      has (s.ops.get? 6) fun o => s.allDone o.need && (s.team? o.owner.team).isSome) = true) := by decide +kernel

theorem witness_SealResults_counters :
    (∀ p ∈ [(pageN, false), (spadN, true)], (let s := sregs (BitVec.ofNat 64 p.1) 1 0 0;
      at_ s fun r t g => let a := g.s 1
        !s.fabStalled r g false && !s.isFar t.coreN a && firstFault [s.formBad t.coreN a, chk (regionOf a = some 1 && (4 : Nat) ≠ 8) (fabFault .pageProt a),
          chk (a.toNat % 4 ≠ 0) (fabFault .align a), s.fabricBad t [a]] = none &&
        (oks (s.checkAll t r.grp 0 4 { write := true, atom := true } [(0xFF, (a.toNat : Int))]) fun us => oneUnit p.2 us && !s.memStalled r g false false 4 us) &&
        (p.2 || oks (s.checkAll t r.grp 0 4 { write := true, atom := true, seq := true } [(0xFF, (a.toNat : Int))]) fun us =>
          oneUnit false us && !s.memStalled r g false false 4 us)) = true) ∧
    (let s := sregs (glob 1 8) 0 0 0;
      at_ s fun r t g => let a := g.s 1
        firstFault (s.counterBad t.coreN a ++ [chk (s.isFar t.coreN a) (fabFault .tier a)]) = none && firstFault (s.counterBad t.coreN a ++ [s.fabricBad t [a]]) = none &&
        oks (s.checkAll t r.grp 0 8 { write := false } [(0xFF, (a.toNat : Int))]) fun us => oneUnit false us) = true ∧
    (let s := sealing (.sigwait (glob 1 8) 0 true 3 false) (sregs 0 0 0 0);
      has (s.watchSignals.ops.get? 6) fun o => match o.kind with | .sigwait _ _ _ _ true => true | _ => false) = true := by decide +kernel

/-- A message, in or out, toward offset 8 of a region. -/
def msg (inb : Bool) (k : MsgKind) (st : MsgState) (region : Nat := 0) (loc : Bool := false) : Msg :=
  { inbound := inb, rank := 1, region := region, off := 8, kind := k, state := st, owner := if inb then none else some ⟨0, 0⟩, ctx := 1,
    op := if inb then none else some 6, copy := none, team := some 0, port := 0, seq := 3, resends := 0, firstSent := 0, lastSent := 0, after := [],
    va := (glob region 8).toNat, lane := 0, hdr := 0x400000, slot := 0, token := 0, reply := none, loc := loc }

/-- The machine with message 5, after 64 ms. -/
def posted (m : Msg) (s : State := base) : State := { fabric id s with msgs := [(5, m)], ops := [(6, op .fabric)], nextId := 7, ref := 121600000 }

theorem witness_MessageResults_out :
    (∀ p ∈ [(0, 0), (1, 0), (0x101, 15), (0x101, 16), (0x201, 16)], (let s := posted { msg false (.put [1]) .sent with reply := some ([], p.1), resends := p.2 };
      has (s.msgs.get? 5) fun m => !m.inbound && m.token = 0 && !m.loc && m.reply = some ([], p.1) && (p.1 = 0 || 0x100 ≤ p.1 || (faultOfNat p.1).isSome)) = true) ∧
    (let s := posted { msg false (.put [1]) (.refused 9) with route := .torus 1 0 0 }; has (s.msgs.get? 5) fun m => m.state = .refused 9 && 9 ≤ s.ref && (s.linkFor m).isSome) = true ∧
    (let s := posted (msg false (.put [1]) .sent); has (s.msgs.get? 5) fun m => m.state = .sent && m.reply = none && m.firstSent + 121600000 ≤ s.ref) = true ∧
    (∀ loc ∈ [true, false], (let s := posted (msg false (.signal 1) .queued 1 loc);
      has (s.msgs.get? 5) fun m => m.op = some 6 && !m.inbound && m.state = .queued && m.kind = .signal 1 && s.allDone m.after && m.token = 0 && m.loc = loc &&
        s.partials = [] && s.wordOwner = [] && s.l1 = [] &&
        oks (s.ownUnit m 8 { write := true, atom := true } (BitVec.ofNat 64 m.va)) fun u => match u with | .phys _ _ _ => true | _ => false) = true) := by
  decide +kernel

theorem witness_MessageResults_in :
    (let s := fabric (fun x => { x with seen := [(1, 3)] }) (posted (msg true (.put [1, 2, 3, 4]) .sent));
      has (s.msgs.get? 5) fun m => m.inbound && m.state = .sent && s.fab.seen.contains (m.rank, m.seq)) = true ∧
    (∀ p ∈ [(0, true), (1, false), (2, false)], (let s := posted (msg true (.put [1, 2, 3, 4]) .sent p.1);
      has (s.msgs.get? 5) fun m => has (s.ctx? 1) fun x => m.inbound && !s.fab.seen.contains (m.rank, m.seq) && x.state = .live && x.pending = none &&
        (match s.inUnits chart0 m.region (msgWrites m).1 (msgWrites m).2 (msgUnits m) with
          | .ok ps => p.2 && !s.stk.migrating && s.stk.held = [] && !ps.isEmpty
          | .error (.code _) => !p.2
          | .error _ => false)) = true) := by decide +kernel

/-- 128 bytes of a chart, its run table at +0x100 and its region table at +0x200. -/
def chartBytes : List Byte :=
  let place (xs : List (Nat × Nat × Nat)) (n : Nat) : List Byte := (List.range n).map fun i =>
    BitVec.ofNat 8 ((xs.find? fun x => x.1 ≤ i && i < x.1 + x.2.1).elim 0 fun x => x.2.2 / 256 ^ (i - x.1))
  place [(0, 4, 0x6B3D29A1), (4, 2, 1), (6, 2, 1), (8, 8, 1), (0x10, 4, 2), (0x1A, 2, 1), (0x20, 8, 0x20100), (0x38, 8, 0x20200), (0x40, 8, 0x20400), (0x48, 1, 1),
    (0x4C, 4, 1)] 0x100 ++ place [(4, 4, 2)] 0x100 ++
  place [(0, 8, 0x400000), (8, 4, 4), (12, 2, 0x301), (0x10, 8, 0x500000), (0x18, 4, 128), (0x1C, 2, 0x302), (0x2C, 1, 1), (0x30, 8, 0x400000), (0x38, 4, 4),
    (0x3C, 1, 3)] 0x40

/-- The chart in memory, RCHBASE at it. -/
def charted : State := { base with mem := base.mem.writeN 0x20000 chartBytes, fab := { base.fab with rchbase := 0x20000 } }

theorem witness_PortsAndChart :
    base.msgs = [] ∧ (0x5 : DWord).getLsbD 2 = true ∧ (0x5 : DWord).getLsbD 0 = true ∧
    (let s := (fabric id base).updPort 0 fun p => { p with state := 1 }; has s.fab.ports[0]? fun p => p.state = 1 && 3 ≤ laneCount (7 &&& p.laneen) &&
      laneCount (3 &&& p.laneen) < 3) = true ∧
    (has (fabric id base).fab.ports[0]? fun p => p.lanes.getLsbD 3) = true ∧ base.fab.rchBusy = false ∧
    (∀ p ∈ [(true, false), (false, true)], (fabric (fun x => { x with rchLoad := p.1, rchInv := p.2 }) base).fab.rchBusy = true) ∧
    (let s := fabric (fun x => { x with rchInv := true }) base; !s.fab.rchLoad && s.fab.rchInv && s.fab.chart = some chart0) = true ∧
    (∀ p ∈ [(charted, true), (base, false)], (let s : State := { p.1 with fab := { p.1.fab with rchLoad := true } };
      s.fab.rchLoad && !s.fab.rchInv && s.stk.ready && (if p.2 then oks s.readChart fun _ => true else errs s.readChart fun c => c = 1)) = true) := by decide +kernel

/-- The machine with pilot 0 as `f` leaves it. -/
def piloted (f : Pilot → Pilot) (g : Fabric → Fabric := id) : State :=
  fabric (fun x => g { x with pilots := f resetPilot :: x.pilots.drop 1 }) base

/-- A collective of context 1, its plan in slot 0, and what it is. -/
def coll (started : Bool) (pilots : List Nat) : Coll :=
  { ctx := 1, id := 1, desc := List.replicate 128 0, addr := pageAt, team := 0, seq := 0, started := started, pilots := pilots, args := [], status := none }

/-- A command of pilot 0 in slot 63. -/
def pcmd (sent : Bool) : PilotCmd := { pilot := 0, slot := 63, coll := 4, ids := [], after := [], sent := sent, wait := none, result := none, token := 0 }

theorem witness_PilotResults :
    (∀ p ∈ [(0, true), (0, false), (1, false), (2, false), (3, true), (4, true), (5, false)], (let s := piloted fun x => { x with state := p.1, verified := p.2 };
      has s.fab.pilots[0]? fun x => x.state = p.1 && x.verified = p.2 && s.fab.colls = []) = true) ∧
    (let s := piloted (fun x => { x with state := 3, mem := x.mem.writeN (slotAt 63 + 0x34) [1] }) (fun y => { y with colls := [(4, coll true [0])] });
      (has (s.collOn 0 63) fun x => x.1 = 4) = true ∧ (s.pilot 0).state = 3 ∧ s.cmdField 0 63 0x34 4 = 1 ∧ s.fab.pilotCmds = []) ∧
    (let s := piloted id fun y => { y with pilotCmds := [(8, pcmd true)] }; s.fab.pilotCmds = [(8, pcmd true)] ∧ s.allDone (pcmd true).ids = true) ∧
    (let s := sregs pageAt 0 0 0; at_ { s with teams := s.teams.map fun x => (x.1, { x.2 with groups := x.2.groups.map fun g => g.setS 1 0x400080 }) } fun r t g =>
      let a := g.s 1
      !s.fabStalled r g false && s.formBad t.coreN a = none && a.toNat % 128 = 0 && !s.isFar t.coreN a && !s.openColl t.ctx 1 &&
        (let d := CollDesc.parse (s.peek t a 128); !s.collHolds r s.nextId (s.bufferPieces t d.src d.srcBytes)) &&
        oks (s.checkAll t r.grp 0 4 { write := false } (rangeUnits a 128)) fun _ => true) = true ∧
    (let s := piloted (fun x => { x with state := 3, plans := [some [1]] }) fun y => { y with colls := [(4, coll false [])] };
      (s.running.filter fun n => ((s.pilot n).plans[(CollDesc.parse (coll false []).desc).slot]?.join).isSome) ≠ []) ∧
    (let s := piloted id fun y => { y with colls := [(4, coll true [0, 1])] };
      (has (s.fab.colls.get? 4) fun c => c.started && c.status = none && c.pilots.contains 0 && c.pilots.filter (· ≠ 0) ≠ []) = true ∧ s.fab.pilotCmds = []) ∧
    (let s := piloted id fun y => { y with colls := [(4, { coll true [0] with src := some [] })] };
      (has (s.fab.colls.get? 4) fun c => (c.pilots.all fun m => m = 0) && s.collDone c) = true) ∧
    (let d := (coll true [0]).desc.set 4 2; 2 ≤ (CollDesc.parse d).ty) ∧
    (let d := CollDesc.parse (((coll true [0]).desc.set 8 1).set 0x24 2); 0 < d.n ∧ 0 < d.parts ∧ d.ty = 0 ∧ d.red = 0) := by decide +kernel


/-- `base` with its group changed and one instruction outstanding. -/
def opOut (o : Op) : State := { base with ops := [(6, o)], nextId := 7 }

theorem witness_CompletionPoint :
    (∀ o ∈ [op .plain, op .load, op .matrix, { op .load with writes := [.v 63 95 7, .s 59 8], acq := true }, { op .plain with flag := none }],
      (has ((opOut o).ops.get? 6) fun o => has ((opOut o).team? o.owner.team) fun t => ((opOut o).group? o.owner).isSome && (opOut o).ctxLive t.ctx &&
        (o.kind = .plain || o.kind = .load || o.kind = .matrix) && (opOut o).opDone 6 o) = true) ∧
    (∀ p ∈ [(0, 0), (63, 95)], p.1 < 64 ∧ p.2 < 96) := by decide +kernel

/-- `base` with its group in this place. -/
def placed (pl : Place) (f : Group → Group := id) (g : State → State := id) : State := mk (fun x => f { x with place := pl }) id g

/-- Partition 0 of core 0, changed. -/
def parted (f : Part → Part) (s : State) : State := s.putPart 0 0 (f (s.part 0 0))

/-- Two groups of the team: group 0 active and group 8, on the same partition, pending. -/
def twoGroups : State :=
  mk id (fun t => match t.groups with
    | g :: _ => { t with groups := { g with clause := none } :: List.replicate 8 { g with place := .pending } }
    | [] => t) fun s => { s with ref := 4096 }

theorem witness_ActiveSet :
    (let s := placed .pending; (s.part 0 0).swap = none ∧ (s.incoming 0 0 none).isSome = true) ∧
    (∀ o ∈ [none, some (⟨0, 0⟩ : GRef)], (let s := parted (fun x => { x with swap := some ⟨⟨0, 0⟩, o, 0⟩ }) base;
      has (s.part 0 0).swap fun x => x.done ≤ s.ref) = true) ∧
    ((twoGroups.part 0 0).swap = none ∧ (has (twoGroups.displaced 0 0) fun y => y.2.2.clause = none &&
      has (oldest ((twoGroups.onPart 0 0).filter fun x => twoGroups.pendingReady 0 0 x && x.2.2.readySince + 2048 ≤ twoGroups.ref)) fun x =>
        twoGroups.fileHas 0 0 (some y.1) x) = true) ∧
    (let s := parted (fun x => { x with trapQueue := [⟨0, 0⟩] }) base;
      (s.part 0 0).trapOwner = none ∧ (s.part 0 0).trapQueue = [⟨0, 0⟩] ∧ (has (s.group? ⟨0, 0⟩) fun g => g.place = .active) = true) ∧
    ((⟨0, 0⟩ : GRef) ≠ ⟨0, 8⟩ ∧ (twoGroups.group? ⟨0, 0⟩).isSome = true ∧ (twoGroups.group? ⟨0, 8⟩).isSome = true) := by decide +kernel

/-- Bytes given by offset, size and value. -/
def bytesAt (n : Nat) (xs : List (Nat × Nat × Nat)) : List Byte := (List.range n).map fun i =>
  BitVec.ofNat 8 ((xs.find? fun x => x.1 ≤ i && i < x.1 + x.2.1).elim 0 fun x => x.2.2 / 256 ^ (i - x.1))

/-- A header of one group of 16 registers, at physical address 0x401000, before the entry 0x401040. -/
def headed (task : Nat) (m : Memory) : Memory :=
  m.writeN 0x401000 (bytesAt 64 [(0, 4, 0x4C487E11), (4, 2, 1), (6, 1, task), (7, 1, 1), (8, 1, 16)])

/-- Context 1 with two frame slots. -/
def roomy (s : State) : State :=
  { s with ctxs := s.ctxs.map fun x => (x.1, { x.2 with slots := 2, slotBytes := 0x10000, tqMask := 1 }), hst := { s.hst with cladm := 0xFFFF, stage := 3 } }

/-- Task queue 0 holds one descriptor; core 0's home is queue 0. -/
def queued (entry : Nat) : State :=
  let s := roomy { base with mem := headed 1 base.mem }
  { s with te := { s.te with tq := [(0, ⟨true, 6, 0x400000, 1, 0, 1, [(0, bytesAt 64 [(0, 8, entry)])]⟩)], home := [(0, ⟨true, 0⟩)] } }

/-- The team that waits, as a task, with its header read or not. -/
def loading (need : Bool) : State :=
  mk id (fun t => { t with state := .loading, core := none, groups := [], needHdr := need, desc := bytesAt 64 [(0, 8, 0x401040)] }) roomy

theorem witness_TaskInstructions_issue :
    (∀ p ∈ [(0, 0, 0), (960, 63, 9), (64, 64, 10), (8, 0, 0)], (at_ (mk (fun g => (g.setS 1 (BitVec.ofNat 64 p.1)).setS 2 (BitVec.ofNat 64 p.2.1))
        (fun t => { t with depth := p.2.2, shape := { t.shape with mem := 1024 } })
        fun s => { s with ctxs := s.ctxs.map fun x => (x.1, { x.2 with tqMask := BitVec.allOnes 64 }) }) fun r t g =>
      let off := (g.s f0.a.toNat).toNat
      !g.flagFull false && off = p.1 && off + 64 ≤ t.shape.mem && (g.s f0.b.toNat).toNat = p.2.1 && r.grp = 0 && t.depth = p.2.2) = true) ∧
    (at_ { mk id (fun t => { t with groups := t.groups ++ t.groups }) with cur := some ⟨0, 1⟩ } fun r _ g => r.grp ≠ 0 && (g.s f0.a.toNat).toNat = 0) = true ∧
    (at_ (mk fun g => g.setP 1 1) fun _ t g => let f : FmtBR := ⟨0, 0, 0, 0, 1, 0, .ext { Word1.zero with c := 1 } Word2.zero⟩
      (g.p (f.c.toNat % 8)).lanes = [0] && ((g.v f.a.toNat).lane 0).toNat % 64 = 0 && 64 ≤ t.shape.mem) = true ∧
    (at_ base fun _ _ g => let f : FmtBR := ⟨0, 0, 0, 0, 1, 0, .ext { Word1.zero with c := 1 } Word2.zero⟩; (g.p (f.c.toNat % 8)).lanes = []) = true ∧
    (∀ n ∈ [2 ^ 64 - 1, 5], (at_ (mk (fun g => g.setS 1 (BitVec.ofNat 64 n)) fun t => { t with children := [3] }) fun _ t g => !g.flagFull false &&
      (g.s f0.a.toNat).toNat = n && (base.grids.get? 3).isNone && t.children = [3]) = true) := by decide +kernel

theorem witness_TaskInstructions_dispatch :
    (∀ e ∈ [0x401040, 0x401042, 0x801040], (let s := queued e;
      s.loadingFor ⟨0, 1, 0x1000⟩ = none ∧ s.dispFrom = 0 ∧ (has (s.te.home.get? 0) fun h => h.en && h.home = 0) = true ∧ (has (s.queueCtx 0) fun c => c.1 = 1) = true ∧ s.ctxRuns 1 = true ∧
      (s.taskQ 0).bound = true ∧ (s.taskQ 0).count ≠ 0 ∧ (match s.tryDesc 1 0 0 ⟨0, 1, 0x1000⟩ false with | .act _ => true | _ => false) = true)) ∧
    (∀ n ∈ [true, false], (has ((loading n).loadingFor ⟨0, 1, 0x1000⟩) fun x => x.1 = 0) = true) := by decide +kernel

/-- The task's groups have retired, and it names a successor. -/
def succeeded (st : TeamState) (a : DWord) : State :=
  mk (fun g => { g with retired := true, clause := none }) fun t => { t with state := st, successor := some a }

theorem witness_TaskInstructions_succession :
    (∀ x ∈ [(TeamState.succeeding, pageAt - 0x100, 1), (.succeeding, spadAt, 1), (.succeeding, 0x800000, 2), (.succeeding, 0x100000000000000, 3)],
      (let s := succeeded x.1 x.2.1;
        has (s.team? 0) fun t => t.successor = some x.2.1 && s.ctxLive t.ctx && t.core ≠ none && t.allRetired && t.ioToken = 0 && t.stopping = none &&
          t.state = x.1 && s.teamQuiet 0 t && t.children = [] &&
          (match s.readSuccessor 0 t x.2.1 with | .ok _ _ => decide (x.2.2 = 1) | .missing _ => decide (x.2.2 = 2) | .fault _ => decide (x.2.2 = 3) | _ => false)) = true) ∧
    (let s := mk id (fun t => { t with state := .succeeding, successor := some 0, children := [3] });
      (has (s.team? 0) fun t => t.state = .succeeding && t.core ≠ none && t.children ≠ []) = true ∧ s.copies = []) ∧
    (let s := { queued 0x401040 with teams := (succeeded .succeeding 0).teams };
      has ((s.team? 0).map fun t => { t with eff := some { t.shape with v := 8 } }) fun t => (match s.taskHeader t.ctx (bytesAt 64 [(0, 8, 0x401040)]) true with | .ok x => decide ((t.eff.getD t.shape).v < x.v) | _ => false)) = true ∧
    ([none, some (0x400000 : DWord)].all fun a => has ((mk id fun t => { t with successor := a }).team? 0) fun t => t.state = .running && t.groups.length = 1 &&
      t.successor = a) = true := by decide +kernel

/-- Context 1 changed. -/
def ctxWith (f : Ctx → Ctx) (s : State := base) : State := { s with ctxs := s.ctxs.map fun x => (x.1, f x.2) }

/-- A fault record, not yet posted. -/
def record : FaultRec := ⟨.machine, 3, 0, 0, 0, 0, 0x400000, 0, 0, 0, List.replicate 64 1⟩

theorem witness_PageAnswersAndEnds_pages :
    (let s := mk id fun t => { t with token := 5, state := .suspended }; let v : DWord := 0x0000000100050000;
      v.extractLsb' 16 16 ≠ 0 ∧ v.getLsbD 0 = false ∧ s.grids = [] ∧ s.te.cmds = [] ∧ s.copies = [] ∧ s.msgs = [] ∧ s.fab.pilotCmds = [] ∧
      s.teams.length = 1 ∧ (s.teams.all fun x => x.2.ctx = (v.extractLsb' 32 32).toNat && x.2.token = (v.extractLsb' 16 16).toNat &&
        has (s.ctx? x.2.ctx) fun c => c.heldRec = none) = true) ∧
    (0x0000000100000000 : DWord).extractLsb' 16 16 = 0 ∧
    (∀ v ∈ [(0x0000000100000001, true), (0x0000000100000005, true), (0x0000000100000007, false)], (BitVec.ofNat 64 v.1 : DWord).getLsbD 0 = true ∧
      base.xlat.busy = false ∧ (((BitVec.ofNat 64 v.1 : DWord).extractLsb' 1 2 ≠ 3) ↔ v.2 = true)) ∧
    (let s : State := { base with xlat := { base.xlat with busy := true } }; s.xlat.busy = true ∧ s.allDone s.xlat.waits = true) := by decide +kernel

theorem witness_PageAnswersAndEnds_ends :
    (∀ b ∈ [true, false], (let s := ctxWith fun c => { c with pending := some record, ringBase := 0x400800, prot := b };
      has (s.ctx? 1) fun c => c.pending = some record && c.prot = b && (s.postRecord 1 c record).isSome) = true) ∧
    (has (base.ctx? 1) fun c => c.state = .live && c.pending = none) = true ∧ record.detail.length ≤ 64 ∧ 63 < record.detail.length := by decide +kernel

theorem witness_DebugAndTeardown_registers :
    (∀ p ∈ [(false, 0), (true, 2)], (let s := { ctxWith (fun c => { c with prot := p.1 }) with sec := { base.sec with mode := p.2 } };
      ∀ v ∈ [(0x000000010000000A, 1), (0x000000010000000C, 2)], (let v' : DWord := BitVec.ofNat 64 v.1;
        (has (s.ctx? (v'.extractLsb' 32 32).toNat) fun c => c.state = .live && (!c.prot || s.sec.mode = 2) && !c.halted) = true ∧ v'.getLsbD v.2 = true))) ∧
    (base.ctx? ((0x0000000200000006 : DWord).extractLsb' 32 32).toNat = none) ∧ (0x0000000200000006 : DWord).getLsbD 1 = true ∧
    (0x0000000200000006 : DWord).getLsbD 2 = true := by decide +kernel

/-- The context is halting, and its team has been saved. -/
def halting : State := ctxWith (fun c => { c with halting := true }) (mk id fun t => { t with core := none, state := .saved })

theorem witness_DebugAndTeardown_halt :
    (has halting.haltedNow fun x => x.1 = 1) = true ∧ ((halting.saveAll 1).teams.all fun x => !(x.2.ctx = 1 && x.2.core.isSome)) = true := by
  decide +kernel

theorem witness_DebugAndTeardown_ends :
    (has ((ctxWith fun c => { c with prot := true, state := .ending }).ctx? 1) fun c => c.prot && c.state = .ending) = true ∧
    (∀ p ∈ [(false, CtxState.live, 0), (true, .ending, 0), (true, .live, 0), (true, .live, 2)],
      (let s := { ctxWith (fun c => { c with prot := true, state := p.2.1 }) with dbg := { base.dbg with bken := p.1, ctx := 1 }, sec := { base.sec with mode := p.2.2 } };
        at_ s fun _ t _ => (s.dbg.bken && s.dbg.ctx = t.ctx) = p.1 && (s.ctx? t.ctx).isSome) = true) := by decide +kernel

/-- The team between clauses, as `f` leaves it. -/
def resting (f : Team → Team) : State := mk (fun g => { g with clause := none }) f roomy

theorem witness_TeamSwitching :
    (has (base.ctx? 1) fun c => c.state = .live && c.pending = none) = true ∧
    (∀ x ∈ [some SaveCause.page, some .preempt], (let s := resting fun t => { t with stopping := x };
      has (s.team? 0) fun t => t.state = .running && t.stopping = x && t.ioToken = 0 && s.canSave 0 t) = true) ∧
    (∀ x ∈ [TeamState.saved, .suspended], (let s := resting fun t => { t with state := x, core := none, answered := true };
      has (s.team? 0) fun t => s.waitsReturn t && s.mayReturn 0 t 0 && s.teams.length = 1 && s.fits t.shape t.grid (some t.cluster) ⟨0, 7, 0⟩) = true) ∧
    (let s := { base with hst := { base.hst with retiring := some 0 } };
      has (s.team? 0) fun t => t.state = .running && t.ioToken = 0 && t.stopping = none && s.preempts 0) = true := by decide +kernel

/-- A command of queue 0, line 0. -/
def cmd (xs : List (Nat × Nat × Nat)) : Cmd :=
  { queue := 0, line := 0, bytes := bytesAt 128 (xs ++ [(0x78, 8, 1)]), started := false, token := 0, pages := [], answered := false, failed := false,
    waits := [] }

/-- The machine holds command 9. -/
def commanded (c : Cmd) (s : State := roomy base) : State := { s with te := { s.te with cmds := [(9, c)] } }

/-- The command is held, and may start. -/
def starts (c : Cmd) (P : State → Bool) : Bool :=
  let s := commanded c
  has (s.te.cmds.get? 9) fun c => s.mayStart 9 c && !c.started && P s

/-- CTXCREATE of context 7 in world 3, with its address spaces. -/
def createCmd : Cmd :=
  cmd [(0, 1, 2), (2, 1, 3), (4, 4, 7), (8, 8, 0x20000), (0x38, 4, 8), (0x3C, 4, 0x10000), (0x40, 4, 0x2000), (0x44, 2, 1)]

theorem witness_CommandResults_lines :
    (0 : Nat) < 256 ∧ (255 : Nat) < 256 ∧
    (let s := roomy { base with comp := base.comp.writeN 0x8000 (bytesAt 128 [(0x78, 8, 1)]), te := { base.te with cq := [(0, ⟨0x8000, 0, true, 0⟩)] } };
      (has (s.te.cq.get? 0) fun x => x.en && s.inService && bytesNum (s.comp.readN (x.addr + 128 * (x.next % x.lines)) 128) 0x78 8 = x.next + 1) = true) ∧
    (let s := commanded (cmd [(1, 1, 2), (0x70, 8, 0x9000)]);
      (has (s.te.cmds.get? 9) fun c => bitAt (c.f 1 1) 1 && c.f 0x70 8 % 16 = 0 && s.comp.wf) = true) ∧
    (let s := commanded (cmd []); has (s.te.cmds.get? 9) fun c => !bitAt (c.f 1 1) 1) = true := by decide +kernel

theorem witness_CommandResults_contexts :
    (∀ x ∈ [(0, 0, false), (0, 4, true), (7, 0, false), (255, 0, false)], (let c := cmd [(0, 1, x.1), (1, 1, x.2.1)];
      starts c (fun _ => c.f 0 1 = x.1 && c.bad [] = x.2.2) = true)) ∧
    starts createCmd (fun s => createCmd.f 0 1 = 2 && !(newCtx createCmd).prot && !createCmd.bad [(2, 2), (8, 0x3E)] && ctxRangesOk s createCmd &&
      !s.sec.hold && !s.worldScrubs (createCmd.f 2 1) && !s.worldProt (createCmd.f 2 1)) = true ∧
    (let c := cmd [(0, 1, 3), (4, 4, 1)]; starts c (fun s => c.f 0 1 = 3 && !c.bad [] && (s.cmdCtx c).isSome) = true) := by decide +kernel

theorem witness_CommandResults_work :
    (∀ h ∈ [0, 4095], (let c := cmd [(0, 1, 4), (4, 4, 1), (8, 2, h)];
      starts c (fun s => c.f 0 1 = 4 && !c.bad [(2, 1), (8, 2), (0x10, 16)] && c.f 2 1 = 0 && c.f 8 2 = h && (s.cmdCtx c).isSome &&
        s.te.handles.get? (c.f 8 2) = none) = true)) ∧
    (∀ z ∈ [6, 20], (let c := cmd [(0, 1, 5), (4, 4, 1), (3, 1, z), (8, 8, 0x401000)];
      starts c (fun s => c.f 0 1 = 5 && !c.bad [(2, 2), (8, 8)] && c.f 2 1 < 64 && c.f 3 1 = z && c.f 8 8 % 4096 = 0 && c.f 8 8 < 2 ^ 56 &&
        (has (s.cmdCtx c) fun x => x.tqMask.getLsbD (c.f 2 1)) && !(s.taskQ (c.f 2 1)).bound) = true)) ∧
    (∀ n ∈ [1, 2 ^ 20], (let c := cmd [(0, 1, 6), (4, 4, 1), (8, 8, 0x400040), (0x10, 4, n)];
      starts c (fun _ => c.f 0 1 = 6 && !c.bad [(2, 1), (8, 8), (0x10, 4)] && c.f 2 1 < 64 && c.f 8 8 % 64 = 0 && c.f 8 8 < 2 ^ 56 && c.f 0x10 4 = n) = true)) ∧
    (let c := cmd [(0, 1, 1), (4, 4, 1), (8, 8, 0x401040), (0x18, 4, 1)];
      starts c (fun s => c.f 0 1 = 1 && !c.bad [(2, 2), (8, 0x15), (0x1E, 2), (0x20, 8), (0x30, 64)] && !launchBad c && (s.cmdCtx c).isSome &&
        !s.handlesBad 1 c.handles && s.handlesReady c.handles) = true) := by decide +kernel

/-- A grid of context 1 of `n` teams in blocks of `w`. -/
def grid (x : Option Shape) (n next w : Nat) (parent : Option Nat := none) : Grid :=
  { ctx := 1, index := some 0, depth := 0, entry := 0x401040, arg := 0, seed := 0, n := n, next := next, width := w, priority := 0, memKiB := 0, shape := x,
    live := 0, children := [], parent := parent, parentGrid := none, cmd := some 9, waitFrom := 0, token := 0 }

/-- The machine with grid 3. -/
def gridded (g : Grid) : State := roomy { base with mem := headed 0 base.mem, grids := [(3, g)], ref := 2 ^ 26 }

def smallShape : Shape := ⟨1, 16, 0, 0, 0, 0, 0, 0, []⟩

theorem witness_GridResults_places :
    (let s := gridded (grid none 1 0 0);
      has (s.grids.get? 3) fun g => g.shape = none && g.token = 0 && !g.failed && s.ctxLive g.ctx && g.index = some 0 && s.hst.cladm ≠ 0 &&
        (match s.readHeader g.ctx g.entry false (g.width ≠ 0) { kib := g.memKiB } with
          | .ok x => x.holdable && x.frameBytes 18 ≤ ((s.ctx? g.ctx).map (·.slotBytes)).getD 0 | _ => false)) = true ∧
    (∀ w ∈ [0, 1], (let s := gridded (grid (some smallShape) 1 0 w);
      has (s.grids.get? 3) fun g => g.next < g.n && s.ctxRuns g.ctx && g.blockTeams = 1 && !s.returnsFirst 0 g.priority &&
        (s.placeTeams 3 smallShape [⟨0, 1, 0x1000⟩]).isSome) = true) ∧
    (let s := gridded (grid (some smallShape) 1 0 0 (some 0));
      has (s.grids.get? 3) fun g => g.parent ≠ none && g.shape ≠ none && g.next = 0 && has (s.ctx? g.ctx) fun c => c.lookout ≤ s.ref - g.waitFrom) = true := by
  decide +kernel

theorem witness_GridResults_ends :
    (has ((mk id fun t => { t with state := .loading }).team? 0) fun t => t.state = .loading && t.core ≠ none && t.hamper.all (·.bytes = 0) && base.copies = []) = true ∧
    (has ((mk id fun t => { t with state := .joining }).team? 0) fun t => t.state = .joining && t.children = [] && base.ctxLive t.ctx) = true ∧
    (∀ c ∈ [[], [3]], (let s := mk (fun g => { g with retired := true, clause := none }) fun t => { t with state := .joining, children := c };
      has (s.team? 0) fun t => t.state = .joining && t.core ≠ none && s.ctxLive t.ctx && s.teamQuiet 0 t && t.children = c) = true) ∧
    (has ((mk id fun t => { t with state := .joining, core := none }).team? 0) fun t => t.state = .joining && t.core = none && t.children = []) = true ∧
    (let s := gridded (grid (some smallShape) 1 1 0);
      has (s.grids.get? 3) fun g => g.shape ≠ none && g.next = g.n && g.live = 0 && g.children = [] && s.ctxLive g.ctx && g.cmd = some 9) = true := by
  decide +kernel


/-- `base` with its stacks changed; six of them are up. -/
def stacked (f : Stacks → Stacks := id) (s : State := base) : State :=
  let up : List Stack := List.replicate 12 { resetStack with state := 2 }
  { s with stk := f { s.stk with stackTab := up, active := 0x7F, oldActive := 0x7F, memcap := 7 * 2 ^ 36, ready := true } }

/-- Stack 0 of the machine as `f` leaves it. -/
def stack0 (f : Stack → Stack) (s : State := stacked) : State := s.updStack 0 f

theorem witness_StackResults_mailbox :
    (∀ x ∈ [(1, 2, 0), (2, 2, 0), (2, 3, 0), (3, 2, 0), (4, 1, 0), (4, 2, 0)], (let s := stack0 fun y => { y with busy := true, cmd := x.1, state := x.2.1 };
      has s.stk.stackTab[0]? fun y => y.busy && y.cmd = x.1 && y.serves = (x.2.1 ≠ 1)) = true) ∧
    (∀ n ∈ [0x400A00, 7 * 2 ^ 36], (let s := stack0 fun y => { y with busy := true, cmd := 3, runArg := BitVec.ofNat 64 n };
      has s.stk.stackTab[0]? fun y => let pa := (y.runArg.extractLsb' 7 41).toNat * 128
        y.busy && y.cmd = 3 && y.serves && (if n = 0x400A00 then pa < s.stk.memcap && s.stackOf pa = 0 else s.stk.memcap ≤ pa)) = true) := by decide +kernel

theorem witness_StackResults_training :
    (has (stacked.stk.stackTab[0]?) fun x => x.serves && x.passes = 0) = true ∧
    (has ((stack0 fun x => { x with passes := 1 }).stk.stackTab[0]?) fun x => x.serves && 0 < x.passes) = true ∧
    (let s := { stacked with ref := dayCycles }; has s.stk.stackTab[0]? fun x => x.passes = 0 && x.patrolAt + dayCycles ≤ s.ref) = true ∧
    (let s := { stack0 (fun x => { x with state := 1 }) (stacked fun m => { m with coldTrain := true, ready := false }) with
        ref := 3800000000, hst := { base.hst with stage := 2 } };
      (has s.stk.stackTab[0]? fun x => x.state = 1) = true ∧ s.stk.coldTrain = true ∧ s.stk.ready = false ∧ s.hst.stage = 2 ∧ s.stk.trainFrom + 3800000000 ≤ s.ref) ∧
    (let s := stacked fun m => { m with lost := [⟨0, 0⟩, ⟨0, 0x400080⟩], fenced := [0, 2] };
      s.sec.mode = 0 ∧ s.mem.wf = true ∧ (∃ l ∈ s.stk.lost, l.line = ((0x400080 : DWord).extractLsb' 7 41).toNat * 128) ∧
      ((2 : DWord).extractLsb' 0 20).toNat ∈ s.stk.fenced) ∧
    (let s := { stacked fun m => { m with ready := false, coldTrain := true } with hst := { base.hst with stage := 2 } };
      s.stk.ready = false ∧ s.hst.stage = 2 ∧ (∀ x ∈ s.stk.stackTab, x.state ≠ 0 ∧ x.state ≠ 1) ∧ s.stk.coldTrain = true ∧
      6 ≤ (stacksOf s.stk.bringUp.active).length ∧ s.hst.heldAcc = []) := by decide +kernel

/-- A migration whose frame 0 is in this state; six frames in all. -/
def moving (m : Tbl MigState) : State := stacked fun x => { x with migrating := true, total := 6, mig := m }

theorem witness_StackResults_retirement :
    (∀ n ∈ [0, 1], (let s := stacked fun m => { m with cache := n };
      (0x16 : DWord).getLsbD 4 = true ∧ s.stk.goErr ((0x16 : DWord).extractLsb' 0 4).toNat = 0)) ∧
    stacked.stk.goErr 12 ≠ 0 ∧ ((stacked fun m => { m with flushing := true }).stk.flushing = true) ∧
    (let s := moving []; s.stk.migrating = true ∧ 0 < s.stk.total ∧ s.stk.mig.length = 0 ∧ s.stk.moving < 64 ∧ s.partials = []) ∧
    (let s := moving [(0, .drain)]; s.stk.migrating = true ∧ s.stk.mig.get? 0 = some .drain ∧ s.partials = [] ∧ s.contribs = []) ∧
    (let s := moving [(0, .moving)]; s.stk.migrating = true ∧ s.stk.mig.get? 0 = some .moving ∧ s.hst.heldAcc = []) := by decide +kernel

/-- The sequencer at command `n` with these arguments; context 1 is protected or not. -/
def secured (n : Nat) (a : List DWord) (prot : Bool := false) (job : Option SecJob := none) (mode : Nat := 0) : State :=
  let s := stacked id (ctxWith fun c => { c with prot := prot })
  { s with sec := { s.sec with cmd := some n, runArgs := a, job := job, mode := mode,
                               prot := if prot then [(1, ⟨0, 0, [], 0, [], []⟩)] else [] } }

theorem witness_SecurityResults_commands :
    (∀ h ∈ [true, false], ∀ f ∈ [3, 2 ^ 20], (let s : State := { secured 1 [] with sec := { (secured 1 []).sec with cmd := none, hold := h, args := [BitVec.ofNat 64 f, 1, 0, 0] } };
      s.linkUp = true ∧ s.sec.job = none ∧ s.sec.args[0]?.map (·.toNat) = some f ∧ s.frameBad f = decide (f ≠ 3) ∧ s.frameScrubs 3 = false ∧ s.worldScrubs 1 = false)) ∧
    (∀ w ∈ [1, 2], (let s := secured 1 [3, BitVec.ofNat 64 w, 0, 0]; s.secTake 1 = true ∧ s.sec.verdict = 0 ∧ s.stk.ready = true ∧ s.secArg 1 = w)) ∧
    (let s : State := { secured 1 [] with sec := { (secured 1 []).sec with verdict := 1 } }; s.secTake 1 = true ∧ s.sec.verdict ≠ 0) ∧
    (let s := secured 2 [3, 0, 0, 0]; s.secTake 2 = true ∧ s.sec.verdict = 0 ∧ s.stk.ready = true ∧ s.sec.mode = 0 ∧ s.mem.wf = true) ∧
    (let s := secured 3 [1, 0, 0, 0] true; let u : State := { s with sec := { s.sec with judged := s.liveProt 1 } };
      u.secTake 3 = true ∧ u.sec.verdict = 0 ∧ u.sec.judged.isSome = true ∧ (secured 3 [1, 0, 0, 0] false).liveProt 1 = none) ∧
    (secured 4 [0, 0, 0, 0]).secTake 4 = true ∧ (secured 5 [0, 0, 0, 0]).secTake 5 = true ∧
    (let s := secured 5 [0, 0, 0, 0] false (some .unlock); s.sec.job = some .unlock ∧ (∀ x ∈ s.ctxs, x.2.prot = false) ∧ s.sec.scrubs = []) ∧
    (let s := secured 6 [1, 0, 0, 0] true; s.secTake 6 = true ∧ s.sec.verdict = 0 ∧ (s.liveProt (s.secArg 0)).isSome = true) ∧
    (let s := secured 6 [1, 0, 0, 0] true (some (.save 1)); s.sec.job = some (.save 1) ∧ (s.liveProt 1).isSome = true ∧
      ∀ x ∈ s.teams, ¬ (x.2.ctx = 1 ∧ x.2.stopping = some .security)) ∧
    (let s := secured 6 [1, 0, 0, 0] true (some (.save 1)); let u : State := { s with teams := s.teams.map fun x => (x.1, { x.2 with stopping := some .security }) };
      (u.liveProt 1).isSome = true ∧ (u.teams.any fun x => x.2.ctx = 1 && x.2.stopping = some .security) = true) := by decide +kernel

/-- One scrub of context 5, of these ranges. -/
def scrubbed (on reset : Bool) (r : List ScrubRange) : State :=
  { base with sec := { base.sec with scrubs := [⟨5, 3, r, [.frame 7], 1, 0, reset, 0⟩], scrubbing := on, owner := [(7, 3)] } }

theorem witness_SecurityResults_scrubs :
    (∀ x ∈ [(0x000, 0, 0), (0x100, 1, 0), (0x200, 2, 2), (0x200, 2, 1), (0x300, 3, 0)], ((BitVec.ofNat 64 x.1 : DWord).extractLsb' 8 2).toNat = x.2.1) ∧
    (∀ x ∈ [(false, false, [ScrubRange.frame 7]), (true, false, [.frame 7]), (true, false, []), (true, true, [])],
      (let s := scrubbed x.1 x.2.1 x.2.2; (has s.sec.scrubs.head? fun y => s.sec.scrubbing = x.1 && y.reset = x.2.1 && y.ranges = x.2.2 && (s.ctx? y.ctx).isNone) = true ∧
        s.sec.owner.wf = true)) ∧
    base.sec.mode = 0 ∧
    (∀ k ∈ [2, 18, 32], (let s := secured 0 [] true none 2; s.sec.mode ≠ 0 ∧ s.ctxs.length = 1 ∧
      (s.ctxs.all fun x => x.2.needsSlot k && x.2.state = .live && x.2.pending = none && x.2.world = 2) = true)) ∧
    base.flowNext (0, 1, 2) = 0 ∧ (1 : BitVec 64).toNat ≠ base.flowNext (0, 1, 2) := by decide +kernel

/-- `base` with its host registers changed. -/
def hosted (f : HostRegs → HostRegs) (s : State := base) : State := { s with hst := f s.hst }

theorem witness_HostResults_resets :
    (let s := { base with islands := [(0, { mhz := 1200, acc := 0, state := 1 })] }; (has (s.islands.get? 0) fun i => i.state = 1 || i.state = 2) = true) ∧
    (2 : DWord).getLsbD 1 = true ∧ ((1 : DWord).getLsbD 0 = true ∧ (1 : DWord).getLsbD 1 = false) ∧
    (∀ n ∈ [0, 1, 2, 7], (hosted fun h => { h with stage := n }).hst.stage = n) ∧
    (∀ n ∈ [0, 1], (hosted fun h => { h with link := n }).hst.link = n) ∧ (16 : BitVec 8).toNat ≥ 16 ∧ (24 : BitVec 8).toNat ≤ 24 ∧
    (∀ p ∈ [(2, 24), (2, 17), (3, 16)], (let s := hosted fun h => { h with link := p.1, lanes := BitVec.ofNat 8 p.2 };
      (s.hst.link = 2 ∨ s.hst.link = 3) ∧ s.hst.lanes.toNat = p.2)) ∧
    (∀ n ∈ [0, 15], n < 16 ∧ (hosted fun h => { h with stage := 3, cladm := 0x0FF0, clfail := 0 }).hst.testing n = true) ∧
    (let s := hosted (fun h => { h with stage := 3, cladm := 0xFFFE, clfail := 1 }) { base with mxcal := true };
      s.hst.stage = 3 ∧ s.mxcal = true ∧ s.hst.cladm ||| s.hst.clfail = BitVec.allOnes 16) ∧
    (let s := hosted fun h => { h with cladm := 0xFFFF, retiredCl := 2 };
      (0x10 : DWord).getLsbD 4 = true ∧ s.hst.cladm.getLsbD 0 = true ∧ s.hst.cladm &&& ~~~(1#16 <<< 0) ≠ 0 ∧ s.hst.retiring = none ∧
      (0x21 : DWord).getLsbD 5 = true ∧ s.hst.retiredCl.getLsbD 1 = true) := by decide +kernel

theorem witness_HostResults_accesses :
    (∀ n ∈ [0, 0xFFFF8], n % 8 = 0 ∧ n < 2 ^ 20) ∧ (4 % 8 ≠ 0) ∧ (2 : Nat) ^ 20 ≤ 0x100000 ∧
    (let s := hosted (fun h => { h with link := 2 }) stacked;
      s.hst.link = 2 ∧ s.stk.ready = true ∧ s.stk.migrating = false ∧ s.partials = [] ∧ s.wordOwner = [] ∧
      (∀ w ∈ [true, false], ∀ pa ∈ linesIn 0x4000F0 32, s.companionBarred w pa = false) ∧
      (∃ pa ∈ linesIn (7 * 2 ^ 36 - 16) 32, s.companionBarred true pa = true)) ∧
    (hosted (fun h => { h with link := 3 }) (stacked fun m => { m with ready := false })).stk.ready = false := by decide +kernel

/-- The machine about to run a VADD. -/
def running : State := State.reset.withProgram (encode (.vadd f0))

theorem witness_StepRunsDecoded :
    (match running.plan with | (_, some (.vadd f)) => f = f0 | _ => false) = true ∧
    (match ({ base with cur := none } : State).plan with | (_, none) => true | _ => false) = true ∧
    (match ({ base with sched := [⟨1, .event .powerOn⟩] } : State).background.sched with | _ :: _ => true | [] => false) = true ∧
    (base.background.sched = [] ∧ base.background.cur = some ⟨0, 0⟩) ∧
    (has (running.team? 0) fun t => has t.groups[0]? fun g => !g.retired && has g.clause fun c => oks (decodeRaw (c.words.drop c.off)) fun _ => true) = true ∧
    (has (atHeader.team? 0) fun t => has t.groups[0]? fun g => !g.retired && g.clause = none && g.mask ≠ 0 && rpc (atHeader.stack t 0 g) ≠ some g.pc &&
      t.stopping = none && oks (atHeader.fetchWord t g.pc.toNat) fun w => isHeader w.1) = true := by decide +kernel

/-- One instruction of each length. -/
theorem witness_DecodeEncode :
    (∀ i ∈ [Instr.vadd (br .base), .sadd ⟨0, 0, 0, 0, 1, 3, .baseLit 5⟩, .qsteal (brX { Word1.zero with sub := 17 }), .sadd ⟨0, 0, 0, 0, 1, 3, .extLit Word1.zero Word2.zero 5⟩,
        .clause ⟨7, 15, 2, 0x800⟩], encode i ≠ [] ∧ wellFormed i = true) := by decide +kernel

/-- One sequence of words of each length. -/
theorem witness_EncodeDecode_InstructionLength :
    (∀ p ∈ [(0, 1), (1, 3), (2, 3), (3, 5)], (let w : Word := BitVec.ofNat 32 (0x10 * 4 + p.1);
      oks (decodeRaw [w, 0, 0, 0, 0]) fun x => w.extractLsb' 0 2 = BitVec.ofNat 2 p.1 && x.2.length + p.2 = 5) = true) := by decide +kernel

theorem witness_MemoryInvariant : base.memWf = true ∧ nexts (step base) = true := by decide +kernel

/-- An instruction of a program, and an event other than the firmware's. -/
theorem witness_ProgramsAreConfined :
    encode (.vadd f0) ≠ [] ∧ nexts (exec (.vadd f0) base) = true ∧ Instr.powerOn ≠ .firmwareLoadDone ∧ nexts (exec .powerOn base) = true := by decide +kernel

/-! Further clauses of the statements above. -/

/-- R187: a table load whose engine is held, by an acquire of its own group, and one that is not. -/
theorem witness_TableResults_held :
    (∀ q ∈ [true, false], (let s := { tables .idle [] 4080 Mask.all with ops := [(6, { op .load with acq := q })] };
      at_ s fun r t g => !g.waiting && g.sel f0 ≠ 0 && (g.s 1).toNat + tableBytes ≤ t.shape.mem && s.engineHeld r == q) = true) := by decide +kernel

/-- R142: a target with a header, one that can be read and is none, and a divergence whose fall-through is none. -/
theorem witness_BranchResults_landing :
    (∀ p ∈ [(-1, false), (0, true)], (at_ (halves []) fun _ t g => let m := g.mask &&& g.guard 1 0
      m ≠ 0 && g.mask &&& ~~~(g.guard 1 0) ≠ 0 && (base.noHeader t (g.here + ((BitVec.ofInt 24 p.1).signExtend 64 <<< 2)) == p.2)) = true) ∧
    (at_ (halves []) fun _ t g => base.noHeader t (g.here + 4)) = true ∧
    (at_ base fun _ t g => g.mask &&& ~~~(g.guard 0 0) = 0 && !base.noHeader t (g.here + (BitVec.allOnes 64 <<< 2))) = true := by decide +kernel

/-- R99, R100: 16 bytes of memory in one line, neither half of which the L1 gives. -/
theorem witness_LoadResults_halves :
    (let s := addressed pageAt;
      at_ s fun r t g => oks (s.checkOne t r.grp 0 16 { write := false } (g.s 1).toNat) fun us => oneUnit false us && !s.memStalled r g false false 16 us &&
        us.all fun u => match u.unit with
          | .phys p _ _ => p.pa % 128 + 16 ≤ 128 && s.l1Take r t.coreN false p 8 = none && s.l1Take r t.coreN false { p with pa := p.pa + 8 } 8 = none
          | _ => false) = true := by decide +kernel

/-- R196, R309: a home that refuses an access whose world no longer owns the frame, and a contribution to a sealed range. -/
theorem witness_HomeArrival_late :
    (let s := { sent (req 0x400100 (.read [⟨0x400100, 4, false, 3, 0⟩])) with sec := { base.sec with fwmat := [] } };
      mayGo s (fun q => !q.atSpad && (s.homeBad q.addr).isNone && s.lateWorld q.world q.addr q.target) = true) ∧
    (let s := sent (req 0x400100 (.read [])); mayGo s (fun q => !s.lateWorld q.world q.addr q.target) = true) ∧
    (let s := { contribs [contrib 0 true] with fab := { base.fab with seals := [⟨0x400000, 0x10000, 1, [0x40]⟩] } };
      has (s.contribs.get? 0) fun c => !c.held && !c.waits && s.homeBad c.unit = none && !s.lateWorld c.world c.unit none && !s.stk.migrating &&
        s.sealedAt c.unit) = true ∧
    (let s := contribs [{ contrib 0 true with waits := true }]; has (s.contribs.get? 0) fun c => c.waits && s.eligible c) = true := by decide +kernel

/-- R157, R159: a context with one fault, and with another after it; a breakpoint in a context that is halting. -/
theorem witness_PageAnswersAndEnds_later :
    (let s := ctxWith fun c => { c with pending := some record, later := [record], ringBase := 0x400800 };
      has (s.ctx? 1) fun c => !c.later.isEmpty && !c.prot && (s.postRecord 1 c record).isSome) = true ∧
    (at_ halting fun _ t _ => has (halting.ctx? t.ctx) (·.halting)) = true := by decide +kernel

/-- A schedule of two turns of one cycle; a group that may go, and one that may not. -/
theorem witness_StepRunsDecoded_turns :
    (let s : State := { base with sched := [⟨1, .event .powerOn⟩, ⟨0, .issue 0 0⟩, ⟨1, .event .boardReset⟩] };
      match s.background.sched with | x :: rest => x.dt = 1 && (rest.takeWhile (·.dt = 0)).length = 1 | [] => false) = true ∧
    (let s := base.background.tick 1; (has (s.team? 0) fun t => has (s.group? ⟨0, 0⟩) fun g => s.ready t 0 g && (s.pick 0 0).isSome) = true) ∧
    (let s : State := mk fun g => { g with sleepUntil := some (2 ^ 30) };
      s.background.sched = [] ∧ s.background.cur = some ⟨0, 0⟩ ∧ 
      (let u : State := ({ s.background with late := false } : State).tick 1; has (u.team? 0) fun t => has (u.group? ⟨0, 0⟩) fun g => !u.ready t 0 g && (u.pick 0 0).isNone) = true) ∧
    ((base.group? ⟨0, 8⟩).isNone = true) := by
  decide +kernel

/-! Every form of a program, and every event, in a state that meets the conditions on which the statement says that it completes. -/

theorem witness_FormsComplete_lanes :
    (at_ base fun _ _ g => !g.flagFull false && (g.sel f0).lanes ≠ []) = true ∧ (at_ (mk fun g => g.setMask 0) fun _ _ g => (g.sel f0).lanes = []) = true ∧
    isSfu 0x39 = false ∧
    (let s := tables .idle [] 4080 Mask.all; at_ s fun r t g => !g.waiting && g.sel f0 ≠ 0 && (g.s 1).toNat % 16 = 0 &&
      (g.s 1).toNat + tableBytes ≤ t.shape.mem && !s.engineHeld r) = true := by decide +kernel

theorem witness_FormsComplete_memory :
    (∀ a ∈ [(spadN, true), (pageN, false)], ∀ k ∈ [({ write := false } : AccKind), { write := true }, { write := true, atom := true },
        { write := true, red := true }], accesses (addressed (BitVec.ofNat 64 a.1)) (if k.atom then accBytes (fAt 0) else 4) k a.2 false = true) ∧
    (∀ k ∈ [({ write := false } : AccKind), { write := true }], accessesV (addressed pageAt) k (oneUnit false) = true ∧
      accesses (addressed pageAt) 8 k false false = true) ∧
    accesses (addressed pageAt) 4 { write := true, red := true, seq := true } false false = true ∧ base.allDone [] = true ∧
    (let s := addressed pageAt; at_ s fun _ t g => !g.flagFull false &&
      oks (s.where_ t.coreN (BitVec.ofInt 64 ((g.s 1).toNat : Int)) 1) fun w => match w with | .virt _ _ => true | _ => false) = true := by decide +kernel

theorem witness_FormsComplete_synchronisation :
    (at_ base fun r _ _ => !base.loadsOut r && !base.copiesOut r && (base.outstanding r).isEmpty && !base.farOut r) = true ∧
    (∀ p ∈ [true, false], (let s := barred (bar 2 (if p then 1 else 0) p);
      at_ s fun r t g => has (t.bars.get? fBar.w2.imm.toNat) fun k => has (s.bars.get? k) fun b => has (b.member? r) fun m =>
        !g.waiting && !b.inert && m.inPhase == p) = true) ∧
    (let s := barred (bar 2 0 false) true;
      at_ s fun _ t g => g.waiting && has (t.bars.get? fBar.w2.imm.toNat) fun k => has (s.bars.get? k) fun b => b.waiters = []) = true ∧
    (∀ p ∈ [(none, true), (some ⟨0, 0⟩, false)], (let s := locked p.1 [];
      at_ s fun r t g => has (t.locks.get? fBar.w2.imm.toNat) fun k => has (s.locks.get? k) fun l => !g.flagFull false &&
        (if p.2 then !l.has r else l.holder = some r && !l.pushing)) = true) ∧
    (∀ p ∈ [(SlotState.f, true), (.cs, false), (.l, false)], (at_ (ringed p.1 .f 1 0) fun r t g => has (t.rings.get? fRing.w2.imm.toNat) fun y =>
      t.relq = [] && (g.s 1).toNat % 16 < y.slots && y.at 0 = p.1 && y.phaseOf 0 = bitAt (g.s 1).toNat 8 && ((y.claim .cs).isSome || !p.2) &&
      has (t.logs.get? fRing.w2.imm.toNat) fun x => r.grp = 0 && x.rd < x.wr) = true) ∧
    (∀ a ∈ [0, 960], (at_ (mk fun g => g.setS 1 (BitVec.ofNat 64 a)) fun r t g => !g.flagFull false && (g.s 1).toNat % 64 = 0 && (g.s 2).toNat % 4 = 0 &&
      (g.s 1).toNat + 64 ≤ t.shape.mem && (base.copyQueue r.team).length < 16 && !base.quiesceOut r.team && !base.entryUsed t r.team 1 0 &&
      (g.s 2).toNat < 256) = true) := by decide +kernel

theorem witness_FormsComplete_units :
    (at_ (tiled (s2 := spadAt + 0x8000)) fun r t g => !g.flagFull false && !tiles.engineHeld r && (oks (tiles.mmaCheck t g (fTile 0 0 0x404)) fun _ => true) &&
      tiles.windowUsed r.team 0 + g.beats.length ≤ 8 && g.beats ≠ []) = true ∧
    (at_ (tiled (m := 1)) fun r t g => !g.flagFull false && !tiles.engineHeld r && t.hasTile 0 && tiles.windowUsed r.team 0 < 8 &&
      (tiles.drainQueue r.team).length < 4 && (oks (tiles.mloadCheck t g (fTile 0)) fun _ => true) && (oks (tiles.drainCheck t g (fTile 0) none) fun _ => true) &&
      (oks (tiles.drainCheck t g (fTile 0 0 1) (some 1)) fun _ => true) && has (t.rings.get? 1) fun x => (x.claim .ce).isSome) = true ∧
    (at_ (tiled (s1 := 0)) fun _ t g => (g.s 1).toNat % 128 = 0 && (g.s 1).toNat + 128 ≤ t.shape.mem && tepBad (tiles.teamRead t (g.s 1).toNat 128) = none) = true ∧
    (at_ (tiled (s1 := 0x200)) fun r t g => tiles.windowUsed r.team 3 < 8 && oks (vociCheck tiles t g (fVoc 0)) fun _ => true) = true ∧
    (at_ (tiled (s1 := 0) (s2 := 0)) fun _ t g => let a := g.s 1; let b := g.s 2
      firstFault (stateTile t 3 ++ [alignTo 16 4 a.toNat, chk (224 < b.toNat || 32 + b.toNat < (t.vocOf 3).t) (mxFault .mmaShape 4 8),
        if b.toNat = 0 then none else teamRange t 4 a.toNat (8 * b.toNat * (t.vocOf 3).ntok)]) = none) = true ∧
    (at_ (tiled ⟨1, 33, 0, 0, 31⟩ (s2 := spadAt)) fun _ t g => (oks (vocfCheck tiles t g (fVoc 63)) fun _ => true) &&
      oks (heapNeed (t.vocOf 3) (fVoc 63).vocNv 3 1) fun _ => true) = true ∧
    (at_ (tiled (s2 := spadAt)) fun _ t g => oks (vocbCheck tiles t (g.setS 4 0x300) (fVoc 4)) fun x => x.1.all fun k => tiles.windowUsed 0 k < 8) = true ∧
    (at_ (tiled ⟨1, 32, 0, 0, 0⟩) fun _ t g => (oks (vocmCheck tiles t g (fVoc 0)) fun _ => true) && (oks (heapNeed (t.vocOf 3) (t.vocOf 3).k 3 3) fun _ => true) &&
      oks (vocrCheck tiles t g (fVoc 0)) fun _ => true) = true := by decide +kernel

theorem witness_FormsComplete_tasks :
    (∀ p ∈ [(0, 0), (960, 63)], (at_ (mk (fun g => (g.setS 1 (BitVec.ofNat 64 p.1)).setS 2 (BitVec.ofNat 64 p.2)) (fun t => { t with shape := { t.shape with mem := 1024 } })
        fun s => { s with ctxs := s.ctxs.map fun x => (x.1, { x.2 with tqMask := BitVec.allOnes 64 }) }) fun r t g =>
      !g.flagFull false && firstFault (blockBad t (g.s 1).toNat 0xFF) = none && r.grp = 0 && t.depth < 10 && (g.s 2).toNat < 64) = true) ∧
    (at_ base fun _ _ _ => has (({ base with ctxs := base.ctxs.map fun x => (x.1, { x.2 with tqMask := 1 }) } : State).ctx? 1) fun c => c.tqMask.getLsbD 0) = true ∧
    ([((0 : Mask), true), (1, false)].all fun p => at_ (mk fun g => g.setP 1 p.1) fun _ t g => let f : FmtBR := ⟨0, 0, 0, 0, 1, 0, .ext { Word1.zero with c := 1 } Word2.zero⟩
      let ls := (g.p (f.c.toNat % 8)).lanes
      ls.isEmpty == p.2 && ls.all fun l => (blockBad t ((g.v f.a.toNat).lane l).toNat l).all (· = none)) = true := by decide +kernel

theorem witness_FormsComplete_fabric :
    (let s := sregs (pageAt + 0x1000) pageAt (glob 1 8) 16;
      at_ s fun r t g => let a := g.s 1; let b := g.s 2; let d := g.s 3; let n := (g.s 4).toNat
        !s.fabHeld r t g false n [a, b] && (oks (s.rangeCheck t r.grp b n { write := false }) fun _ => true) && (oks (s.rangeCheck t r.grp a n { write := true }) fun _ => true) &&
        !s.isFar t.coreN d && (oks (s.checkAll t r.grp 0 8 { write := true, atom := true } [(0xFF, (d.toNat : Int))]) fun _ => true) &&
        s.rankOf t.coreN d = s.rankOf t.coreN a) = true ∧
    (let s := sregs pageAt 1 0 0;
      at_ s fun r t g => let a := g.s 1
        ([false, true].all fun q => (oks (s.checkAll t r.grp 0 4 { write := true, atom := true, seq := q } [(0xFF, (a.toNat : Int))]) fun us =>
          !s.memStalled r g false false 4 us) && firstFault [s.formBad t.coreN a, chk ((decide (regionOf a = some 1)) && (q || (4 : Nat) ≠ 8)) (fabFault .pageProt a),
            chk (a.toNat % 4 ≠ 0) (fabFault .align a), s.fabricBad t [a]] = none) && !s.isFar t.coreN a) = true ∧
    (let s := sregs (glob 1 8) 0 0 0;
      at_ s fun r t g => let a := g.s 1
        firstFault (s.counterBad t.coreN a ++ [chk (s.isFar t.coreN a) (fabFault .tier a)]) = none && firstFault (s.counterBad t.coreN a ++ [s.fabricBad t [a]]) = none &&
        !s.isFar t.coreN a && oks (s.checkAll t r.grp 0 8 { write := false } [(0xFF, (a.toNat : Int))]) fun _ => true) = true ∧
    (let s := sregs (BitVec.ofNat 64 (pageN - pageN % 128)) 0 0 0;
      at_ s fun r t g => let a := g.s 1
        (let d := CollDesc.parse (s.peek t a 128); !s.collHolds r s.nextId (s.bufferPieces t d.src d.srcBytes)) &&
        (oks (s.checkAll t r.grp 0 4 { write := false } (rangeUnits a 128)) fun _ => true) && !s.openColl t.ctx 1 &&
        firstFault [s.formBad t.coreN a, chk (a.toNat % 128 ≠ 0) (fabFault .align a), chk (s.isFar t.coreN a) (fabFault .tier a)] = none) = true := by
  decide +kernel

/-- The conditions that the statements on the same events do not have; the others are met by the states of the witnesses above. -/
theorem witness_EventsComplete :
    (let s := locked none [⟨⟨0, 0⟩, 3⟩]; has ((s.unlockDone 7).locks.get? 7) fun l => l.holder = none && l.queue = [⟨⟨0, 0⟩, 3⟩]) = true ∧
    (let s := copying (cpy (descr false false));
      has (s.team? 0) fun t => t.core.isSome && (s.copies.all fun x => x.2.desc.isSome) && (has ((s.cancelCopies 0 t).copyNext 0 t) fun x => x.2.desc.isSome) &&
        (s.cancelCopies 0 t).executing t.coreN < 16 && (s.cancelCopies 0 t).copyTurn t.coreN = some 0) = true ∧
    (let s := copying { cpy (descr true false) with sub := 1, started := true, asked := true, data := some [1], recv := [⟨0, 0, none, false, false⟩] };
      has ((s.copyRun 5 1).copies.get? 5) fun c => c.data.isSome && c.desc.isSome && !c.parked && has (c.recv.find? fun y => y.core = 0 && !y.committed) fun _ => true) = true ∧
    (let p : Pass := ⟨0, 0x8000, 0, 4, [5], 0, true, 0, none⟩; let s : State := { base with passes := [(1, p)] };
      p.started = none ∧ s.passes = [(1, p)] ∧ s.arraysUsed p.core + p.members.length ≤ 4) ∧
    (let s := ctxWith fun c => { c with pending := some record, heldRec := some ([], 1) };
      has (s.ctx? 1) fun c => c.pending.isSome && (s.postRecord 1 c record).isNone) = true ∧
    (let c := cmd [(0, 1, 3), (4, 4, 1), (8, 1, 1)]; starts c (fun _ => c.f 0 1 = 3 && c.bad []) = true) ∧
    (let s := gridded (grid (some smallShape) 1 0 0);
      has (s.grids.get? 3) fun g => g.next < g.n && s.ctxRuns g.ctx && g.blockTeams = 1 && !s.returnsFirst 0 g.priority &&
        (s.placeTeams 3 smallShape [⟨0, 1, 0x1000⟩]).isSome) = true ∧
    (∀ x ∈ [(1, 2), (2, 2), (3, 1), (4, 1)], (let s := stack0 fun y => { y with busy := true, cmd := x.1, state := x.2 };
      has (s.mailbox 0 x.1) fun y => x.1 = 1 || y.serves = (x.1 = 2)) = true) := by decide +kernel

/-! ### Branches that diverge, and what a home does late -/

/-- 70 lanes true in p1 (`most`), or 26; CLAUSE headers at the next word and 16 bytes on; %cfg.UT as given. -/
def uneven (most ut : Bool) (st : List DivEntry := []) : State :=
  mk (fun g => { g.setP 1 (BitVec.ofNat 96 (2 ^ (if most then 70 else 26) - 1)) with cfg := if ut then 1 else 0, divTop := st }) id fun s =>
    { s with mem := (s.mem.writeN 0x400008 (leBytes 4 0x1FE00004)).writeN 0x400014 (leBytes 4 0x1FE00004) }

/-- The issuing group of `s` diverges at a branch, and meets `P` of its target, fall-through and stack. -/
def diverges (s : State) (f : FmtBra) (P : DWord → DWord → List DivEntry → Bool) : Bool :=
  at_ s fun r t g =>
    let m := g.mask &&& g.guard f.pg f.pn
    let target := g.here + (f.off.signExtend 64 <<< 2)
    m ≠ 0 && g.mask &&& ~~~(g.guard f.pg f.pn) ≠ 0 && !s.noHeader t target && !s.noHeader t (g.here + 4) && g.divSpilled = 0 && P target (g.here + 4) (s.stack t r.grp g)

/-- R139, R140: HINT 3 with UT, where the side that runs goes to the reconvergence point, and where it does not; without UT; a stack whose top is
a JOIN of that point; a stack of 255; a side that cannot be read. -/
theorem witness_BranchResults_diverge :
    (let f : FmtBra := ⟨4, 3, 0, 1⟩;
      (∀ p ∈ [(true, true), (false, true), (true, false)], diverges (uneven p.1 p.2) f (fun target fall st => target ≠ fall && st.isEmpty) = true) ∧
      diverges (uneven true false [⟨0x400014, Mask.all, .join⟩]) f (fun target _ st => st.head?.any fun e => e.kind = .join && e.pc = target) = true ∧
      (diverges (uneven true false (List.replicate 255 ⟨0x400100, Mask.all, .join⟩)) f fun _ _ st => 256 < st.length + 2) = true ∧
      (let s := mk (fun g => { g.setP 1 1 with pc := 0x5FFFF8 }) id fun s => { s with mem := s.mem.writeN 0x5FFFF8 (leBytes 4 0x1FE00004) };
        diverges s ⟨-1, 0, 0, 1⟩ (fun _ fall _ => at_ s fun _ t _ => errs (s.fetchWord t fall.toNat) fun _ => true) = true)) ∧
    (at_ (uneven true false) fun _ t g => oks ((uneven true false).fetchWord t (g.here + 4).toNat) fun w => isHeader w.1) = true := by decide +kernel

/-- R394, R423: a home request whose frame is MOVING, stalled before or not; one routed under the old mapping, whose frame is NEW; one that meets
sealed code. -/
theorem witness_HomeArrival_moving :
    (let s := sent (req 0x400100 (.write [⟨0x400100, [1, 2], none⟩]))
      let u : State := { s with stk := { s.stk with migrating := true, mig := [(2, .moving)] } }
      mayGo u (fun q => !q.atSpad && (u.homeBad q.addr).isNone && !q.isRead && !u.sealedAt q.addr && !u.codeSealedAt q.addr && !q.stalled &&
        u.stk.mig.get? (q.addr / 2 ^ 21) = some .moving) = true ∧
      (let v : State := { u with reqs := u.reqs.upd 5 fun q => { q with stalled := true } }; mayGo v (·.stalled) = true) ∧
      (let v : State := { u with stk := { u.stk with mig := [(2, .new)] }, reqs := u.reqs.upd 5 fun q => { q with phase := 7 } };
        mayGo v (fun q => (v.homeBad q.addr).isNone && q.phase ≠ v.stk.mphase.toNat && v.stk.mig.get? (q.addr / 2 ^ 21) = some .new) = true) ∧
      (let v : State := { s with sec := { s.sec with codeSeals := [⟨1, 0x400000, 0x10000, [0x400000]⟩] } };
        mayGo v (fun q => (v.homeBad q.addr).isNone && !v.sealedAt q.addr && v.codeSealedAt q.addr && !v.lateWorld q.world q.addr q.target) = true)) := by
  decide +kernel

/-- R218 to R220, R394, R423: a contribution of the present phase, to memory that no seal covers, and to sealed code. -/
theorem witness_SequencedReductions_phase :
    (let s := contribs [contrib 0 true]; has (s.contribs.get? 0) fun c => c.phase = s.stk.mphase.toNat && !s.lateWorld c.world c.unit none &&
      !s.sealedAt c.unit && !s.codeSealedAt c.unit) = true ∧
    (let s : State := { contribs [contrib 0 true] with sec := { base.sec with codeSeals := [⟨1, 0x400000, 0x10000, [0x400000]⟩] } };
      has (s.contribs.get? 0) fun c => (s.homeBad c.unit).isNone && !s.sealedAt c.unit && s.codeSealedAt c.unit) = true ∧
    (let s := contribs [{ contrib 0 true with waits := true }]; (has (s.contribs.get? 0) (·.waits) && !s.stk.migrating) = true) := by decide +kernel

/-- R150 to R152: a phase that filled in this cycle, and owes the drop of that cycle, for a member that did not arrive in it; the phase is open; a
barrier that expects one; a group that waits on a phase that is open, and on one that is complete. -/
theorem witness_BarrierResults_filled :
    (∀ n ∈ [1, 3], (let b : Barrier := { bar n 0 false (some 9) with filled := some ⟨2 ^ 26, 0xFFFE, true⟩, open_ := [⟨0xFFFE, [5]⟩] }
      let s := barred b
      at_ s fun r t g => has (t.bars.get? fBar.w2.imm.toNat) fun k => has (s.bars.get? k) fun b => has (b.member? r) fun m =>
        !b.inert && !g.waiting && !m.inPhase && has b.filled fun x => x.at_ = s.ref && x.owing && m.arrived ≠ some x.phase && x.phase ≠ b.phase &&
          b.open_.any fun p => p.phase = x.phase) = true) ∧
    (∀ n ∈ [0xFFFF, 0xFFFE, 7], (let s := barred { bar 3 1 true (some n) with open_ := [⟨0xFFFE, [5]⟩] };
      at_ s fun r _ _ => has (s.bars.get? 7) fun b => has (b.member? r) fun m => m.arrived = some n &&
        decide (n = b.phase || b.open_.any fun x => x.phase = n) == decide (n ≠ 7)) = true) := by decide +kernel

/-- R225, R394: a release whose words are all written, while no migration runs. -/
theorem witness_LockResults_migration :
    (let s := locked (some ⟨0, 0⟩) [] true; has (s.locks.get? 7) fun l => l.pushing && s.allDone l.ids && l.queue = [] && !s.stk.migrating) = true := by
  decide +kernel

/-- R260, R261: a token at its own queue, whose head is blocked: with nothing set aside, and with a copy that is; and whose head is not. -/
theorem witness_CopyIssue_token :
    (let c : Copy := { cpy (descr true false) with blockedFrom := some 0 }
      let k : Token := ⟨0, [.copyQueue 0]⟩
      let s : State := { copying c .ce with tokens := [(3, k)] }
      let u : State := { s with copies := (4, { c with aside := true, blockedFrom := none }) :: s.copies }
      ((has (s.tokens.get? 3) fun k => k.left[0]? = some (.copyQueue k.origin)) && (has (s.blockedHead 0) fun x => x.1 = 5) &&
        (s.copies.all fun x => !x.2.aside)) = true ∧
      ((has (u.blockedHead 0) fun x => x.1 = 5) && (u.copies.any fun x => x.2.team = 0 && x.2.aside) &&
        (has (u.team? 0) fun t => t.groups[c.grp]?.isSome && has (u.ctx? t.ctx) fun y => y.state = .live && y.pending = none)) = true ∧
      (let v : State := { s with copies := [] }; (v.blockedHead 0).isNone = true)) := by decide +kernel

/-- R440, R441: the link is up in the machines of the witnesses of registers that the host and the companion write. -/
theorem witness_linkUp :
    ([base, fabric id base, stacked, secured 1 [], hosted id, roomy base, piloted id, charted, moving [], ctxWith id].all (·.linkUp)) = true ∧
    ([0, 1].all fun n => !(hosted fun h => { h with link := n }).linkUp) = true := by decide +kernel

/-- R394: a write of another rank that meets a MOVING frame; R426: a teardown while no command is in hand; R447: LLCLR and FRAMECLR before READY;
a stack that trains after 2 s, and before. -/
theorem witness_held_events :
    (let s := posted (msg true (.put [1, 2, 3, 4]) .sent); let u : State := { s with stk := { s.stk with migrating := true, mig := [(2, .moving)] } };
      (has (u.msgs.get? 5) fun m => (msgWrites m).1 && match u.inUnits chart0 m.region (msgWrites m).1 (msgWrites m).2 (msgUnits m) with
        | .ok ps => ps.any fun y => u.frameMoving y.1.pa
        | _ => false) = true) ∧
    (ctxWith fun c => { c with prot := true, state := .ending }).sec.cmd = none ∧ (stacked fun m => { m with ready := false }).stk.ready = false ∧
    ([0, 3800000000].all fun n => let s : State := { stack0 (fun x => { x with state := 1 }) (stacked fun m => { m with coldTrain := true, ready := false }) with
        ref := n, hst := { base.hst with stage := 2 } }; (has s.stk.stackTab[0]? fun x => x.state = 1) && s.trainOver == decide (n ≠ 0)) = true := by
  decide +kernel

/-- R449: a launch that no admitted cluster holds, while clusters are untested, and when none is. -/
theorem witness_GridResults_refused :
    ([false, true].all fun x => let s := gridded (grid none 1 0 0); let u : State := { s with hst := { s.hst with cladm := 0, clfail := if x then 0xFFFF else 1 } };
      has (u.grids.get? 3) fun g => g.shape = none && g.token = 0 && !g.failed && u.ctxLive g.ctx && g.index ≠ none && u.hst.cladm = 0 && g.cmd = some 9 &&
        (u.hst.cladm ||| u.hst.clfail == BitVec.allOnes 16) == x &&
        match u.readHeader g.ctx g.entry false (g.width ≠ 0) { kib := g.memKiB } with
          | .ok y => y.frameBytes 18 ≤ ((u.ctx? g.ctx).map (·.slotBytes)).getD 0
          | _ => false) = true := by decide +kernel

/-- R432: a unit of each kind of range, the last of it and not; the scrub of a reset, some of it done. R414: a message leaves in a protected mode. -/
theorem witness_SecurityResults_units :
    ([(ScrubRange.spad 0 0x8000 8192, 2), (.tiles 0 [1], 6), (.frame 7, 512)].all fun x => [0, x.2 - 1].all fun n =>
      let s := scrubbed true false [x.1]; let u : State := { s with stk := { s.stk with ready := true }, sec := { s.sec with scrubs := s.sec.scrubs.map fun y => { y with at_ := n } } };
      u.sec.scrubbing && u.stk.ready && has u.sec.scrubs.head? fun y => !y.reset && y.ranges = [x.1] && x.1.units = x.2 && y.at_ < x.1.units) = true ∧
    (base.spad.wf && base.tmem.wf && base.mem.wf && base.sec.mode = 0) = true ∧
    (has (scrubbed true true []).sec.scrubs.head? fun y => y.reset && y.done < y.total) = true ∧
    (secured 0 [] true none 1).sec.mode ≠ 0 := by decide +kernel

/-- R443 to R446: the stages in which a reset comes; the mode that the next one takes, the same or another. -/
theorem witness_HostResults_stages :
    ([0, 1, 2, 4, 7].all fun n => (hosted fun h => { h with stage := n }).hst.stage = n) = true ∧
    ([(0, 0), (0, 1), (1, 1), (1, 0)].all fun p => let s : State := { base with sec := { base.sec with mode := p.1, next := p.2 } };
      s.memWf && (s.sec.next = s.sec.mode) == (p.1 == p.2)) = true ∧
    (let s := stack0 fun x => { x with state := 4, repaired := [0x400080] }; has s.stk.stackTab[0]? fun x => x.state = 4) = true ∧
    (let s := scrubbed false false [.frame 7]; s.sec.scrubs.all fun x => !x.reset) = true ∧
    ([(1, true), (2, true), (1, false)].all fun p => let s : State := { base with islands := [(0, { mhz := 1200, acc := 0, state := p.1 })] };
      has (s.islands.get? 0) fun i => i.state = 1 || i.state = 2) = true := by decide +kernel

/-- R441, R442: register accesses of the companion: 8 aligned bytes read and written, one that is not aligned, and one of 4 bytes. -/
theorem witness_HostResults_companion :
    ([(⟨true, true, 0x8, 8, List.replicate 8 1⟩, true), (⟨false, true, 0x8, 8, []⟩, true), (⟨false, true, 0x4, 8, []⟩, false),
      (⟨true, true, 0x8, 8, List.replicate 4 1⟩, false)].all fun (p : CompAccess × Bool) => p.1.reg &&
        (p.1.addr % 8 = 0 && (if p.1.write then p.1.data.length else p.1.bytes) = 8) == p.2) = true := by decide +kernel

/-- R88, R148: every special register is known; a value that each writable one takes. -/
theorem witness_FormsComplete_special :
    ([0, 1, 10, 0x10, 0x14, 0x18, 0x1B, 0x20, 0x26].all srKnown) = true ∧ cvmOk 0 = true ∧ cfgOk 0 = true ∧ codeAddrOk 0x400000 = true := by decide +kernel

/-- R394, R218: writes that no frame holds, and a contribution that nothing late refuses. -/
theorem witness_EventsComplete_held :
    ((withOp (tileOp [0] (.zero [0])) tiles).holdWrites 5 [] = (false, withOp (tileOp [0] (.zero [0])) tiles)) ∧
    (let s := contribs [contrib 0 true]; has (s.contribs.get? 0) fun c => s.lateRefusal c.world c.unit true = none && !s.frameMoving c.unit &&
      !s.frameDrains c.unit && !s.replayed c.unit c.phase && s.eligible c) = true := by decide +kernel

/-- Tile 3 with one valid record, the next shard's image at 0x1000 of team memory, and one operation of that tile, as VOCB's with its gradient
tiles. -/
def vocabulary (tiles_ : List Nat) (k : TileOpKind) : State :=
  { withOp (tileOp tiles_ k) tiles with
    tmem := [(3 * 24576 + 6, 0x80), (3 * 24576 + 7, 0x3F), (3 * 24576 + 0x18, 1), (3 * 24576 + 0x2A, 1), (3 * 24576 + 0x2B, 1)]
    spad := tileSpad ++ [(0x1018, 1), (0x101C, 1), (0x101E, 1), (0x102A, 1), (0x102B, 1)] }

/-- The operation may take effect, and the machine without it meets `P`. -/
def vocGoes (tiles_ : List Nat) (k : TileOpKind) (P : State → Team → List Nat → Bool) : Bool :=
  let s := vocabulary tiles_ k
  has (s.tileOps.get? 5) fun o => has (s.team? o.team) fun t => let v : State := { s with tileOps := s.tileOps.del 5 }
    s.tileMayGo 5 o && t.core ≠ none && o.tiles.head?.isSome && s.memWf && P v t (v.vocValid t 3)

/-- R329, R330, R338, R341, R342: each operation of the vocabulary unit on its tile: VOCM with an image that is good and one that is bad, VOCB with
a gradient that is a number, VOCR while no migration runs. -/
theorem witness_VocabularyResults_effects :
    vocGoes [3] (.voci (List.replicate 64 0)) (fun _ _ recs => recs = [0]) = true ∧ ([0, 1].all fun c => vocGoes [3] (.vociSpill 0 c) fun _ _ _ => true) = true ∧
    ([(0x1000, true), (0x2000, false)].all fun p => vocGoes [3] (.vocm p.1) fun v t recs => recs.all fun r =>
      let x := v.vocRec t 3 r; let b := v.spad.readN (p.1 + r * imageBytes x.k) (imageBytes x.k); (x.imageBad b (VocRec.parse b (b.drop 512))).isNone == p.2) = true ∧
    vocGoes [3, 0, 1] (.vocb 0 0 0x8000 none 32 1 0x300 0 1 0 0) (fun v t recs => t.physTile 0 ≠ t.physTile 1 && recs.all fun r =>
      let x := v.vocRec t 3 r; let c := v.chunk 0 0 0x8000 none 32 1; let z := ((c.logits r x.rt)[0]?).getD 0
      x.m ≠ negInf && f32v z ≠ .nan && z ≠ posInf && f32v (f32r ((sumExact false [f32v (f32r ((f32v (exp2Diff z x.m)).div (f32v x.s))), .fin false 0 0]).mul
        (f32v (leNat (v.teamRead t (0x300 + 4 * r) 4))))) ≠ .nan) = true ∧
    vocGoes [3] (.vocr pageAt ((List.range 32).map fun n => (n % 2 = 0, pageN + 16 * n))) (fun v t _ => !v.stk.migrating && v.stk.held = [] &&
      (v.lateRefusal (v.worldOf t) pageN true).isNone) = true := by decide +kernel

/-! ### A frame of a team

The page at 0x400000 holds the frame of team 0 at 0x402000. -/

/-- An address walks as another of its page of 64 KiB does. -/
theorem walk_page (s : State) (va vb : Nat) (h : va / 2 ^ 16 = vb / 2 ^ 16) (lvs : List Nat) : ∀ tbl, s.walk va tbl lvs = s.walk vb tbl lvs := by
  have key (lv : Nat) : va / 2 ^ (levelBits lv).1 = vb / 2 ^ (levelBits lv).1 := by
    have : ∃ k, (levelBits lv).1 = 16 + k := by
      unfold levelBits
      split
      · exact ⟨32, rfl⟩
      · exact ⟨23, rfl⟩
      · exact ⟨14, rfl⟩
      · exact ⟨5, rfl⟩
      · exact ⟨0, rfl⟩
    obtain ⟨k, hk⟩ := this
    rw [hk, Nat.pow_add, ← Nat.div_div_eq_div_mul, ← Nat.div_div_eq_div_mul, h]
  induction lvs with
  | nil => intro tbl; rfl
  | cons lv rest ih => intro tbl; simp only [State.walk, State.walkEntry, key, ih]

/-- Team 0 as `f` leaves it, in a context of one frame slot; a good frame header stands in its frame. -/
def framed (f : Team → Team) : State :=
  let s := ctxWith (fun c => { c with frameBase := 0x402000, slotBytes := 0x8000 })
    (resting fun t => f { t with shape := { t.shape with v := 0, mem := 0 }, bank0 := List.replicate 4112 0, bank1 := List.replicate 4112 0 })
  match s.team? 0, s.ctx? 1 with
  | some t, some c => { s with mem := s.mem.writeN 0x402000 (frameHeader c t 1 0 0 0 0 12288 0 []) }
  | _, _ => s

/-- The team stopped by a pre-emption, and saved. -/
def stopped : State := framed fun t => { t with stopping := some .preempt }
def saved : State := framed fun t => { t with state := .saved, core := none }

/-- What the translation of an address of the page needs. -/
def mapped (s : State) : Bool :=
  (match s.ctx? 1 with
    | some c => (match s.walk 0x400000 c.root [4, 3, 2, 1, 0] with
      | .ok l => l.va = 0x400000 && l.phys = 0x400000 && !l.nc && !l.eo && l.w && l.level = 1
      | .error _ => false)
    | none => false)
  && s.stk.cache = 0 && s.sec.codeSeals.isEmpty && s.fab.seals.isEmpty && s.sec.owner.isEmpty && s.stk.flat = 0xC000000000 && s.permits 2 1
  && s.partials.isEmpty && s.wordOwner.isEmpty && s.stk.lost.isEmpty && s.stk.fenced.isEmpty

/-- Such an address is its own physical address. -/
theorem mapped_xlate (s : State) (h : mapped s = true) (va : Nat) (acc : Acc) (ha : 0x400000 ≤ va) (hb : va < 0x410000) (hc : acc ≠ .fetch) :
    s.xlate none 1 2 va acc = .ok ⟨va, false, 1, []⟩ := by
  have hd : va / 2 ^ 16 = 0x400000 / 2 ^ 16 := by omega
  simp only [mapped, Bool.and_eq_true, decide_eq_true_eq, List.isEmpty_iff] at h
  obtain ⟨⟨⟨⟨⟨⟨⟨⟨⟨⟨hw, h1⟩, h2⟩, h3⟩, h4⟩, h5⟩, h6⟩, -⟩, -⟩, -⟩, -⟩ := h
  split at hw <;> try contradiction
  rename_i c hctx
  rw [← walk_page s va 0x400000 hd] at hw
  split at hw <;> try contradiction
  rename_i l hl
  simp only [Bool.and_eq_true, decide_eq_true_eq, Bool.not_eq_true'] at hw
  obtain ⟨⟨⟨⟨⟨e1, e2⟩, e3⟩, e4⟩, e5⟩, e6⟩ := hw
  have hpa : 0x400000 + (va - 0x400000) = va := by omega
  have hk : s.physKind va = .hbm := by simp [State.physKind, h5]; omega
  have ho : s.ownerWorld va = 1 := by simp [State.ownerWorld, h4, Tbl.get?]
  simp [State.xlate, State.findLeaf, hctx, hl, h1, State.codeSealBad, h2, Except.map, e1, e2, e3, e4, e5, e6, hpa, hk, hc, State.codeSealedAt,
    State.sealedAt, h3, ho, h6]

/-- Nor is a range of such addresses moved. -/
theorem mapped_range (s : State) (h : mapped s = true) (acc : Acc) (hc : acc ≠ .fetch) (n : Nat) : ∀ va, 0x400000 ≤ va → va + n ≤ 0x410000 →
    s.xlateRange none 1 2 va acc n = .ok (List.range' va n, []) := by
  induction n with
  | zero => intro va _ _; rfl
  | succ n ih =>
    intro va ha hb
    simp only [State.xlateRange, mapped_xlate s h va acc ha (by omega) hc, ih (va + 1) (by omega) (by omega), List.range'_succ, List.nil_append]

/-- No line of it is lost, and nothing is held back of what it reads as. -/
theorem mapped_reads (s : State) (h : mapped s = true) (p : Nat) : s.isLost p = false ∧ (s.combine p 1).mem = s.mem := by
  simp only [mapped, Bool.and_eq_true, decide_eq_true_eq, List.isEmpty_iff] at h
  obtain ⟨⟨⟨⟨-, h7⟩, h8⟩, h9⟩, h10⟩ := h
  have hf : s.flushOwner p 1 = s := by
    unfold State.flushOwner
    generalize wordsOf p 1 = ws
    induction ws with
    | nil => rfl
    | cons w ws ih => simpa [List.foldl_cons, h8, Tbl.get?] using ih
  exact ⟨by simp [State.isLost, h9, h10], by simp [State.combine, hf, State.combinePartials, h7]⟩

/-- What the engine reads of such a range. -/
theorem mapped_engRead (s : State) (h : mapped s = true) (hw : s.ctxWorld 1 = 2) (va n : Nat) (ha : 0x400000 ≤ va) (hb : va + n ≤ 0x410000) :
    s.engRead 1 va n .read = .ok ((List.range' va n).map s.mem.read) := by
  have hl : (List.range' va n).find? s.isLost = none := by simp [List.find?_eq_none, (mapped_reads s h _).1]
  simp [State.engRead, hw, mapped_range s h .read (by decide) n va ha hb, hl, (mapped_reads s h _).2]

theorem mapped_states : (mapped stopped && mapped saved && stopped.ctxWorld 1 = 2 && saved.ctxWorld 1 = 2) = true := by decide +kernel

/-- R226 to R231: a stopped team that may be saved, whose frame translates. -/
theorem witness_TeamSwitching_save :
    (has (stopped.team? 0) fun t => has (stopped.ctx? t.ctx) fun c => c.state = .live && c.pending.isNone && !c.prot && t.ctx = 1 && t.state = .running &&
      t.stopping = some .preempt && t.ioToken = 0 && stopped.canSave 0 t && stopped.locks.isEmpty && t.bars.isEmpty && stopped.memWf && stopped.l1.isEmpty &&
      c.frameAt t.frameSlot = 0x402000 && (272 + (stopped.frameBody 0 t).length ≤ 0x8000)) = true ∧
    (∀ n, n ≤ 0x8000 → stopped.xlateRange none 1 2 0x402000 .write n = .ok (List.range' 0x402000 n, []) ∧ (List.range' 0x402000 n).Nodup ∧
      ∀ p, stopped.isLost p = false) := by
  have h := mapped_states
  simp only [Bool.and_eq_true] at h
  exact ⟨by decide +kernel, fun n hn => ⟨mapped_range _ h.1.1.1 .write (by decide) n _ (by decide) (by omega), List.nodup_range' .., fun p => (mapped_reads _ h.1.1.1 p).1⟩⟩

/-- A range that no cell of memory stands in reads as zero. -/
theorem reads_zero (lo hi : Nat) : ∀ m : Memory, (m.all fun c => c.1 < lo || hi ≤ c.1) = true → ∀ a, lo ≤ a → a < hi → m.read a = 0
  | [], _, _, _, _ => rfl
  | (j, b) :: m, h, a, ha, hb => by
    simp only [List.all_cons, Bool.and_eq_true, Bool.or_eq_true, decide_eq_true_eq] at h
    have hj : j ≠ a := by omega
    simp only [Memory.read, hj, if_false]
    split
    · rfl
    · exact reads_zero lo hi m h.2 a ha hb

/-- The fields of bytes that are all zero. -/
theorem zeroAt_zeros (k off n : Nat) : zeroAt (List.replicate k 0#8) off n = true := by simp [zeroAt]
theorem bytesNum_zeros (k off n : Nat) : bytesNum (List.replicate k 0#8) off n = 0 := by
  simp only [bytesNum, List.drop_replicate, List.take_replicate]
  generalize min n (k - off) = j
  induction j with
  | zero => rfl
  | succ j ih => rw [List.replicate_succ, leNat, ih]; rfl
theorem bodyGood_zeros (x : Shape) (k : Nat) : bodyGood x 0 (List.replicate k 0#8) = true := by
  have h : codeAddrOk 0#64 = true := by decide
  simp [bodyGood, Shape.parts, groupZeros, engineZeros, bankZeros, List.drop_replicate, List.take_replicate, zeroAt_zeros, bytesNum_zeros, bitsOf, h]

/-- The bytes of the saved team's frame. -/
theorem saved_frame : (List.range' 0x402000 12560).map saved.mem.read = (List.range' 0x402000 256).map saved.mem.read ++ List.replicate 12304 0 := by
  have hm : (saved.mem.all fun c => c.1 < 0x402100 || 0x410000 ≤ c.1) = true := by decide +kernel
  have h : (List.range' 0x402100 12304).map saved.mem.read = List.replicate 12304 0 := by
    rw [List.eq_replicate_iff]
    refine ⟨by simp, fun b hb => ?_⟩
    obtain ⟨a, ha, rfl⟩ := List.mem_map.1 hb
    have := List.mem_range'_1.1 ha
    exact reads_zero _ _ _ hm a (by omega) (by omega)
  rw [← h, ← List.map_append]
  exact congrArg _ (List.range'_append (s := 0x402000) (m := 256) (n := 12304) (step := 1)).symm

/-- The frame of a team without parked copies: a good header, and zeros. -/
theorem checkFrame_zeros (s : State) (c : Ctx) (t : Team) (hdr : List Byte) (hc : c.prot = false) (hl : hdr.length = 256)
    (hn : t.shape.frameBytes 0 = 12560) (hg : headerGood s c t 0 hdr = true) :
    s.checkFrame c t 0 (hdr ++ List.replicate 12304 0) = .ok (List.replicate 12288 0) := by
  have h1 : (hdr ++ List.replicate 12304 0).take 256 = hdr := by rw [← hl, List.take_left]
  have h2 : (hdr ++ List.replicate 12304 0).drop 256 = List.replicate 12304 (0 : Byte) := by rw [← hl, List.drop_left]
  have h3 : zeroAt (hdr ++ List.replicate 12304 0) 12544 16 = true := by
    have : (12544 : Nat) = 256 + 12288 := rfl
    rw [zeroAt, this, ← List.drop_drop, h2]
    exact zeroAt_zeros 12304 12288 16
  simp only [State.checkFrame, hn, h1, h2, hg, hc, h3, List.take_replicate, Bool.not_true, Bool.not_false, Bool.false_eq_true, if_false, if_true]
  rw [if_pos]
  · rfl
  · exact Bool.and_eq_true_iff.2 ⟨bodyGood_zeros _ _, rfl⟩

/-- A saved team that a core has room for, whose frame is good. -/
theorem witness_TeamSwitching_restore :
    (has (saved.team? 0) fun t => has (saved.ctx? t.ctx) fun c => !c.prot && t.ctx = 1 && saved.waitsReturn t && saved.mayReturn 0 t 0 &&
      saved.teams.length = 1 && saved.fits t.shape t.grid (some t.cluster) ⟨0, 7, 0⟩ && c.frameAt t.frameSlot = 0x402000 && (saved.parkList 0).isEmpty &&
      t.shape.frameBytes 0 = 12560 && headerGood saved c t 0 ((List.range' 0x402000 256).map saved.mem.read)) = true ∧
    (∀ n, n ≤ 0x8000 → saved.engRead 1 0x402000 n .read = .ok ((List.range' 0x402000 n).map saved.mem.read)) := by
  have h := mapped_states
  simp only [Bool.and_eq_true, decide_eq_true_eq] at h
  exact ⟨by decide +kernel, fun n hn => mapped_engRead saved h.1.1.2 h.2 0x402000 n (by omega) (by omega)⟩

/-- The frame of the saved team passes its check. -/
theorem saved_checks : ∃ t c b, saved.team? 0 = some t ∧ saved.ctx? t.ctx = some c ∧
    saved.checkFrame c t 0 ((List.range' 0x402000 12560).map saved.mem.read) = .ok b := by
  have h := witness_TeamSwitching_restore.1
  cases ht : saved.team? 0 with
  | none => rw [ht] at h; contradiction
  | some t =>
    cases hc : saved.ctx? t.ctx with
    | none => simp only [ht, has, hc] at h; contradiction
    | some c =>
      simp only [ht, has, hc, Bool.and_eq_true, decide_eq_true_eq, Bool.not_eq_true'] at h
      exact ⟨t, c, _, rfl, hc, by rw [saved_frame]; exact checkFrame_zeros _ _ _ _ h.1.1.1.1.1.1.1.1.1 (by simp) h.1.2 h.2⟩


/-! ### Words of the spec's own examples -/

/-- The words that the chapters work out: 03 "Placing the output" before, 05 R150, 06 R165 and R176, 07 R196 and R221. -/
theorem test_examples_core : decodesTo [
    ([0x3E400004#32], .clause ⟨1, 15, 2, 0⟩), ([0x00009144#32], .vfrsq ⟨0, 0, 0, 0, 1, 8, .base⟩), ([0x006112C8#32], .vmul ⟨0, 0, 0, 3, 2, 9, .base⟩),
    ([0x1FE00804#32], .clause ⟨0, 15, 15, 4⟩), ([0x0000C1FE#32, 0x0021054A#32, 0x0030A5B5#32], .pair ⟨0, 0, 6, 0, 0, ⟨0, 0, 4, 8, 10, 0x4A⟩, ⟨0, 0, 6, 5, 11, 0x35⟩⟩),
    ([0x1FE00004#32], .clause ⟨0, 15, 15, 0⟩), ([0x00000020#32], .exit ⟨0, 0, 0, 0, 0, 0, .base⟩),
    ([0x00030022#32, 0#32, 0#32], .exitS ⟨0, 0, 0, 0, 6, 0, .ext Word1.zero Word2.zero⟩),
    ([0x000001E2#32, 0x00000080#32, 0x00000002#32], .barSync ⟨0, 0, 0, 0, 0, 0, .ext { Word1.zero with sub := 2 } ⟨0, 2⟩⟩),
    ([0x00030AC2#32, 0x00082000#32, 0x01000007#32], .vadd ⟨0, 0, 0, 0, 6, 5, .ext { Word1.zero with ty := 2, sat := 1 } ⟨1, 7⟩⟩),
    ([0x00010B62#32, 0x50006000#32, 0#32], .vfcvt ⟨0, 0, 0, 0, 2, 5, .ext { Word1.zero with mod := 10, ty := 6 } Word2.zero⟩),
    ([0x000111C2#32, 0#32, 0x0A000040#32], .ld ⟨0, 0, 0, 0, 2, 8, .ext Word1.zero ⟨10, 0x40⟩⟩),
    ([0x00A201D6#32, 0x08000200#32, 0x02000000#32], .redFadd ⟨0, 0, 0, 5, 4, 0, .ext { Word1.zero with mod := 1, sub := 8 } ⟨2, 0⟩⟩),
    ([0x00A201D6#32, 0x10000201#32, 0x02000000#32], .redFadd ⟨0, 0, 0, 5, 4, 0, .ext { Word1.zero with mod := 2, sub := 8, c := 1 } ⟨2, 0⟩⟩)] = true := by
  decide +kernel

/-- 08 R232 and "A join", 09 R265, 10 R312, 11 R325, 12 R370. -/
theorem test_examples_engines : decodesTo [
    ([0x014481EE#32, 0x000000CB#32, 0#32], .gthr ⟨0, 0, 0, 10, 9, 0, .ext { Word1.zero with sub := 3, c := 11 } Word2.zero⟩),
    ([0x00069DEA#32, 0x00000080#32, 0#32], .ringWait ⟨0, 0, 0, 0, 13, 14, .ext { Word1.zero with sub := 2 } Word2.zero⟩),
    ([0x032C03F2#32, 0#32, 0x00000404#32], .mma ⟨0, 0, 0, 25, 24, 1, .ext Word1.zero ⟨0, 0x404⟩⟩),
    ([0x000005F2#32, 0x00000040#32, 0#32], .mzero ⟨0, 0, 0, 0, 0, 2, .ext { Word1.zero with sub := 1 } Word2.zero⟩),
    ([0x01E4FFFA#32, 0x00000100#32, 0#32], .sigwait ⟨0, 0, 0, 15, 9, 63, .ext { Word1.zero with sub := 4 } Word2.zero⟩),
    ([0x02C301FA#32, 0x000000C0#32, 0x03000000#32], .radd ⟨0, 0, 0, 22, 6, 0, .ext { Word1.zero with sub := 3 } ⟨3, 0⟩⟩),
    ([0x008101F6#32, 0x00000045#32, 0x00000F00#32], .vocf ⟨0, 0, 0, 4, 2, 0, .ext { Word1.zero with sub := 1, c := 5 } ⟨0, 0xF00⟩⟩),
    ([0x000301F6#32, 0x000000C0#32, 0#32], .vocm ⟨0, 0, 0, 0, 6, 0, .ext { Word1.zero with sub := 3 } Word2.zero⟩),
    ([0x000183F6#32, 0#32, 0#32], .voci ⟨0, 0, 0, 0, 3, 1, .ext Word1.zero Word2.zero⟩),
    ([0x000501F6#32, 0x00000100#32, 0#32], .vocr ⟨0, 0, 0, 0, 10, 0, .ext { Word1.zero with sub := 4 } Word2.zero⟩),
    ([0x000101FA#32, 0x08000402#32, 0#32], .qspawnV ⟨0, 0, 0, 0, 2, 0, .ext { Word1.zero with mod := 1, sub := 16, c := 2 } Word2.zero⟩),
    ([0x006109FA#32, 0x00000440#32, 0#32], .qsteal ⟨0, 0, 0, 3, 2, 4, .ext { Word1.zero with sub := 17 } Word2.zero⟩),
    ([0x000381FA#32, 0x00000500#32, 0#32], .gjoin ⟨0, 0, 0, 0, 7, 0, .ext { Word1.zero with sub := 20 } Word2.zero⟩)] = true := by decide +kernel

/-! ### Single steps -/

/-- After the instruction, the issuing group of the machine meets `P`. -/
def after (i : Instr) (s : State) (P : Group → Bool) : Bool :=
  match exec i s with
  | .next u => has (u.group? ⟨0, 0⟩) P
  | _ => false

/-- The group with these values in s1 and s2. -/
def two (a b : Nat) : State := mk fun g => (g.setS 1 (BitVec.ofNat 64 a)).setS 2 (BitVec.ofNat 64 b)

/-- The scalar result of an instruction of s3, s1 and s2. -/
def sGives (i : Instr) (a b r : Nat) : Bool := after i (two a b) fun g => (g.s 3).toNat = r

/-- R144, R145: the product's high half is signed; division truncates toward zero; a zero divisor gives all ones and the dividend. -/
theorem test_scalar : ([sGives (.sadd f0) (2 ^ 64 - 1) 1 0, sGives (.ssub f0) 0 1 (2 ^ 64 - 1), sGives (.smulh f0) (2 ^ 64 - 1) 2 (2 ^ 64 - 1),
    sGives (.smul f0) (2 ^ 63) 2 0, sGives (.sdiv f0) (2 ^ 64 - 7) 2 (2 ^ 64 - 3), sGives (.srem f0) (2 ^ 64 - 7) 2 (2 ^ 64 - 1),
    sGives (.smin f0) (2 ^ 64 - 1) 0 (2 ^ 64 - 1), sGives (.sandn f0) 0xFF 0x0F 0xF0, sGives (.ssra f0) (2 ^ 63) 63 (2 ^ 64 - 1),
    sGives (.sdiv f0) 5 0 (2 ^ 64 - 1), sGives (.srem f0) 5 0 5]).all id = true := by decide +kernel

/-- The group with the lane patterns `a` and `b` in every lane of v1 and v2. -/
def lanes2 (a b : Nat) : State := mk fun g => (g.setV 1 Mask.all fun _ => BitVec.ofNat 32 a).setV 2 Mask.all fun _ => BitVec.ofNat 32 b

/-- The result of an instruction of v3, v1 and v2 in lane 95. -/
def vGives (i : Instr) (a b r : Nat) : Bool := after i (lanes2 a b) fun g => ((g.v 3).lane 95).toNat = r

/-- R166: i32 wraps; elements of i16x2 do not carry into one another; the example of R165 saturates. -/
theorem test_vector_integer : ([vGives (.vadd f0) 0xFFFFFFFF 2 1, vGives (.vsub f0) 0 1 0xFFFFFFFF, vGives (.vmulh f0) 0xFFFFFFFF 2 0xFFFFFFFF,
    vGives (.vabs ⟨0, 0, 0, 0, 1, 3, .base⟩) 0xFFFFFFFB 0 5, vGives (.vclz ⟨0, 0, 0, 0, 1, 3, .base⟩) 1 0 31,
    vGives (.vadd (brX { Word1.zero with ty := 2 })) 0x0001FFFF 1 0x00010000,
    vGives (.vadd (brX { Word1.zero with ty := 2, sat := 1 })) 0x7FFF7FFF 0x00010001 0x7FFF7FFF]).all id = true := by decide +kernel

/-- R170: 1 + 2 = 3; RNE breaks 1 + 2^-24 to even; the sum of opposite infinities is the canonical NaN. -/
theorem test_vector_float : ([vGives (.vfadd f0) 0x3F800000 0x40000000 0x40400000, vGives (.vfadd f0) 0x3F800000 0x33800000 0x3F800000,
    vGives (.vfadd f0) 0x7F800000 0xFF800000 0x7FC00000, vGives (.vfmul f0) 0x40000000 0xC0400000 0xC0C00000,
    vGives (.vfsub f0) 0x3F800000 0x3F800000 0, vGives (.vfmin f0) 0x80000000 0 0x80000000]).all id = true := by decide +kernel

/-- R45 to R47: the worked example of stochastic rounding from FP32 to BF16. -/
theorem test_stochastic :
    ((srInit 0).lane 0 = 0x9E3779B9 ∧ srStep 0x9E3779B9 = 0x510C4619) ∧
    (∀ p ∈ [(0x3F804000, 0x3F80), (0x3F80C000, 0x3F81)],
      after (.vfcvt ⟨0, 0, 0, 0, 1, 3, .ext { Word1.zero with mod := 2, ty := 6 } Word2.zero⟩)
        (mk fun g => { g.setV 1 Mask.all fun _ => BitVec.ofNat 32 p.1 with cvm := 5 }) (fun g => ((g.v 3).lane 0).toNat = p.2 && (g.srseed.extractLsb' 0 32).toNat = 1) = true) := by
  decide +kernel

/-- R176: the tie of the example goes to even, in element 1, and element 0 is kept. -/
theorem test_vfcvt : after (.vfcvt ⟨0, 0, 0, 0, 2, 5, .ext { Word1.zero with mod := 10, ty := 6 } Word2.zero⟩)
    (mk fun g => (g.setV 2 Mask.all fun _ => 0x3F808000).setV 5 Mask.all fun _ => 0x1234) (fun g => (g.v 5).lane 0 = 0x3F801234) = true := by decide +kernel

/-- R52, R179: the worked MXFP4 block. -/
theorem test_mx_quantise : after (.vfpack ⟨0, 0, 0, 0, 1, 3, .ext { Word1.zero with mod := 7, ty := 6 } Word2.zero⟩)
    (mk fun g => g.setV 1 Mask.all fun l => if l = 0 then 0x40E00000 else if l = 1 then 0xC0A00000 else if l = 2 then 0x3E800000 else 0)
    (fun g => (g.v 3).lane 0 = 0x000000E7 && (g.v 3).lane 31 = 0x7F) = true := by decide +kernel

/-- R195: the base form stores eight bytes, the lowest first. -/
theorem test_sts : (match exec (.sts ⟨0, 1, 3⟩) (mk fun g => (g.setS 1 spadAt).setS 3 0x1122334455667788) with
    | .next u => u.spad.readN 0 8 = [0x88, 0x77, 0x66, 0x55, 0x44, 0x33, 0x22, 0x11]
    | _ => false) = true := by decide +kernel

/-- R139, the example after R141: 70 of 96 lanes go round a backward branch; a JOIN at the fall-through holds every lane, and no PATH is pushed. -/
theorem test_branch : after (.bra ⟨-1, 0, 0, 1⟩) (mk (fun g => g.setP 1 (BitVec.ofNat 96 (2 ^ 70 - 1))) id fun s => { s with mem := s.mem.writeN 0x400008 (leBytes 4 0x1FE00004) }) (fun g =>
    g.divTop = [⟨0x400008, Mask.all, .join⟩] && g.pc = 0x400000 && g.mask.toNat = 2 ^ 70 - 1) = true := by decide +kernel

/-- R154: TRAP 7 enters the handler with code TRAP_SW, the word after it in %trappc, and its number in the high half of %trapinfo. -/
theorem test_trap : after (.trap ⟨7, 0, 0⟩) (mk fun g => { g with trapvec := 0x400100 }) (fun g =>
    g.pc = 0x400100 && g.intrap && g.trapcode = 0x70 && g.trappc = 0x400008 && g.trapinfo = 0x700000000) = true := by decide +kernel
end Sys2Proof.Tests
end

section
/-! PROOFS. Reading a register after a write (01_machine.md R33, R34; 03_encoding.md R66). -/
namespace Sys2Proof.Machine
open Sys2Proof

/-! ### Registers of a group -/

@[simp] theorem Group.setS_63 (g : Group) (x : DWord) : g.setS 63 x = g := rfl

@[simp] theorem Group.setP_0 (g : Group) (m : Mask) : g.setP 0 m = g := rfl

/-- R34: a write of s60, s61 or s62 keeps the low word without the lanes that have exited. -/
theorem Group.s_setS_mask (g : Group) (d : Nat) (x : DWord) (h : 60 ≤ d) (h' : d < 63) :
    (g.setS d x).s d = (x.extractLsb' 0 32 &&& ~~~(g.exitedPart d)).zeroExtend 64 := by
  have hne : d ≠ 63 := by omega
  have hlt : d < 64 := by omega
  simp [Group.setS, Group.s, hne, h, hlt]

theorem sameSpecial_setS (g : Group) (d : Nat) (x : DWord) : sameSpecial g (g.setS d x) :=
  ⟨rfl, rfl, rfl, rfl, rfl, rfl, rfl, rfl, rfl, fun _ => rfl, rfl, rfl⟩

theorem sameSpecial_setP (g : Group) (d : Nat) (m : Mask) : sameSpecial g (g.setP d m) :=
  ⟨rfl, rfl, rfl, rfl, rfl, rfl, rfl, rfl, rfl, fun _ => rfl, rfl, rfl⟩

theorem sameSpecial_setV (g : Group) (d : Nat) (m : Mask) (x : Nat → Word) : sameSpecial g (g.setV d m x) :=
  ⟨rfl, rfl, rfl, rfl, rfl, rfl, rfl, rfl, rfl, fun _ => rfl, rfl, rfl⟩

@[simp] theorem VReg.lane_build (x : Nat → Word) (l : Nat) (h : l < 96) : (VReg.build x).lane l = x l := by
  simp [VReg.lane, VReg.build, h]

/-- R66: the lanes of the mask take the new value, and the others keep theirs. -/
theorem VReg.lane_upd (v : VReg) (m : Mask) (x : Nat → Word) (l : Nat) (h : l < 96) :
    (v.upd m x).lane l = if m.getLsbD l then x l else v.lane l := VReg.lane_build _ l h

theorem Group.v_setV_same (g : Group) (d : Nat) (m : Mask) (x : Nat → Word) (h : d < 64) :
    (g.setV d m x).v d = (g.v d).upd m x := by
  simp [Group.setV, Group.v, h]

theorem Group.v_setV_other (g : Group) (d k : Nat) (m : Mask) (x : Nat → Word) (h : k ≠ d) : (g.setV d m x).v k = g.v k := by
  simp [Group.setV, Group.v, Ne.symm h]

/-- Settles O4: each clause is one law of reading a register after a write. -/
theorem registerFile : Obligations.RegisterFile := by
  refine ⟨fun g d k x m => ⟨rfl, rfl, rfl, rfl, ?_, ?_, ?_, rfl, rfl, ?_, ?_, rfl, rfl, ?_, ?_⟩, fun g d k l m x hd hl => ⟨?_, ?_, rfl, rfl, ?_⟩⟩
  · exact g.s_setS_same d x
  · exact g.s_setS_mask d x
  · exact g.s_setS_other d k x
  · exact g.p_setP_same d m
  · exact g.p_setP_other d k m
  · exact sameSpecial_setS g d x
  · exact sameSpecial_setP g d m
  · rw [g.v_setV_same d m x hd, VReg.lane_upd _ _ _ _ hl]
  · exact g.v_setV_other d k m x
  · exact sameSpecial_setV g d m x

end Sys2Proof.Machine
end

section
/-! PROOFS. The end that the body of an instruction gives it, said once for every instruction of the issuing group. -/
namespace Sys2Proof.Machine
open Sys2Proof

/-! ### How an instruction of the issuing group ends -/

/-- An instruction whose body takes effect completes. -/
theorem completes_of_issue {i : Instr} {s s' : State} {r : GRef} {t : Team} {g g' : Group} {n : Nat} {body : GRef → Team → Group → Res}
    (h : s.current = some (r, t, g)) (hi : exec i s = s.issue n body) (hb : body r t g = .done s' g') : Completes i s r t n s' g' := by
  rw [Completes, hi, State.issue_eq h, hb]

/-- An instruction whose body answers a fault faults. -/
theorem faults_of_issue {i : Instr} {s : State} {r : GRef} {t : Team} {g : Group} {n : Nat} {body : GRef → Team → Group → Res} {e : FaultInfo}
    (h : s.current = some (r, t, g)) (hi : exec i s = s.issue n body) (hb : body r t g = .fault e) : Faults i s r t n e := by
  rw [Faults, hi, State.issue_eq h, hb]

end Sys2Proof.Machine
end

section
/-! PROOFS. The values of the scalar and predicate instructions (05_sequencer.md R144, R147). -/
namespace Sys2Proof.Machine
open Sys2Proof

/-! ### Values of the scalar instructions (R144) -/

theorem mulHigh_eq (nat : Bool) (a b : DWord) :
    mulHigh nat a b = if nat then BitVec.ofNat 64 (a.toNat * b.toNat / 2 ^ 64) else BitVec.ofInt 64 (a.toInt * b.toInt / 2 ^ 64) := by
  unfold mulHigh; rfl

theorem shlBy_eq {w : Nat} (a : BitVec w) (n : Nat) : shlBy a n = if n < w then a <<< n else 0 := by
  simp only [shlBy, ← Nat.not_lt, ite_not]

theorem shrBy_eq {w : Nat} (a : BitVec w) (n : Nat) : shrBy a n = if n < w then a >>> n else 0 := by
  simp only [shrBy, ← Nat.not_lt, ite_not]

theorem sraBy_eq {w : Nat} (a : BitVec w) (n : Nat) :
    sraBy a n = if n < w then a.sshiftRight n else if a.msb then BitVec.allOnes w else 0 := by
  simp only [sraBy, ← Nat.not_lt, ite_not]

theorem minBV_eq {w : Nat} (nat : Bool) (a b : BitVec w) :
    minBV nat a b = if nat then (if a.toNat ≤ b.toNat then a else b) else if a.toInt ≤ b.toInt then a else b := by
  simp [minBV, BitVec.ule, BitVec.sle]

theorem maxBV_eq {w : Nat} (nat : Bool) (a b : BitVec w) :
    maxBV nat a b = if nat then (if a.toNat ≤ b.toNat then b else a) else if a.toInt ≤ b.toInt then b else a := by
  simp [maxBV, BitVec.ule, BitVec.sle]

theorem popNat_eq (x w : Nat) : popNat x w = ((List.range w).filter x.testBit).length := by
  induction w with
  | zero => rfl
  | succ w ih => cases h : x.testBit w <;> simp [popNat, List.range_succ, ih, h, b2n, Nat.add_comm]

/-- The leading zeros of a number of `w` bits: below them stands its highest one. -/
theorem clzNat_bounds (w x : Nat) (h : x < 2 ^ w) :
    clzNat w x ≤ w ∧ x < 2 ^ (w - clzNat w x) ∧ (clzNat w x < w → 2 ^ (w - 1 - clzNat w x) ≤ x) := by
  unfold clzNat
  rw [Nat.mod_eq_of_lt h]
  split
  · rename_i hx
    simp [hx]
  · rename_i hx
    have hlog : x.log2 < w := (Nat.log2_lt hx).2 h
    have htop : w - (w - 1 - x.log2) = x.log2 + 1 := by omega
    have hbit : w - 1 - (w - 1 - x.log2) = x.log2 := by omega
    rw [htop, hbit]
    exact ⟨by omega, Nat.lt_log2_self, fun _ => Nat.log2_self_le hx⟩

/-- The position and the length of a field, as SBFE and SBFI name them. -/
theorem bitsOf_pos (x : Nat) : bitsOf x 5 0 = x % 64 := by simp [bitsOf]
theorem bitsOf_len (x : Nat) : bitsOf x 14 8 = x / 256 % 128 := by simp [bitsOf]

theorem sbfeVal_eq (a z : DWord) :
    sbfeVal a z = BitVec.ofNat 64 (a.toNat / 2 ^ (z.toNat % 64) % 2 ^ min (z.toNat / 256 % 128) 64) := by
  rw [sbfeVal, bitsOf_pos, bitsOf_len]

theorem sbfiVal_eq (d a z : DWord) :
    let pos := z.toNat % 64
    let m : DWord := BitVec.ofNat 64 ((2 ^ min (z.toNat / 256 % 128) 64 - 1) * 2 ^ pos)
    sbfiVal d a z = (d &&& ~~~m) ||| ((a <<< pos) &&& m) := by
  simp only [sbfiVal, bitsOf_pos, bitsOf_len, shlBy_eq, Nat.mod_lt z.toNat (by decide : 64 > 0), if_true]

/-! ### Values of the predicate instructions (R147) -/

theorem Mask.lanes_head (m : Mask) : m.lanes.headD 96 = ((List.range 96).find? m.getLsbD).getD 96 := by
  rw [List.headD_eq_head?_getD, Mask.lanes, List.head?_filter]
  rfl

/-! ### The instructions -/

/-- A scalar instruction writes the value of its operation on s[A] and operand B. -/
theorem completes_of_scalarOp {i : Instr} {s : State} {r : GRef} {t : Team} {g : Group} {f : FmtBR} {zero : Bool} {x : DWord → DWord → DWord}
    {v : DWord} (h : s.current = some (r, t, g)) (hi : exec i s = scalarOp f zero x s) (hv : x (g.s f.a.toNat) (g.opS f zero) = v) :
    Completes i s r t f.len s (g.setS f.d.toNat v) :=
  completes_of_issue h hi (congrArg (fun v => Res.done s (g.setS f.d.toNat v)) hv)

/-- The condition of PTEST is decided branch by branch. -/
theorem ite_decide_iff {c d p q r : Prop} [Decidable c] [Decidable d] [Decidable p] [Decidable q] [Decidable r] :
    (if c then decide p else if d then decide q else decide r) = true ↔ if c then p else if d then q else r := by
  by_cases hc : c
  · simp only [if_pos hc, decide_eq_true_eq]
  · by_cases hd : d
    · simp only [if_neg hc, if_pos hd, decide_eq_true_eq]
    · simp only [if_neg hc, if_neg hd, decide_eq_true_eq]

theorem execPtest_eq (f : FmtBR) (s : State) :
    exec (.ptest f) s = s.issue f.len fun _ _ g =>
      let x := g.p f.a.toNat &&& g.mask
      .done s (g.setP f.d.toNat (if (if f.sub = 0 then x ≠ 0 else if f.sub = 1 then x = g.mask else x = 0) then Mask.all else 0)) := by
  show execPtest f s = _
  unfold execPtest
  simp only [ite_decide_iff]
  rfl

/-- Settles O1: each instruction is an operation of its operands, whose value is the one that the statement names. -/
theorem scalarResults : Obligations.ScalarResults := by
  refine ⟨fun s r t g f h => ?_, fun s r t g f h => ⟨?_, ?_⟩, fun s r t g f h => ⟨?_, ?_, ?_, ?_, ?_⟩⟩
  · simp only [List.forall_mem_cons, List.not_mem_nil, false_imp_iff, implies_true, and_true]
    have sadd := completes_of_scalarOp (i := .sadd f) (zero := false) (x := (· + ·)) h rfl rfl
    have ssub := completes_of_scalarOp (i := .ssub f) (zero := false) (x := (· - ·)) h rfl rfl
    have smul := completes_of_scalarOp (i := .smul f) (zero := false) (x := (· * ·)) h rfl rfl
    have smulh := completes_of_scalarOp (i := .smulh f) (zero := false) (x := mulHigh (f.sub = 1)) h rfl (mulHigh_eq _ _ _)
    have sand := completes_of_scalarOp (i := .sand f) (zero := true) (x := (· &&& ·)) h rfl rfl
    have sor := completes_of_scalarOp (i := .sor f) (zero := true) (x := (· ||| ·)) h rfl rfl
    have sxor := completes_of_scalarOp (i := .sxor f) (zero := true) (x := (· ^^^ ·)) h rfl rfl
    have sandn := completes_of_scalarOp (i := .sandn f) (zero := false) (x := fun a b => a &&& ~~~b) h rfl rfl
    have sshl := completes_of_scalarOp (i := .sshl f) (zero := true) (x := fun a b => shlBy a b.toNat) h rfl (shlBy_eq _ _)
    have sshr := completes_of_scalarOp (i := .sshr f) (zero := true) (x := fun a b => shrBy a b.toNat) h rfl (shrBy_eq _ _)
    have ssra := completes_of_scalarOp (i := .ssra f) (zero := true) (x := fun a b => sraBy a b.toNat) h rfl (sraBy_eq _ _)
    have smin := completes_of_scalarOp (i := .smin f) (zero := false) (x := minBV (f.sub = 1)) h rfl (minBV_eq _ _ _)
    have smax := completes_of_scalarOp (i := .smax f) (zero := false) (x := maxBV (f.sub = 1)) h rfl (maxBV_eq _ _ _)
    have ssel := completes_of_issue (i := .ssel f) h rfl rfl
    have smov := completes_of_scalarOp (i := .smov f) (zero := false) (x := fun _ b => b) h rfl rfl
    have spopc := completes_of_scalarOp (i := .spopc f) (zero := false) (x := fun a _ => BitVec.ofNat 64 (popNat a.toNat 64)) h rfl
      (congrArg (BitVec.ofNat 64) (popNat_eq _ 64))
    have sbfe := completes_of_scalarOp (i := .sbfe f) (zero := true) (x := sbfeVal) h rfl (sbfeVal_eq _ _)
    have saddr := completes_of_scalarOp (i := .saddr f) (zero := false) (x := fun a b => a + (b <<< f.mod.toNat)) h rfl rfl
    exact ⟨sadd, ssub, smul, smulh, sand, sor, sxor, sandn, sshl, sshr, ssra, smin, smax, ssel, smov, spopc, sbfe, saddr⟩
  · have sclz := completes_of_scalarOp (i := .sclz f) (zero := false) (x := fun a _ => BitVec.ofNat 64 (clzNat 64 a.toNat)) h rfl rfl
    exact ⟨_, sclz, clzNat_bounds 64 _ (g.s f.a.toNat).isLt⟩
  · exact completes_of_issue h rfl (congrArg (fun v => Res.done s (g.setS f.d.toNat v)) (sbfiVal_eq _ _ _))
  · simp only [List.forall_mem_cons, List.not_mem_nil, false_imp_iff, implies_true, and_true]
    have pand := completes_of_issue (i := .pand f) h rfl rfl
    have por := completes_of_issue (i := .por f) h rfl rfl
    have pxor := completes_of_issue (i := .pxor f) h rfl rfl
    have pandn := completes_of_issue (i := .pandn f) h rfl rfl
    have pnot := completes_of_issue (i := .pnot f) h rfl rfl
    have pmov := completes_of_issue (i := .pmovToPredicate f) h rfl rfl
    have ptest := completes_of_issue (i := .ptest f) h (execPtest_eq f s) rfl
    exact ⟨pand, por, pxor, pandn, pnot, pmov, ptest⟩
  · exact completes_of_issue h rfl rfl
  · exact completes_of_issue h rfl rfl
  · exact completes_of_issue h rfl rfl
  · exact completes_of_issue h rfl (congrArg (fun n => Res.done s (g.setS f.d.toNat (BitVec.ofNat 64 n))) (Mask.lanes_head _))

end Sys2Proof.Machine
end

section
/-! PROOFS. The task instructions, dispatch and succession (12_tasks.md R363, R367 to R376). -/
namespace Sys2Proof.Machine
open Sys2Proof

/-! ### The checks of a task instruction (R367) -/

@[simp] theorem firstFault_nil : firstFault [] = none := rfl
@[simp] theorem firstFault_none (cs : List (Option FaultInfo)) : firstFault (none :: cs) = firstFault cs := rfl
@[simp] theorem firstFault_some (e : FaultInfo) (cs : List (Option FaultInfo)) : firstFault (some e :: cs) = some e := rfl
@[simp] theorem chk_true (e : FaultInfo) : chk true e = some e := rfl
@[simp] theorem chk_false (e : FaultInfo) : chk false e = none := rfl

theorem firstFault_eq_none {cs : List (Option FaultInfo)} (h : ∀ c ∈ cs, c = none) : firstFault cs = none := by
  induction cs with
  | nil => rfl
  | cons c cs ih =>
    rw [h c List.mem_cons_self, firstFault_none]
    exact ih fun d hd => h d (List.mem_cons_of_mem c hd)

/-- A block that is aligned and lies in team memory passes both of its checks. -/
theorem blockBad_good {t : Team} {off : Nat} (lane : Nat) (ha : off % 64 = 0) (hm : off + 64 ≤ t.shape.mem) : blockBad t off lane = [none, none] := by
  simp [blockBad, chk, ha, hm]

theorem firstFault_good {t : Team} {off : Nat} (lane : Nat) (cs : List (Option FaultInfo)) (ha : off % 64 = 0) (hm : off + 64 ≤ t.shape.mem) :
    firstFault (blockBad t off lane ++ cs) = firstFault cs := by
  rw [blockBad_good lane ha hm]
  rfl

theorem firstFault_unaligned {t : Team} {off : Nat} (lane : Nat) (cs : List (Option FaultInfo)) (ha : off % 64 ≠ 0) :
    firstFault (blockBad t off lane ++ cs) = some { code := .align, detail := lane, addr := BitVec.ofNat 64 off } := by
  simp [blockBad, ha, chk]

/-- The checks of QSPAWN.v: each lane's block passes. -/
theorem firstFault_lanes_good {t : Team} {lanes offs : List Nat} (h : ∀ o ∈ offs, o % 64 = 0 ∧ o + 64 ≤ t.shape.mem) (n m : Nat) :
    firstFault (((lanes.zip offs).map fun (l, o) => ((blockBad t o l)[n]?).join) ++
      (lanes.zip offs).map fun (l, o) => ((blockBad t o l)[m]?).join) = none := by
  have good (k : Nat) : ∀ c ∈ (lanes.zip offs).map (fun (l, o) => ((blockBad t o l)[k]?).join), c = none := by
    intro c hc
    obtain ⟨⟨l, o⟩, hlo, rfl⟩ := List.mem_map.1 hc
    obtain ⟨ha, hm⟩ := h o (List.of_mem_zip hlo).2
    rcases k with _ | _ | k <;> simp [blockBad_good l ha hm]
  exact firstFault_eq_none fun c hc => (List.mem_append.1 hc).elim (good n c) (good m c)

/-! ### What a task instruction records (R78, R103) -/

/-- The outstanding operation of a task instruction, under the next free number. -/
theorem State.taskOp_eq (s : State) (r : GRef) {g : Group} {fs : Bool} (kind : OpKind) (need : List Nat) (acq : Bool) (hf : g.flagFull fs = false) :
    s.taskOp r g fs kind need acq =
      .done (s.fresh.2.addOp s.nextId { mkOp r g fs kind with need := need, acq := acq }) (g.raiseFlag fs) := by
  rw [State.taskOp, hf]
  rfl

/-- The instruction `i`, of `n` words, completes, and a task operation of its group is outstanding; memory is as it was. -/
def Records (i : Instr) (s : State) (r : GRef) (t : Team) (g : Group) (n : Nat) (fs : Bool) (kind : OpKind) (need : List Nat) (acq : Bool) : Prop :=
  ∃ s' id o, Completes i s r t n s' (g.raiseFlag fs) ∧ s'.ops.get? id = some o ∧ o.owner = r ∧ o.kind = kind ∧ o.need = need ∧
    o.acq = acq ∧ o.flag = g.flagOf fs ∧ sameMemory s s'

theorem records_of_taskOp {i : Instr} {s : State} {r : GRef} {t : Team} {g : Group} {n : Nat} {body : GRef → Team → Group → Res}
    {fs acq : Bool} {kind : OpKind} {need : List Nat} (h : s.current = some (r, t, g)) (hi : exec i s = s.issue n body)
    (hb : body r t g = s.taskOp r g fs kind need acq) (hf : g.flagFull fs = false) : Records i s r t g n fs kind need acq :=
  ⟨_, s.nextId, _, completes_of_issue h hi (hb.trans (s.taskOp_eq r kind need acq hf)), Tbl.get?_put_same _ _ _, rfl, rfl, rfl, rfl, rfl,
    rfl, rfl, rfl, rfl⟩

section
variable {s : State} {r : GRef} {t : Team} {g : Group} {f : FmtBR} {i : Instr} {steal : Bool}

/-- QTAKE and QSTEAL of a queue that the context holds (R369). -/
theorem queueTake_records {c : Ctx} (h : s.current = some (r, t, g)) (hi : exec i s = queueTake f s steal)
    (ha : (g.s f.a.toNat).toNat % 64 = 0) (hm : (g.s f.a.toNat).toNat + 64 ≤ t.shape.mem) (hq : (g.s f.b.toNat).toNat < 64)
    (hc : s.ctx? t.ctx = some c) (hbit : c.tqMask.getLsbD (g.s f.b.toNat).toNat = true) (hf : g.flagFull (f.w1.fs = 1) = false) :
    Records i s r t g f.len (f.w1.fs = 1) (.qtake (g.s f.b.toNat).toNat (g.s f.a.toNat).toNat f.d.toNat steal)
      (s.blockAfter r t (g.s f.a.toNat).toNat) true := by
  refine records_of_taskOp h (hi.trans rfl) ?_ hf
  have hheld : (decide (64 ≤ (g.s f.b.toNat).toNat) || !(s.ctx? t.ctx).any fun c => c.tqMask.getLsbD (g.s f.b.toNat).toNat) = false := by
    simp [hc, hbit, hq]
  simp only [firstFault_good _ _ ha hm, hheld, chk_false, firstFault_none, firstFault_nil]

/-- QTAKE and QSTEAL of a queue that the context does not hold (R369, R373). -/
theorem queueTake_faults (h : s.current = some (r, t, g)) (hi : exec i s = queueTake f s steal)
    (ha : (g.s f.a.toNat).toNat % 64 = 0) (hm : (g.s f.a.toNat).toNat + 64 ≤ t.shape.mem)
    (hno : 64 ≤ (g.s f.b.toNat).toNat ∨ ∃ c, s.ctx? t.ctx = some c ∧ c.tqMask.getLsbD (g.s f.b.toNat).toNat = false) :
    Faults i s r t f.len
      { code := .taskq, detail := (if (g.s f.b.toNat).toNat < 64 then (g.s f.b.toNat).toNat else 0xFF) * 256 + 2,
        addr := t.window (g.s f.a.toNat).toNat, bytes := s.teamRead t (g.s f.a.toNat).toNat 64 } := by
  refine faults_of_issue h (hi.trans rfl) ?_
  have hheld : (decide (64 ≤ (g.s f.b.toNat).toNat) || !(s.ctx? t.ctx).any fun c => c.tqMask.getLsbD (g.s f.b.toNat).toNat) = true := by
    rcases hno with hq | ⟨c, hc, hbit⟩
    · simp [hq]
    · simp [hc, hbit]
  simp only [firstFault_good _ _ ha hm, hheld, chk_true, firstFault_some]

end

/-! ### GJOIN (R371) -/

/-- What GJOIN of index `x` awaits: the grids, whether the index is bad, and the launches that have still to be accepted. -/
def State.gjoinAwaits (s : State) (r : GRef) (t : Team) (x : DWord) : List Nat × Bool × List Nat :=
  if x = BitVec.allOnes 64 then (t.children, false, s.launching r.team)
  else
    match t.children.find? fun k => (s.grids.get? k).any fun (c : Grid) => c.index = some x.toNat with
    | some k => ([k], false, [])
    | none => ([], !t.joined.contains x.toNat, [])

theorem State.gjoinAwaits_all (s : State) (r : GRef) (t : Team) :
    s.gjoinAwaits r t (BitVec.allOnes 64) = (t.children, false, s.launching r.team) := if_pos rfl

theorem State.gjoinAwaits_noChild {s : State} {t : Team} {x : DWord} (r : GRef) (hx : x ≠ BitVec.allOnes 64)
    (h : ∀ k ∈ t.children, ∀ c, s.grids.get? k = some c → c.index ≠ some x.toNat) :
    s.gjoinAwaits r t x = ([], !t.joined.contains x.toNat, []) := by
  have hfind : (t.children.find? fun k => (s.grids.get? k).any fun (c : Grid) => c.index = some x.toNat) = none := by
    rw [List.find?_eq_none]
    intro k hk
    cases hc : s.grids.get? k with
    | none => simp
    | some c => simpa using h k hk c hc
  rw [State.gjoinAwaits, if_neg hx, hfind]

/-- The operation that GJOIN records. -/
theorem execGjoin_completes {s : State} {r : GRef} {t : Team} {g : Group} {f : FmtBR} (h : s.current = some (r, t, g))
    (hf : g.flagFull (f.w1.fs = 1) = false) :
    let w := s.gjoinAwaits r t (g.s f.a.toNat)
    Completes (.gjoin f) s r t f.len
      (s.fresh.2.addOp s.nextId { mkOp r g (f.w1.fs = 1) (.gjoin w.1 w.2.1) with need := w.2.2, acq := true }) (g.raiseFlag (f.w1.fs = 1)) := by
  show execGjoin f s = _
  rw [execGjoin, State.issue_eq h]
  simp only [hf]
  rfl

/-! ### Dispatch (R363, R374) -/

/-- A Loading task that can go on comes before every core. -/
theorem dispatch_loading {s : State} {k : Nat} {t : Team} {site : Site} (core : Nat) (h : s.loadingFor site = some (k, t)) :
    exec (.dispatch core site) s = .next (s.loadMore k t site) := by
  show execDispatch core site s = _
  rw [execDispatch, h]

/-- A core whose enabled home queue holds a task tries the one at its tail. -/
theorem State.dispatch_home {s : State} {core ctx : Nat} {site : Site} {h : CoreHome} {c : Ctx} (hh : s.te.home.get? core = some h)
    (hen : h.en = true) (hc : site.core = core) (hq : s.queueCtx h.home = some (ctx, c)) (hr : s.ctxRuns ctx = true)
    (hb : (s.taskQ h.home).bound = true) (hn : (s.taskQ h.home).count ≠ 0) : s.dispatch core site = s.tryDesc ctx h.home core site false := by
  simp [State.dispatch, hh, hen, hc, hq, hr, hb, hn]

/-- The first core, from where the dispatcher stands in this cycle, that takes a task. -/
theorem dispatch_takes {s u : State} {core : Nat} {site : Site} (hl : s.loadingFor site = none) (hfrom : s.dispFrom ≤ core)
    (hlow : ∀ n, s.dispFrom ≤ n → n < core → s.takes n = false) (h : s.dispatch core site = .act u) :
    exec (.dispatch core site) s = .next { u with te := { u.te with dispAt := u.ref, dispNext := core + 1 } } := by
  show execDispatch core site s = _
  have hturn : (decide (core < s.dispFrom) || (List.range core).any fun n => s.dispFrom ≤ n && s.takes n) = false := by
    simpa [hfrom] using fun n hn hd => hlow n hd hn
  rw [execDispatch, hl]
  simp only [hturn, h, Bool.false_eq_true, if_false]

/-! ### Succession (R375) -/

/-- A team whose successor may be taken: step 1 of R375. -/
structure TeamMaySucceed (s : State) (k : Nat) (t : Team) (a : DWord) : Prop where
  team : s.team? k = some t
  fixed : t.successor = some a
  live : s.ctxLive t.ctx = true
  placed : t.core ≠ none
  state : t.state = .succeeding
  noToken : t.ioToken = 0

/-- What SUCCESSION makes of what it read at the successor's address (R375, steps 3 and 4). -/
def State.afterRead (s : State) (k : Nat) (t : Team) (a : DWord) : SuccRead → State
  | .wait u => u
  | .missing va => s.suspendSucc k 0 va
  | .fault c => s.fatalTeam k c 0xFF a
  | .ok b u => u.trySucceed k t a b

section
variable {s : State} {k : Nat} {t : Team} {a : DWord}

/-- Once nothing of the team is outstanding and its children have retired, the descriptor is read. -/
theorem succession_goes (h : TeamMaySucceed s k t a) (hq : s.teamQuiet k t = true) (hc : t.children = []) :
    exec (.succession k) s = .next (s.afterRead k t a (s.readSuccessor k t a)) := by
  obtain ⟨hteam, hfixed, hlive, hplaced, hstate, hio⟩ := h
  show execSuccession k s = _
  simp only [execSuccession, hteam, hfixed, hlive, hstate, hio, hq, hc]
  cases s.readSuccessor k t a <;> simp [hplaced, State.afterRead]

/-- While something of the team is outstanding or a child runs, and the read has not begun, nothing happens. -/
theorem succession_waits (h : TeamMaySucceed s k t a) (hw : s.teamQuiet k t = false ∨ t.children ≠ []) (hcopy : ∀ x ∈ s.copies, x.2.team ≠ k) :
    exec (.succession k) s = .next s := by
  obtain ⟨hteam, hfixed, hlive, hplaced, hstate, hio⟩ := h
  have hbegun : (s.copies.any fun (_, c) => c.team = k && c.sub = 4) = false := by
    simpa using fun n c hx ht => absurd ht (hcopy (n, c) hx)
  have hheld : (s.teamQuiet k t && t.children.isEmpty) = false := by
    rcases hw with hq | hc
    · simp [hq]
    · simp [hc]
  show execSuccession k s = _
  simp [execSuccession, hteam, hfixed, hbegun, hheld]

end

/-- Step 4 of R375: a successor that is larger than the task it follows ends the context. -/
theorem State.trySucceed_tooLarge {s : State} (k : Nat) {t : Team} (a : DWord) {b : List Byte} {x : Shape} (hx : s.taskHeader t.ctx b true = .ok x)
    (h : let y := t.eff.getD t.shape; y.g < x.g ∨ y.v < x.v ∨ y.mem < x.mem ∨ x.tiles &&& ~~~y.tiles ≠ 0) :
    s.trySucceed k t a b = s.taskFault t.ctx 4 0xFF a b := by
  simp only [State.trySucceed, hx]
  rw [if_pos]
  simpa [or_assoc] using h

/-! ### The last group of a team retires (R17, R376) -/

/-- Once every group of a running team has retired, it joins its children or gives way to its successor, on its core. -/
theorem Team.ended_of_allRetired {t : Team} (hrun : t.state = .running) (hall : ∀ g ∈ t.groups, g.retired = true) :
    t.ended.state = (if t.successor.isSome then .succeeding else .joining) ∧ t.ended.core = t.core := by
  have hcond : (decide (t.state = .running) && t.groups.all (·.retired)) = true := by simpa [hrun] using hall
  simp [Team.ended, hcond]

/-- All groups have retired once the one that had not does. -/
theorem listUpd_retired {gs : List Group} {n : Nat} (h : ∀ m g, gs[m]? = some g → m ≠ n → g.retired = true) :
    ∀ g ∈ listUpd gs n Group.retire, g.retired = true := by
  intro g hg
  obtain ⟨m, hm⟩ := List.mem_iff_getElem?.1 hg
  rw [listUpd_get] at hm
  split at hm
  · obtain ⟨g', -, rfl⟩ := Option.map_eq_some_iff.1 hm
    exact g'.retire_retired
  · rename_i hne
    exact h m g hm hne

/-- The team of a group that retires. -/
theorem State.retireGroup_team? {s : State} {r : GRef} {t : Team} (h : s.team? r.team = some t) :
    (s.retireGroup r).team? r.team = some (Team.ended { t with groups := listUpd t.groups r.grp Group.retire }) := by
  rw [State.retireGroup, h, State.team?_updTeam, if_pos rfl, State.updGroup, State.team?_updTeam, if_pos rfl]
  have hteams : ((s.leaveTrapSlot t.coreN (t.partOf r.grp) r).dropLocks r).team? r.team = some t := h
  rw [hteams]
  rfl

theorem retireGroup_last {s : State} {r : GRef} {t : Team} (h : s.team? r.team = some t) (hrun : t.state = .running)
    (hothers : ∀ n g, t.groups[n]? = some g → n ≠ r.grp → g.retired = true) :
    ∃ u, (s.retireGroup r).team? r.team = some u ∧ u.state = (if t.successor.isSome then .succeeding else .joining) ∧ u.core = t.core :=
  ⟨_, State.retireGroup_team? h,
    Team.ended_of_allRetired (t := { t with groups := listUpd t.groups r.grp Group.retire }) hrun (listUpd_retired hothers)⟩

/-- Settles O41: the checks of each task instruction decide whether it faults or records its operation; dispatch, succession and the end of a
team's last group follow from one law each. -/
theorem taskInstructions : Obligations.TaskInstructions := by
  refine ⟨fun s r t g f h => ⟨fun ha hm => ⟨?_, fun c hq hc hbit => ?_, ⟨fun hq => ?_, fun c hq hc hbit => ?_⟩, fun hgrp hdepth => ?_,
    fun hgrp => ?_, fun hgrp hdepth => ?_⟩, fun ha => ?_, ⟨fun hl => ?_, fun hl hok => ?_⟩, fun hf => ?_⟩, ?_, ?_, ?_, ?_, ?_⟩
  · refine records_of_taskOp h rfl ?_
    simp only [blockBad_good 0xFF ha hm, firstFault_none, firstFault_nil]
  · exact ⟨queueTake_records h rfl ha hm hq hc hbit, queueTake_records h rfl ha hm hq hc hbit⟩
  · have hfault (i : Instr) (steal : Bool) (hi : exec i s = queueTake f s steal) := queueTake_faults h hi ha hm (.inl hq)
    rw [if_neg (by omega)] at hfault
    exact ⟨hfault _ _ rfl, hfault _ _ rfl⟩
  · have hfault (i : Instr) (steal : Bool) (hi : exec i s = queueTake f s steal) := queueTake_faults h hi ha hm (.inr ⟨c, hc, hbit⟩)
    rw [if_pos hq] at hfault
    exact ⟨hfault _ _ rfl, hfault _ _ rfl⟩
  · refine records_of_taskOp h rfl ?_
    have hd : ¬ 10 ≤ t.depth := by omega
    simp [firstFault_good _ _ ha hm, hgrp, hd]
  · refine faults_of_issue h rfl ?_
    simp [firstFault_good _ _ ha hm, hgrp]
  · refine faults_of_issue h rfl ?_
    simp [firstFault_good _ _ ha hm, hgrp, hdepth]
  · simp only [List.forall_mem_cons, List.not_mem_nil, false_imp_iff, implies_true, and_true]
    have hone := firstFault_unaligned (t := t) 0xFF [] ha
    rw [List.append_nil] at hone
    refine ⟨faults_of_issue h rfl ?_, faults_of_issue h rfl ?_, faults_of_issue h rfl ?_, faults_of_issue h rfl ?_⟩
    · simp only [hone]
    · simp only [firstFault_unaligned 0xFF _ ha]
    · simp only [firstFault_unaligned 0xFF _ ha]
    · simp only [firstFault_unaligned 0xFF _ ha]
  · refine completes_of_issue h rfl ?_
    simp [hl]
  · refine records_of_taskOp h rfl ?_
    simp [firstFault_lanes_good hok, hl]
  · refine ⟨_, _, _, _, _, execGjoin_completes h hf, Tbl.get?_put_same _ _ _, rfl, rfl, rfl, ⟨rfl, rfl, rfl, rfl⟩, fun hx => ?_, fun hx hno => ?_⟩
    · rw [hx, State.gjoinAwaits_all]
      exact ⟨rfl, rfl⟩
    · rw [State.gjoinAwaits_noChild r hx hno]
      exact ⟨rfl, rfl⟩
  · intro s core site h ctx c u hl hh hen hc hfrom hlow hq hr hb hn ht
    exact dispatch_takes hl hfrom hlow ((State.dispatch_home hh hen hc hq hr hb hn).trans ht)
  · exact fun s core k site t h => dispatch_loading core h
  · intro s k t a hteam hfixed hlive hplaced hstate hio
    have h : TeamMaySucceed s k t a := ⟨hteam, hfixed, hlive, hplaced, hstate, hio⟩
    refine ⟨fun hq hc => ?_, succession_waits h⟩
    rw [succession_goes h hq hc]
    exact ⟨fun b u hr => by rw [hr, State.afterRead], fun va hr => by rw [hr, State.afterRead], fun c hr => by rw [hr, State.afterRead]⟩
  · exact fun s k t a b x hx => State.trySucceed_tooLarge k a hx
  · exact fun s r t => retireGroup_last

end Sys2Proof.Machine
end

section
/-! PROOFS. Grids and the life of their teams (12_tasks.md R356 to R376; 15_host_reset.md R449). -/
namespace Sys2Proof.Machine
open Sys2Proof

/-! ### Partials that are combined (R201, R216) -/

theorem overlaps_self (a n : Nat) : overlaps a n a n = decide (0 < n) := by
  simp [overlaps]

theorem State.combinePartials_eq (s : State) (pa n : Nat) :
    ∃ m k, s.combinePartials pa n = { s with mem := m, stk := k, partials := s.partials.filter fun p => !overlaps p.addr p.bytes pa n } :=
  ⟨_, _, rfl⟩

/-- Combining the partials of a list leaves of those registered the ones that none of the list touches, and changes memory and the lines of the
capacity-tier cache. -/
theorem foldl_combinePartials (xs : List Partial) (s : State) :
    ∃ m k, xs.foldl (fun s x => s.combinePartials x.addr x.bytes) s =
      { s with mem := m, stk := k, partials := s.partials.filter fun p => xs.all fun x => !overlaps p.addr p.bytes x.addr x.bytes } := by
  induction xs generalizing s with
  | nil => exact ⟨s.mem, s.stk, congrArg (fun ps => { s with partials := ps }) (List.filter_eq_self.2 fun _ _ => rfl).symm⟩
  | cons x xs ih =>
    obtain ⟨m, k, hx⟩ := s.combinePartials_eq x.addr x.bytes
    obtain ⟨m', k', hxs⟩ := ih (s.combinePartials x.addr x.bytes)
    refine ⟨m', k', ?_⟩
    rw [List.foldl_cons, hxs, hx]
    simp only [List.filter_filter, List.all_cons, Bool.and_comm]

theorem State.flushPartials_eq (s : State) (c : Partial → Bool) :
    ∃ m k, s.flushPartials c =
      { s with mem := m, stk := k,
               partials := s.partials.filter fun p => (s.partials.filter c).all fun x => !overlaps p.addr p.bytes x.addr x.bytes } :=
  foldl_combinePartials _ s

@[simp] theorem State.flushPartials_grids (s : State) (c : Partial → Bool) : (s.flushPartials c).grids = s.grids := by
  obtain ⟨m, k, h⟩ := s.flushPartials_eq c
  rw [h]

@[simp] theorem State.flushPartials_bars (s : State) (c : Partial → Bool) : (s.flushPartials c).bars = s.bars := by
  obtain ⟨m, k, h⟩ := s.flushPartials_eq c
  rw [h]

/-- Of the partials that are combined only those of no byte, which touch nothing, stay. -/
theorem State.flushPartials_left {s : State} {c : Partial → Bool} {p : Partial} (hp : p ∈ (s.flushPartials c).partials) (hc : c p = true) :
    p.bytes = 0 := by
  obtain ⟨m, k, h⟩ := s.flushPartials_eq c
  rw [h] at hp
  obtain ⟨hmem, hall⟩ := List.mem_filter.1 hp
  have hself := List.all_eq_true.1 hall p (List.mem_filter.2 ⟨hmem, hc⟩)
  rw [overlaps_self] at hself
  simpa using hself

/-! ### The start of a grid (R356, R359, R449) -/

/-- Reading a header leaves the reference clock alone. -/
@[simp] theorem State.passHeader_ref (s : State) (ctx : Nat) (entry : DWord) : (s.passHeader ctx entry).ref = s.ref := by
  have pass (u : State) (va n : Nat) : (u.passRead none ctx (s.ctxWorld ctx) va .fetch n).ref = u.ref := by
    obtain ⟨k, b, h⟩ := u.passRead_eq none ctx (s.ctxWorld ctx) va .fetch n
    rw [h]
  unfold State.passHeader
  simp only
  split
  · rw [pass, pass]
  · rw [pass]

/-- A grid that may start: it has no shape yet, waits for no page, has not failed and is in a live context. -/
structure GridMayStart (s : State) (k : Nat) (g : Grid) : Prop where
  grid : s.grids.get? k = some g
  noShape : g.shape = none
  noToken : g.token = 0
  notFailed : g.failed = false
  live : s.ctxLive g.ctx = true

/-- Its header is good, and its teams' frames fit the slots of its context. -/
structure GridHeaderGood (s : State) (g : Grid) (x : Shape) : Prop where
  read : s.readHeader g.ctx g.entry false (g.width ≠ 0) { kib := g.memKiB } = .ok x
  slot : x.frameBytes 18 ≤ ((s.ctx? g.ctx).map (·.slotBytes)).getD 0

section
variable {s : State} {k : Nat} {g : Grid} {x : Shape} {i : Nat}

/-- A grid that holds its index takes its shape, or waits for the test of a cluster, or is refused. -/
theorem execGridStart_eq (h : GridMayStart s k g) (hx : GridHeaderGood s g x) (hi : g.index = some i) :
    exec (.gridStart k) s =
      if !x.holdable || s.hst.cladm = 0 then
        .next (if s.hst.cladm ||| s.hst.clfail = BitVec.allOnes 16 then s.refuseGrid k g 5 0 6 else s)
      else .next ((s.passHeader g.ctx g.entry).updGrid k fun g => { g with shape := some x, index := some i, waitFrom := s.ref }) := by
  obtain ⟨hgrid, hshape, htoken, hfailed, hlive⟩ := h
  obtain ⟨hread, hslot⟩ := hx
  show execGridStart k s = _
  simp only [ne_eq, decide_not] at hread
  simp [execGridStart, hgrid, hshape, htoken, hlive, hfailed, hi, hread, Nat.not_lt.2 hslot]

/-- R449: a launch that no admitted cluster holds waits while clusters are untested, and is then refused with status 5. -/
theorem gridStart_unheld (h : GridMayStart s k g) (hx : GridHeaderGood s g x) (hi : g.index ≠ none) (hno : x.holdable = false ∨ s.hst.cladm = 0) :
    (s.hst.cladm ||| s.hst.clfail ≠ BitVec.allOnes 16 → exec (.gridStart k) s = .next s) ∧
    (s.hst.cladm ||| s.hst.clfail = BitVec.allOnes 16 → ∀ n, g.cmd = some n →
      exec (.gridStart k) s = .next ({ s with grids := s.grids.del k }.complete n 5 0)) := by
  obtain ⟨i, hi⟩ := Option.ne_none_iff_exists'.1 hi
  have hno : (!x.holdable || s.hst.cladm = 0) = true := by simpa using hno
  rw [execGridStart_eq h hx hi, if_pos hno]
  refine ⟨fun ht => by rw [if_neg ht], fun ht n hn => ?_⟩
  rw [if_pos ht, State.refuseGrid, hn]

end

/-! ### Placement and hampers (R15, R359, R366) -/

theorem teamPlace_places {s u : State} {k : Nat} {g : Grid} {x : Shape} {sites : List Site} (hg : s.grids.get? k = some g) (hx : g.shape = some x)
    (hnext : g.next < g.n) (hruns : s.ctxRuns g.ctx = true) (hlen : sites.length = g.blockTeams)
    (hcl : ∀ a ∈ sites, ∀ b ∈ sites, clusterOf a.core = clusterOf b.core) (hret : ∀ a ∈ sites, s.returnsFirst a.core g.priority = false)
    (hu : s.placeTeams k x sites = some u) : exec (.teamPlace k sites) s = .next u := by
  have hone : (sites.all fun a => sites.all fun b => clusterOf a.core = clusterOf b.core) = true := by simpa using hcl
  have hfirst : (sites.all fun a => !s.returnsFirst a.core g.priority) = true := by simpa using hret
  show execTeamPlace k sites s = _
  simp [execTeamPlace, hg, hx, hnext, hruns, hlen, hone, hfirst, hu]

/-- A Loading team without hamper bytes still to copy, whose copies have landed, runs. -/
theorem hamperCopy_done {s : State} {k : Nat} {t : Team} (ht : s.team? k = some t) (hstate : t.state = .loading) (hcore : t.core ≠ none)
    (hbytes : ∀ h ∈ t.hamper, h.bytes = 0) (hcopies : ∀ x ∈ s.copies, x.2.team ≠ k) :
    exec (.hamperCopy k) s = .next (s.updTeam k fun t => { t with state := .running, hamper := [] }) := by
  have hnone : (t.hamper.any (·.bytes ≠ 0)) = false := by simpa using hbytes
  have hlanded : (s.copies.any fun (_, c) => c.team = k) = false := by simpa using fun n c hx => hcopies (n, c) hx
  show execHamperCopy k s = _
  simp only [execHamperCopy, ht, hstate, hnone, hlanded]
  simp [hcore]

/-! ### Retirement (R17, R18, R360, R376) -/

section
variable {s : State} {k : Nat} {t : Team}

/-- A joining team that has left its core is gone once its children are. -/
theorem teamRetire_gone (ht : s.team? k = some t) (hlive : s.ctxLive t.ctx = true) (hstate : t.state = .joining) (hcore : t.core = none)
    (hchildren : t.children = []) : exec (.teamRetire k) s = .next (s.endTeam k t) := by
  show execTeamRetire k s = _
  simp [execTeamRetire, ht, hlive, hstate, hcore, hchildren]

/-- A joining team with nothing outstanding frees its core. -/
theorem teamRetire_frees (ht : s.team? k = some t) (hlive : s.ctxLive t.ctx = true) (hstate : t.state = .joining) (hcore : t.core ≠ none)
    (hquiet : s.teamQuiet k t = true) :
    exec (.teamRetire k) s = .next (if t.children = [] then (s.freeTeam k t).endTeam k t else s.freeTeam k t) := by
  show execTeamRetire k s = _
  simp [execTeamRetire, ht, hlive, hstate, hcore, hquiet]

theorem teamRetire_notJoining (ht : s.team? k = some t) (hstate : t.state ≠ .joining) : exec (.teamRetire k) s = .next s := by
  show execTeamRetire k s = _
  simp [execTeamRetire, ht, hstate]

end

/-- A grid of a launch that has placed all its teams retires once they and its children have: the partials of its context are combined. -/
theorem gridRetire_completes {s : State} {k c : Nat} {g : Grid} (hg : s.grids.get? k = some g) (hshape : g.shape ≠ none) (hnext : g.next = g.n)
    (hteams : g.live = 0) (hchildren : g.children = []) (hlive : s.ctxLive g.ctx = true) (hcmd : g.cmd = some c) :
    exec (.gridRetire k) s = .next (({ s.flushPartials (fun p => p.ctx = g.ctx) with
      grids := s.grids.del k, bars := s.bars.filter fun x => x.2.grid ≠ some k }.tellParent k g).complete c 0 0) := by
  have hsome : g.shape.isSome = true := Option.isSome_iff_ne_none.2 hshape
  show execGridRetire k s = _
  simp [execGridRetire, hg, hsome, hnext, hteams, hchildren, hlive, hcmd]

/-- R372: a child grid whose first team waits unplaced for the lookout limit ends its context. -/
theorem childPlacementTimeout_faults {s : State} {k : Nat} {g : Grid} {c : Ctx} (hg : s.grids.get? k = some g) (hparent : g.parent ≠ none)
    (hshape : g.shape ≠ none) (hnext : g.next = 0) (hc : s.ctx? g.ctx = some c) (hlimit : c.lookout ≤ s.ref - g.waitFrom) :
    exec (.childPlacementTimeout k) s = .next (s.taskFault g.ctx 6 0xFF g.blockAt g.block) := by
  have hchild : g.parent.isSome = true := Option.isSome_iff_ne_none.2 hparent
  have hsome : g.shape.isSome = true := Option.isSome_iff_ne_none.2 hshape
  show execChildPlacementTimeout k s = _
  simp [execChildPlacementTimeout, hg, hchild, hsome, hnext, hc, hlimit]

/-- Settles O46: each event of a grid and of its teams has its law above. -/
theorem gridResults : Obligations.GridResults := by
  refine ⟨?_, ?_, ?_, ?_, ?_, ?_, ?_⟩
  · intro s k g x i hg hshape htoken hfailed hlive hi hread hold hslot hadm
    rw [execGridStart_eq ⟨hg, hshape, htoken, hfailed, hlive⟩ ⟨hread, hslot⟩ hi, if_neg (by simpa [hold] using hadm)]
  · intro s k g x hg hshape htoken hfailed hlive hread hslot
    exact gridStart_unheld ⟨hg, hshape, htoken, hfailed, hlive⟩ ⟨hread, hslot⟩
  · exact fun s k g x sites u => teamPlace_places
  · exact fun s k t => hamperCopy_done
  · exact fun s k t ht hlive => ⟨teamRetire_gone ht hlive, teamRetire_frees ht hlive, teamRetire_notJoining ht⟩
  · intro s k c g hg hshape hnext hteams hchildren hlive hcmd
    exact ⟨fun p hp hctx => State.flushPartials_left hp (decide_eq_true hctx), State.flushPartials_grids _ _, State.flushPartials_bars _ _,
      gridRetire_completes hg hshape hnext hteams hchildren hlive hcmd⟩
  · exact fun s k g c => childPlacementTimeout_faults

end Sys2Proof.Machine
end

section
/-! PROOFS. The uniform operand of VBCAST and VROT, and the table unit (06_vector.md R181, R187 to R189). -/
namespace Sys2Proof.Machine
open Sys2Proof

/-- An instruction whose body leaves its group at its slot stays. -/
theorem stays_of_issue {i : Instr} {s s' : State} {r : GRef} {t : Team} {g g' : Group} {n : Nat} {body : GRef → Team → Group → Res}
    (h : s.current = some (r, t, g)) (hi : exec i s = s.issue n body) (hb : body r t g = .stay s' g') : Stays i s r t n s' g' := by
  rw [Stays, hi, State.issue_eq h, hb]

/-- A change of a team that there is stores the changed team. -/
theorem State.updTeam_eq_putTeam {s : State} {k : Nat} {t : Team} (h : s.team? k = some t) (f : Team → Team) :
    s.updTeam k f = s.putTeam k (f t) := by
  have hget : s.teams.get? k = some t := h
  rw [State.updTeam, State.putTeam, Tbl.upd, hget]

/-! ### VBCAST and VROT (R181) -/

/-- R70, R181: the operand n in lane 0; its immediate is sign-extended. -/
theorem Group.opX_zero (g : Group) (f : FmtBR) :
    g.opX f 0 = match f.tail.lit? with
      | some x => (x.extractLsb' 0 32).toNat
      | none => if f.immSel then (f.w2.imm.signExtend 32).toNat
        else if f.sb = 1 then ((g.s f.b.toNat).extractLsb' 0 32).toNat else ((g.v f.b.toNat).lane 0).toNat := rfl

/-- An instruction whose effect writes the selected lanes of v[D] completes with them written. -/
theorem completes_of_lanesEff {i : Instr} {s : State} {r : GRef} {t : Team} {g : Group} {f : FmtBR} {x : Group → Nat → Word} {y : Nat → Word}
    (h : s.current = some (r, t, g)) (hi : exec i s = (lanesEff f x).run s f.len) (hx : x g = y) :
    Completes i s r t f.len s (g.setV f.d.toNat (g.sel f) y) :=
  completes_of_issue h hi (congrArg (fun y => Res.done s (g.setV f.d.toNat (g.sel f) y)) hx)

/-- Settles O11: both effects read the operand n in lane 0, whatever lane they write. -/
theorem broadcastAndRotate : Obligations.BroadcastAndRotate := by
  intro s r t g f h a n
  have hn : g.opX f 0 = n := g.opX_zero f
  refine ⟨completes_of_lanesEff h rfl ?_, completes_of_lanesEff h rfl ?_⟩
  · simp only [hn, a]
  · simp only [hn, a]

/-! ### ATLOAD (R187) -/

section
variable {s : State} {r : GRef} {t : Team} {g : Group} {f : FmtBR}

/-- With no lane selected ATLOAD has no effect. -/
theorem atload_noLane (h : s.current = some (r, t, g)) (hw : g.waiting = false) (hsel : g.sel f = 0) : Completes (.atload f) s r t f.len s g :=
  completes_of_issue h rfl (by simp only [hw, Bool.false_eq_true, if_false, if_pos hsel])

theorem atload_unaligned (h : s.current = some (r, t, g)) (hw : g.waiting = false) (hsel : g.sel f ≠ 0)
    (ha : (g.s f.a.toNat).toNat % 16 ≠ 0) : Faults (.atload f) s r t f.len { code := .align, addr := g.s f.a.toNat } :=
  faults_of_issue h rfl (by simp only [hw, Bool.false_eq_true, if_false, if_neg hsel, if_pos ha])

/-- An image that extends beyond the team's memory takes PAGE_PROT. -/
theorem atload_outside (h : s.current = some (r, t, g)) (hw : g.waiting = false) (hsel : g.sel f ≠ 0)
    (ha : (g.s f.a.toNat).toNat % 16 = 0) (hm : t.shape.mem < (g.s f.a.toNat).toNat + tableBytes) :
    Faults (.atload f) s r t f.len { code := .pageProt, addr := g.s f.a.toNat } :=
  faults_of_issue h rfl (by simp only [hw, Bool.false_eq_true, if_false, if_neg hsel, if_neg (not_not_intro ha), if_pos hm])

/-- An ATLOAD that passes both checks waits for the acquires and the scratchpad accesses of its group (R109). -/
theorem atload_held (h : s.current = some (r, t, g)) (hw : g.waiting = false) (hsel : g.sel f ≠ 0)
    (ha : (g.s f.a.toNat).toNat % 16 = 0) (hm : (g.s f.a.toNat).toNat + tableBytes ≤ t.shape.mem) (he : s.engineHeld r = true) :
    Stays (.atload f) s r t f.len s g :=
  stays_of_issue h rfl (by
    simp only [hw, Bool.false_eq_true, if_false, if_neg hsel, if_neg (not_not_intro ha), if_neg (Nat.not_lt.2 hm), he, if_true])

/-- With none outstanding it joins the queue of the table unit, and its group waits. -/
theorem atload_queues (h : s.current = some (r, t, g)) (hw : g.waiting = false) (hsel : g.sel f ≠ 0)
    (ha : (g.s f.a.toNat).toNat % 16 = 0) (hm : (g.s f.a.toNat).toNat + tableBytes ≤ t.shape.mem) (he : s.engineHeld r = false) :
    Stays (.atload f) s r t f.len
      (s.updTeam r.team fun t => { t with atq := t.atq ++ [⟨r.grp, (g.s f.a.toNat).toNat⟩] }) { g with waiting := true } :=
  stays_of_issue h rfl (by
    simp only [hw, Bool.false_eq_true, if_false, if_neg hsel, if_neg (not_not_intro ha), if_neg (Nat.not_lt.2 hm), he])

end

/-! ### The table unit (R188) -/

/-- The first ATLOAD waiting begins once the target bank has no user. -/
theorem tableWriteStart_begins {s : State} {k : Nat} {t : Team} {x : AtLoad} {rest : List AtLoad} (ht : s.team? k = some t)
    (hidle : t.unit = .idle) (hq : t.atq = x :: rest) (hcore : t.core ≠ none) (hfree : s.bankUsed k (1 - t.cur) = false) :
    exec (.tableWriteStart k) s =
      .next (s.putTeam k { t with unit := .writing x.grp (1 - t.cur) (s.teamRead t x.offset tableBytes), atq := rest }) := by
  show execTableWriteStart k s = _
  simp [execTableWriteStart, ht, hidle, hq, hcore, hfree]

/-- A team once its table unit has written an image into a bank: the bank is current, and the unit is idle. -/
def Team.switched (t : Team) (bank : Nat) (img : List Byte) : Team :=
  { t with unit := .idle, cur := bank, bank0 := if bank = 0 then img else t.bank0, bank1 := if bank = 0 then t.bank1 else img }

section
variable {s : State} {k grp bank : Nat} {t : Team} {g : Group} {img : List Byte}

theorem tableSwitch_bad (ht : s.team? k = some t) (hunit : t.unit = .writing grp bank img) (hbad : tableBad img = true) :
    exec (.tableSwitch k) s = .next ((s.updTeam k fun t => { t with unit := .idle }).fatal ⟨k, grp⟩ { code := .illField }) := by
  show execTableSwitch k s = _
  simp only [execTableSwitch, ht, hunit, hbad, if_true]

/-- A good image makes its bank current, and its group goes on past the three words of the ATLOAD. -/
theorem tableSwitch_good (ht : s.team? k = some t) (hunit : t.unit = .writing grp bank img) (hg : t.groups[grp]? = some g)
    (hgood : tableBad img = false) :
    exec (.tableSwitch k) s =
      .next ((s.putTeam k (t.switched bank img)).finish ⟨k, grp⟩ (t.switched bank img) 3 (.done (s.putTeam k (t.switched bank img)) g)) := by
  have hswitch := State.updTeam_eq_putTeam ht (·.switched bank img)
  have hgroup : (s.putTeam k (t.switched bank img)).group? ⟨k, grp⟩ = some g := by
    rw [State.group?, State.team?_putTeam_same]
    exact hg
  simp only [Team.switched] at hswitch hgroup ⊢
  show execTableSwitch k s = _
  simp [execTableSwitch, ht, hunit, hgood, hswitch, hgroup]

end

/-- Settles O19: the checks of ATLOAD in their order decide how it ends, and each event of the table unit has its law above. -/
theorem tableResults : Obligations.TableResults := by
  refine ⟨fun s r t g f h hw => ⟨atload_noLane h hw, atload_held h hw, atload_queues h hw, atload_unaligned h hw, atload_outside h hw⟩,
    ?_, ?_, ?_⟩
  · exact fun s r t g f h => completes_of_issue h rfl rfl
  · exact fun s k t x rest => tableWriteStart_begins
  · intro s k t g grp bank img ht hunit hg
    refine ⟨tableSwitch_bad ht hunit, fun hgood => ⟨_, t.switched bank img, rfl, rfl, ?_, ?_, rfl, rfl, tableSwitch_good ht hunit hg hgood⟩⟩
    · rintro rfl
      exact ⟨rfl, rfl⟩
    · rintro rfl
      exact ⟨rfl, rfl⟩

end Sys2Proof.Machine
end
